-- ==== Sys2Proof/Word.lean ====
section
/-! DEFINITION. The words of the module: bytes, the widths the spec names, and the sparse tables that hold memory and
the other keyed state. -/

namespace Sys2Proof

abbrev Byte := BitVec 8
abbrev Half := BitVec 16
abbrev Word := BitVec 32
abbrev Dword := BitVec 64

/-- Sparse data by key: entries in strictly rising key order. What an unlisted key reads as is said by the reader. -/
abbrev Tbl (α : Type) := List (Nat × α)

end Sys2Proof
end

