-- ==== Sys2Proof/Config.lean ====
section
/-! DEFINITION. What the spec leaves open: free values and uninterpreted functions (no body: nothing in Lean can
evaluate them), and the fixed sizes of the module. -/

namespace Sys2Proof.Config

/-- The n-th free value (log 6): a value the spec leaves open. The user of a free value cuts it to the width or range
that the spec gives. -/
opaque freeNat : Nat → Nat

/-- Which of the FP32 values within 1 unit in the last place of the exponential of an operand is its result, counted
from the lowest (R356: it depends on the operand only; log 18). -/
opaque expPick : Nat → Nat

/-- The same for the reciprocal square root (R356, log 18). -/
opaque rsqrtPick : Nat → Nat

/-- The table function of a row operation where its position is not a number: a function of the operand, `TBL_LO`, `TBL_RSTEP` and
the table (R97, R356; log 6). -/
opaque tablePick : Nat → Nat → Nat → Nat → Nat

/-- The pair that a round of a top-k chooses when none is left: a function of the scores, `TK_BASE` and the rounds still to come (R97,
R354; log 6). -/
opaque topPick : List Nat → Nat → Nat → Nat × Nat

/-- A management packet's header whose `PK_NROWS` is 0 announces no row, and not one (R396, R397; log 94). -/
opaque managementBare : Nat → Bool

/-! Cryptographic functions (R413, R414, R554, R557, R561, R562): standards the spec cites and does not define.
Uninterpreted (log 7). -/

/-- SHA-384 of a byte string (R553). -/
opaque sha384 : List Byte → BitVec 384
/-- HMAC-SHA-384 of a key and a byte string (R557). -/
opaque hmac384 : BitVec 384 → List Byte → BitVec 384
/-- ECDSA P-384 verification of (public key, digest, signature) under FIPS 186-5 (R554, R562). -/
opaque ecdsaVerify : List Byte → BitVec 384 → List Byte → Bool
/-- ECDSA P-384 signature by a private key seed over a digest (R559). -/
opaque ecdsaSign : BitVec 384 → BitVec 384 → List Byte
/-- The public key of an ECDSA P-384 pair derived from a secret by HKDF-SHA-384 (R557). -/
opaque derivePublic : BitVec 384 → List Byte
/-- The key-agreement secret of R560, derived from CDI_A (R557). -/
opaque deriveAgreement : BitVec 384 → BitVec 384
/-- Unwrapping of R561: (key-agreement secret, ephemeral public key, serial, port, wrapped bytes) to the 36 bytes of
key and salt, or none when the integrity check fails. -/
opaque unwrapKey : BitVec 384 → List Byte → Dword → Byte → List Byte → Option (List Byte)
/-- AES-256 GCM encryption of a record's bodies: (key, nonce, authenticated data, bodies) to ciphertext bodies (R414). -/
opaque gcmEncrypt : BitVec 256 → BitVec 96 → List Byte → List Byte → List Byte
/-- AES-256 GCM decryption. -/
opaque gcmDecrypt : BitVec 256 → BitVec 96 → List Byte → List Byte → List Byte
/-- AES-256 GCM tag of the ciphertext (16 bytes) (R414). -/
opaque gcmTag : BitVec 256 → BitVec 96 → List Byte → List Byte → List Byte
/-- The measurement of the boot ROM (R559, index 1). -/
opaque bootRomMeasure : BitVec 384
/-- The device certificate chain at flash 0x0310_0000 and the alias certificates appended to it (R558). -/
opaque certChain : BitVec 384 → BitVec 384 → List Byte

/-! Sizes. -/

/-- Cores per die (R25). -/
def coresPerDie : Nat := 56
/-- Cores of the module (R26). -/
def nCores : Nat := 896
/-- Compute dies (R20). -/
def nDies : Nat := 16
/-- Jophor ports (R372). -/
def nPorts : Nat := 64
/-- Mailbox channels (R478). -/
def nChannels : Nat := 16
/-- HBM stacks (R20). -/
def nStacks : Nat := 8
/-- Photonic dies (R20). -/
def nPhotonic : Nat := 4
/-- Partition IDs run from 1 to 63 (R424). -/
def maxPartition : Nat := 63
/-- 2 MiB pages populated in one stack (R317). -/
def pagesPerStack : Nat := 22888

end Sys2Proof.Config
end

