-- ==== Sys2Proof/Syntax.lean ====
section
/-! DEFINITION. The commands of the module: one constructor per row of spec/opcode_table.json. The table gives no
fields, so the operands are the model's (log 14): which core, port, die, channel or command the row acts on, and what
the row brings from outside (data, pin levels, readings). -/

namespace Sys2Proof

/-- The units of a core that issue accesses or raise faults, with the `FR_UNIT` numbering of R370 in `CoreUnit.code`.
`cdma` stands for a core DMA move (CDMA-in, CDMA-out or both, R306); `row` is the row engine of R327. -/
inductive CoreUnit where
  | sequencer | press | cdma | dieDma | row | vector | tally | fsu | signal
  deriving DecidableEq, Repr

/-- A management processor (R37). -/
inductive Mp where
  | a | b
  deriving DecidableEq, Repr

/-- A power domain with states of its own (R516). -/
inductive Domain where
  | core (n : Nat) | die (n : Nat) | photonic (n : Nat) | module
  deriving DecidableEq, Repr

/-- A source of a wake, with the IDs of R519. -/
inductive WakeSource where
  | host | firmware | assay | linkManager | debug | partition (p : Nat) | smbus | alarm | perst
  deriving DecidableEq, Repr

/-- Pads held while a domain is down (R530). -/
inductive Pad where
  | hbmPhy (die : Nat) | ucie (dieA dieB : Nat) | xspi | elsfp | tdo
  deriving DecidableEq, Repr

/-- A bit upset that struck a stored word (R264): the physical byte address of the word, and whether more than one bit
is wrong. Brought by the scrub commands (log 10). -/
structure Upset where
  addr : Nat
  many : Bool
  deriving DecidableEq, Repr

/-- A write that the host made to its own memory before the command that carries it (log 9). -/
structure HostWrite where
  addr : Nat
  data : List Byte
  deriving DecidableEq, Repr

/-- One container of a frame as received (R378): its mark, its 256 flit bytes, whether the FEC could correct every
codeword it touches (R379), and how many symbols the FEC corrected for it (R422). -/
structure Container where
  mark : Byte
  flit : List Byte
  fecOk : Bool
  corrected : Nat
  deriving DecidableEq, Repr

/-- What the far end reports in training (R391), and whether it sends a role request (R395). -/
structure PeerInfo where
  serial : Dword
  moduleId : Half
  port : Nat
  buffers : List Nat
  requests : Bool
  deriving DecidableEq, Repr

/-- What firmware classifies (R445): the fault record of a core, a condition reported directly by a core, or a condition
that firmware detects itself. -/
inductive FaultSource where
  | record (core : Nat)
  | checkError (core : Nat)
  | dieFailed (die : Nat)
  | stackFailed (stack : Nat)
  | spareExhausted (core : Nat)
  | hubFailed
  deriving DecidableEq, Repr

/-- A write to hub control state (the list under The stamp): a route entry, a core's W_RETAIN, or a vote held by
firmware (R466 to R469). -/
inductive HubWrite where
  | route (id : Half) (entry : Word)
  | retain (core : Nat) (mask : Half)
  | vote (dom : Domain) (state : Nat)
  deriving DecidableEq, Repr

/-- A request through the Assay request port (R465). -/
inductive AssayReq where
  | sustained (watts : Nat) | throttlePoint (celsius : Nat) | fenceForLife (core : Nat) | transient (watts : Nat)
  | trip (celsius : Nat)
  deriving DecidableEq, Repr

/-- The commands of the module. -/
inductive Instr where
  /-- LIST_START (R325): Firmware gives a core its list base; the header is checked and entry 1 issues first. -/
  | listStart (core : Nat)
  /-- LIST_FETCH_RETURN (R326): A fetch of a row of 32 entries into the sequencer's fetch buffer completes. -/
  | listFetchReturn (core ahead : Nat)
  /-- END (R340): An end entry issues after all earlier entries complete, closes open hoops and stops the core. -/
  | endList (core : Nat)
  /-- RUN_LAYER (R76): A run-layer entry starts a Press layer, which runs its tiles, slices and events. -/
  | runLayer (core : Nat)
  /-- SKIM_DOWN_UNCONFIRMED (R143): A switch down is not confirmed within 1 µs, so the core switches back and raises the
  SKIM_SWITCH_FAIL event. -/
  | skimDownUnconfirmed (core : Nat)
  /-- SKIM_BACK_UNCONFIRMED (R143): A switch back is not confirmed within 1 µs, so the layer faults with SKIM_SWITCH_FAIL. -/
  | skimBackUnconfirmed (core : Nat)
  /-- LAYER_DRAIN_END (R327): The drain of a layer ends and the run-layer entry completes. -/
  | layerDrainEnd (core : Nat)
  /-- MOVE_COPY (R293): A move entry with function copy carries elements from source to destination. -/
  | moveCopy (core : Nat)
  /-- MOVE_COMPRESS (R294): A compress move makes compressed weight plane rows and metadata, or kept values. -/
  | moveCompress (core : Nat)
  /-- MOVE_ZERO_RUN_STORE (R295): A zero-run store move writes a tile's run blocks. -/
  | moveZeroRunStore (core : Nat)
  /-- MOVE_MASK_TRANSPOSE (R296): A mask transpose move writes the masks and kept values of the transposed weights. -/
  | moveMaskTranspose (core : Nat)
  /-- MOVE_SCATTER_ADD (R216): A scatter-add move adds source rows into destination rows named by an index list. -/
  | moveScatterAdd (core : Nat)
  /-- MOVE_REDUCE_CONTRIBUTION (R346): A move sends contribution rows to the die reducer for a reduction set. -/
  | moveReduceContribution (core : Nat)
  /-- MOVE_SELECTIVE_FETCH (R225): A die DMA move fetches the table rows that an index list selects. -/
  | moveSelectiveFetch (core : Nat)
  /-- DIE_DMA_MOVE_START (R307): A move queued at the die DMA engine starts when its turn comes. -/
  | dieDmaMoveStart (core : Nat)
  /-- MOVE_COMPLETE (R327): A move's last row is written, applied in a hoop or taken by the reducer, and the move completes. -/
  | moveComplete (core idx : Nat)
  /-- HBM_WRITE_ACK (R327): A memory controller acknowledges an HBM write. -/
  | hbmWriteAck (core stack : Nat)
  /-- FILL (R236): A fill entry writes a 32-bit pattern into a row range. -/
  | fill (core : Nat)
  /-- MARK_EMPTY (R239): A fill entry of form mark empty sets the tags of a row range to empty. -/
  | markEmpty (core : Nat)
  /-- MARK_FULL (R239): A fill entry of form mark full sets the tags of a row range to full. -/
  | markFull (core : Nat)
  /-- COPY (R238): A copy entry copies rows within the core, in the order that handles overlap. -/
  | copy (core : Nat)
  /-- ROW_ENGINE_COMPLETE (R327): The last row of a fill or copy is written and the entry completes. -/
  | rowEngineComplete (core : Nat)
  /-- WAIT_COUNT (R253): A wait-count entry issues and blocks until a hoop counter reaches its target. -/
  | waitCount (core : Nat)
  /-- WAIT_COUNT_MET (R253): The hoop counter reaches the target and the wait-count completes. -/
  | waitCountMet (core : Nat)
  /-- WAIT_TAG (R244): A wait-tag entry issues and blocks until a row is full or empty. -/
  | waitTag (core : Nat)
  /-- WAIT_TAG_MET (R244): The row's tag satisfies the wait and the entry completes. -/
  | waitTagMet (core : Nat)
  /-- SIGNAL (R339): A signal entry enters the signal queue without blocking issue. -/
  | signal (core : Nat)
  /-- SIGNAL_SEND (R339): Once earlier moves to hoop addresses complete, the queued signal is sent. -/
  | signalSend (core : Nat)
  /-- OPEN_HOOP (R248): An open-hoop entry is checked and waits for holds on its range. -/
  | openHoop (core : Nat)
  /-- HOOP_OPENED (R248): Once no hold remains on its range, the hoop opens with its counter at 0. -/
  | hoopOpened (core : Nat)
  /-- CLOSE_HOOP (R256): A close-hoop entry stops acceptance at the end of its cycle. -/
  | closeHoop (core : Nat)
  /-- CLOSE_HOOP_COMPLETE (R256): The last arrival granted before the close is applied and the close-hoop completes. -/
  | closeHoopComplete (core : Nat)
  /-- HISTOGRAM_ARM (R186): A histogram entry arms an engine on a tap, clearing its counts. -/
  | histogramArm (core : Nat)
  /-- HISTOGRAM_STOP (R186): A histogram entry stops an engine, keeping its counts. -/
  | histogramStop (core : Nat)
  /-- HISTOGRAM_DUMP (R186): A histogram entry writes an engine's counts to two P-store rows. -/
  | histogramDump (core : Nat)
  /-- HISTOGRAM_DUMP_AND_CLEAR (R186): A histogram entry dumps an engine's counts and then clears them. -/
  | histogramDumpAndClear (core : Nat)
  /-- TURN (R361): A turn entry issues after all earlier entries complete and checks that no hoop is open. -/
  | turn (core : Nat)
  /-- TURN_COMMIT_WRITE (R361): Once the HBM writes are acknowledged, the turn increments its counter and writes the commit record. -/
  | turnCommitWrite (core : Nat)
  /-- TURN_DONE (R361): The controller acknowledges the commit record, the turn completes and TURN_DONE is raised. -/
  | turnDone (core : Nat)
  /-- BRANCH_ON_COUNT (R335): A branch-on-count entry compares a counter with BR_VALUE and branches. -/
  | branchOnCount (core : Nat)
  /-- BRANCH_DECREMENT (R336): A branch with BR_LOOP 1 decrements a loop register, then compares and branches. -/
  | branchDecrement (core : Nat)
  /-- LOOP_LOAD (R336): A branch with BR_LOOP 2 loads BR_VALUE into a loop register. -/
  | loopLoad (core : Nat)
  /-- QUANTISE (R163): A vector entry quantises rows into codes and scales. -/
  | quantise (core : Nat)
  /-- SCALE_GRADIENT (R176): A vector entry computes dL/dy and dL/ds for a learned scale. -/
  | scaleGradient (core : Nat)
  /-- OPTIMISER_UPDATE (R181): A vector entry updates weights and narrow moments group by group. -/
  | optimiserUpdate (core : Nat)
  /-- TOP_K (R354): A vector entry selects the k largest scores of each token. -/
  | topK (core : Nat)
  /-- ROW_OPERATION (R356): A vector entry applies a scaled function and optional row reduction to rows. -/
  | rowOperation (core : Nat)
  /-- VECTOR_OP_COMPLETE (R327): The last row of a vector operation is written and the entry completes. -/
  | vectorOpComplete (core : Nat)
  /-- FSU_JOB (R359): A float entry queues a BF16 or FP32 matrix job at the die's FSU. -/
  | fsuJob (core : Nat)
  /-- FSU_JOB_COMPLETE (R360): The FSU writes the last row of C and the float entry completes. -/
  | fsuJobComplete (core : Nat)
  /-- ACCESS_GRANT_AFTER_WAIT (R242): A store access waiting on a tag, hold or slot is granted once its condition holds. -/
  | accessGrantAfterWait (core : Nat) (unit : CoreUnit)
  /-- WATCHDOG_EXPIRY (R242): A wait outlasts the list watchdog, and the waiting operation faults with WAIT_TIMEOUT. -/
  | watchdogExpiry (core : Nat) (unit : CoreUnit)
  /-- REMOTE_WRITE_ARRIVAL (R250): A remote write row reaches a hoop and is written whole when its tag condition holds. -/
  | remoteWriteArrival (core k : Nat)
  /-- REDUCE_ADD_ARRIVAL (R250): A reduce-add row reaches a hoop and enters the P-store conflict queue. -/
  | reduceAddArrival (core k : Nat)
  /-- SIGNAL_ARRIVAL (R252): A signal reaches a hoop and adds its value to the arrival counter. -/
  | signalArrival (core k : Nat)
  /-- REMOTE_READ (R254): A remote read reaches a hoop; it returns a full row or is answered not ready. -/
  | remoteRead (core k : Nat)
  /-- REMOTE_READ_RETRY (R254): 64 mesh cycles after a not-ready answer, the requester retries the read. -/
  | remoteReadRetry (core : Nat) (unit : CoreUnit)
  /-- CONFLICT_QUEUE_RETIRE (R218): The head entry of a conflict queue reads, adds into and writes back its row. -/
  | conflictQueueRetire (core : Nat)
  /-- SCRUB_VISIT (R269): The scrubber's interval expires and it visits the next row, correcting or poisoning words. -/
  | scrubVisit (core : Nat) (upsets : List Upset)
  /-- SPARE_COPY (R275): Firmware spares a failing store row by copying it to a spare row. -/
  | spareCopy (core store row : Nat)
  /-- REDUCER_CONTRIBUTION (R114): A contribution row reaches the die reducer and joins the result row in progress. -/
  | reducerContribution (die k : Nat)
  /-- CTU_TRANSLATION_FILL (R313): A translation missing from the CTU cache returns from the hub, and the access proceeds. -/
  | ctuTranslationFill (core : Nat) (unit : CoreUnit)
  /-- ROUTE_ENTRY_FILL (R409): A route entry missing from the die cache is read, and the waiting packet is routed. -/
  | routeEntryFill (die id : Nat)
  /-- HBM_PATROL_SCRUB (R322): The controller's daily read of its stack corrects and poisons words. -/
  | hbmPatrolScrub (stack : Nat) (upsets : List Upset)
  /-- HBM_SOFT_REPAIR (R461): Firmware repairs an HBM row by soft post-package repair on its pseudo-channel. -/
  | hbmSoftRepair (addr : Nat)
  /-- FRAME_RECEIVE (R378): A port receives a frame of five containers and processes each flit. -/
  | frameReceive (port : Nat) (frame : List Container)
  /-- FLIT_TRANSMIT (R384): In each container slot the sender picks a channel with a credit, or sends an idle flit. -/
  | flitTransmit (port : Nat)
  /-- RECORD_CLOSE_EARLY (R414): 256 flit times pass with no data flit ready, so the sender closes the record with a tag flit. -/
  | recordCloseEarly (port : Nat)
  /-- REPLAY_TIMEOUT (R388): 5 µs pass without acknowledgement progress, so the sender resends from the oldest flit. -/
  | replayTimeout (port : Nat)
  /-- PACKET_ROUTE (R410): At the sending module a packet takes the first qualifying route port. -/
  | packetRoute (core : Nat) (unit : CoreUnit)
  /-- PACKET_ARRIVAL (R400): A whole write, reduce-add, signal or read packet arrives, is translated and checked. -/
  | packetArrival (port vc : Nat)
  /-- FORWARD_TIMEOUT (R411): No forwarding port comes up within 100 µs, so the packet is dropped. -/
  | forwardTimeout (port vc : Nat)
  /-- APPLIED_RESPONSE_SEND (R402): Every row of a packet is applied, and an applied response is sent. -/
  | appliedResponseSend (k : Nat)
  /-- APPLIED_RESPONSE (R403): An applied response reaches the sender and accounts for rows of its move. -/
  | appliedResponse (port : Nat)
  /-- REFUSED_RESPONSE (R403): A refused response reaches the sender and faults the move with its code. -/
  | refusedResponse (port : Nat)
  /-- UNREACHABLE_RESPONSE (R403): An unreachable response faults the move with XLATE_FAULT. -/
  | unreachableResponse (port : Nat)
  /-- READ_DATA_RESPONSE (R406): Read data from a remote hoop arrives at the requesting engine. -/
  | readDataResponse (port : Nat)
  /-- NOT_READY_RESPONSE (R254): A not-ready response arrives, and the engine schedules a retry. -/
  | notReadyResponse (port : Nat)
  /-- MANAGEMENT_MESSAGE (R397): A firmware management packet arrives on the management channel. -/
  | managementMessage (port : Nat)
  /-- LIGHT_DETECTED (R390): Light is detected on the wavelengths of a dark port, and training begins. -/
  | lightDetected (port mask : Nat)
  /-- TRAINING_COMPLETE (R391): Training ends with identity exchanged, roles settled and credits set; the port goes UP. -/
  | trainingComplete (port : Nat) (peer : PeerInfo)
  /-- TRAINING_FAIL (R390): Training fails and the port enters DOWN. -/
  | trainingFail (port : Nat)
  /-- FRAME_LOCK_LOST (R390): An UP port loses frame lock and enters HOLD. -/
  | frameLockLost (port : Nat)
  /-- FRAME_LOCK_RETURN (R390): Lock returns within 100 µs and the port returns to UP. -/
  | frameLockReturn (port : Nat)
  /-- HOLD_TIMEOUT (R390): A port stays in HOLD for 100 µs without lock and enters DOWN. -/
  | holdTimeout (port : Nat)
  /-- DOWN_RETRAIN (R390): Every 10 ms a DOWN port returns to TRAINING. -/
  | downRetrain (port : Nat)
  /-- LANE_DEGRADE (R374): A lane loses lock, exceeds its error ratio or fails its test. -/
  | laneDegrade (port lane : Nat)
  /-- LANE_MOVE (R375): At an agreed frame boundary the degraded lane moves to WL8. -/
  | laneMove (port : Nat)
  /-- LANE_TEST (R374): Every 10 s firmware tests the spare wavelength. -/
  | laneTest (port wl : Nat) (pass : Bool)
  /-- ROLE_REQUEST (R394): A role request for the leader role is received over link control. -/
  | roleRequest (port : Nat)
  /-- HANDOVER (R394): A handover offering the leader role is received, and accepted or declined. -/
  | handover (port : Nat)
  /-- ROLE_CHANGEOVER (R394): At the named frame boundary the clocks change over through HOLD. -/
  | roleChangeover (port : Nat)
  /-- FENCE_REQUEST (R435): A fence request arrives, and the peer places fence markers in three channels. -/
  | fenceRequest (port : Nat)
  /-- FENCE_MARKER (R435): A fence marker arrives on a channel, ending the discard on it. -/
  | fenceMarker (port vc : Nat)
  /-- FENCE_TIMEOUT (R435): The fence markers are not all in within 60 µs, so the port is taken DOWN. -/
  | fenceTimeout (port : Nat)
  /-- LASER_INPUT_LOSS (R418): A laser input's power falls below its limit, and the die fails over to the other input. -/
  | laserInputLoss (pd input : Nat)
  /-- PAGE_ZEROISE_DONE (R436): A released HBM page has been written with zeros and returns to the free pool. -/
  | pageZeroiseDone (stack : Nat)
  /-- PARTITION_POWER_SAMPLE (R442): Every 10 µs firmware measures each partition's power. -/
  | partitionPowerSample (watts : List Nat)
  /-- POWER_GATING (R443): The partition total exceeds PWR_PART over 100 µs, so partitions over their share are gated. -/
  | powerGating
  /-- RELEASE_DRAIN_END (R432): The drain of a release or move ends, and revocation, zeroising, binding and completion follow. -/
  | releaseDrainEnd (seq : Nat)
  /-- FAULT_CLASSIFY (R445): Firmware takes a fault record or condition, classes it and begins its action. -/
  | faultClassify (source : FaultSource)
  /-- SPARE_SELF_TEST_DONE (R453): A dark spare's short self test ends, and it is mapped, the work reset and resumed. -/
  | spareSelfTestDone (core : Nat) (pass : Bool)
  /-- LINK_RETIRE (R457): A die-to-die link fails retry or retraining and is retired. -/
  | linkRetire (link : Nat)
  /-- CORE_SELF_TEST_DONE (R462): A built-in self test of a fenced or dark core completes. -/
  | coreSelfTestDone (core : Nat) (pass : Bool)
  /-- DARK_SPARE_DAILY_TEST (R462): Once per 24 hours each dark spare's self test begins. -/
  | darkSpareDailyTest (core : Nat)
  /-- HEARTBEAT (R468): A management processor writes its heartbeat to Assay. -/
  | heartbeat (mp : Mp)
  /-- HEARTBEAT_LAPSE (R468): 4 ms pass without a heartbeat from a processor. -/
  | heartbeatLapse (mp : Mp)
  /-- STAMP_CLAIM (R467): A processor claims the stamp through the Assay request port. -/
  | stampClaim (mp : Mp) (epoch : Word)
  /-- ASSAY_CYCLE (R467): Assay firmware settles lapses and claims for the stamp once per cycle. -/
  | assayCycle
  /-- STANDBY_RELEASE (R468): 100 ms after being held in reset, a processor is released to boot as standby. -/
  | standbyRelease (mp : Mp)
  /-- HUB_CONTROL_WRITE (R469): A write to hub control state is accepted or, with a stale epoch, dropped. -/
  | hubControlWrite (epoch : Word) (write : HubWrite)
  /-- ASSAY_REQUEST (R465): A request to change Assay state is applied or refused within 1 ms. -/
  | assayRequest (request : AssayReq)
  /-- CHANNEL_ENABLE (R479): A write of CH_ENABLE 1 enables a mailbox channel, or is refused. -/
  | channelEnable (ch : Nat) (host : List HostWrite)
  /-- CHANNEL_DISABLE (R483): A write of CH_ENABLE 0 stops consumption and holds unwritten completions. -/
  | channelDisable (ch : Nat)
  /-- SQ_DOORBELL (R480): A write of MBX_SQ_TAIL announces new submission entries. -/
  | sqDoorbell (ch : Nat) (tail : Word) (host : List HostWrite)
  /-- CQ_DOORBELL (R481): A write of MBX_CQ_HEAD releases consumed completion slots. -/
  | cqDoorbell (ch : Nat) (head : Word)
  /-- COMMAND_ACCEPT (R487): Firmware reads the entry at its head and accepts it by writing its ledger entry. -/
  | commandAccept (ch : Nat)
  /-- COMPLETION_RECORD_WRITE (R501): A fixed result's completion record is written in channel order. -/
  | completionRecordWrite (ch : Nat)
  /-- LEDGER_ATTACH (R502): A write of LEDGER_ATTACH attaches the ledger area, copying or reading it. -/
  | ledgerAttach (host : List HostWrite)
  /-- EVQ_ENABLE (R592): A write of EVQ_ENABLE 1 enables the event queue. -/
  | evqEnable (value : Word)
  /-- EVQ_DISABLE (R592): A write of EVQ_ENABLE 0 disables the event queue. -/
  | evqDisable
  /-- EVQ_DOORBELL (R498): A write of EVQ_HEAD frees consumed event slots. -/
  | evqDoorbell (head : Word)
  /-- EVENT_RECORD_WRITE (R498): Firmware takes an event, fault or alarm and writes it to the event queue. -/
  | eventRecordWrite
  /-- ALARM_ENABLE_WRITE (R590): A write of ALARM_ENABLE may send vector 17 for flags already set. -/
  | alarmEnableWrite (value : Word)
  /-- ASSAY_STATUS_WRITE (R595): A BAR0 write to Assay status writes nothing and counts in ASSAY_WR_REFUSED. -/
  | assayStatusWrite (offset : Nat) (value : Word)
  /-- REGISTER_WRITE (R14): A write to a register without a row of its own acts under its access codes. -/
  | registerWrite (offset : Nat) (value : Word)
  /-- BAR2_READ (R497): A host read through the BAR2 window reaches HBM or completes as UR or poisoned. -/
  | bar2Read (offset len : Nat)
  /-- BAR2_WRITE (R497): A host write through the BAR2 window reaches HBM or is dropped. -/
  | bar2Write (offset : Nat) (data : List Byte)
  /-- PERST_ASSERT (R476): PERST_N low resets the endpoint and disables every channel. -/
  | perstAssert
  /-- PERST_DEASSERT (R551): PERST_N rises, LEGACY_MBX is sampled and the endpoint trains. -/
  | perstDeassert (legacyStrap : Bool)
  /-- HOST_LINK_LOSS (R476): Loss of the host link resets the endpoint as PERST_N does. -/
  | hostLinkLoss
  /-- IDENTIFY (R491): Command identify reports versions, mode, bin, cores and serial. -/
  | identify (seq : Nat)
  /-- QUERY_LEDGER (R491): Command query_ledger copies ledger entries to host memory. -/
  | queryLedger (seq : Nat)
  /-- QUERY_CORES (R491): Command query_cores writes the core masks of every die. -/
  | queryCores (seq : Nat)
  /-- READ_FAULT (R491): Command read_fault writes the fault records of a work. -/
  | readFault (seq : Nat)
  /-- CREATE_PARTITION (R424): Command create_partition creates a partition with an owner ID. -/
  | createPartition (seq : Nat)
  /-- DESTROY_PARTITION (R427): Command destroy_partition frees an empty partition's ID. -/
  | destroyPartition (seq : Nat)
  /-- BIND_RESOURCES (R430): Command bind_resources binds resources from the free pool. -/
  | bindResources (seq : Nat)
  /-- RELEASE_RESOURCES (R432): Command release_resources stops, drains and returns resources to the free pool. -/
  | releaseResources (seq : Nat)
  /-- MOVE_RESOURCES (R432): Command move_resources moves resources between two partitions. -/
  | moveResources (seq : Nat)
  /-- QUERY_PARTITION (R491): Command query_partition writes a partition's owner and resources. -/
  | queryPartition (seq : Nat)
  /-- START_WORK (R493): Command start_work starts one list per place as one work. -/
  | startWork (seq : Nat)
  /-- PREEMPT_WORK (R494): Command preempt_work stops a running work and enters it as preempted. -/
  | preemptWork (seq : Nat)
  /-- RESUME_WORK (R494): Command resume_work restarts a preempted or not-applied work from its common turn. -/
  | resumeWork (seq : Nat)
  /-- DISCARD_WORK (R494): Command discard_work ends a preempted or not-applied work. -/
  | discardWork (seq : Nat)
  /-- OPEN_WINDOW (R496): Command open_window maps BAR2 window pages onto partition pages. -/
  | openWindow (seq : Nat)
  /-- CLOSE_WINDOW (R496): Command close_window closes BAR2 window pages. -/
  | closeWindow (seq : Nat)
  /-- READ_ROWS (R495): Command read_rows reads store rows raw into host memory. -/
  | readRows (seq : Nat)
  /-- WRITE_ROWS (R495): Command write_rows writes host data into store rows. -/
  | writeRows (seq : Nat)
  /-- SET_MODULE_ID (R408): Command set_module_id sets the module ID. -/
  | setModuleId (seq : Nat)
  /-- SET_ROUTES (R409): Command set_routes writes route table entries together or not at all. -/
  | setRoutes (seq : Nat)
  /-- PORT_DISABLE (R390): port_control action 0 takes a port to DISABLED. -/
  | portDisable (seq : Nat)
  /-- PORT_ENABLE (R390): port_control action 1 takes a disabled port to DARK. -/
  | portEnable (seq : Nat)
  /-- FORWARDING_OFF (R411): port_control action 2 disables forwarding on a port. -/
  | forwardingOff (seq : Nat)
  /-- FORWARDING_ON (R411): port_control action 3 enables forwarding on a port. -/
  | forwardingOn (seq : Nat)
  /-- PREFER_LEADER (R394): port_control action 4 sets the port policy to the leader role. -/
  | preferLeader (seq : Nat)
  /-- PREFER_FOLLOWER (R394): port_control action 5 sets the port policy to the follower role. -/
  | preferFollower (seq : Nat)
  /-- ENCRYPTION_OFF (R413): port_control action 6 turns encryption off at the next training. -/
  | encryptionOff (seq : Nat)
  /-- ENCRYPTION_ON (R413): port_control action 7 turns encryption on at the next training. -/
  | encryptionOn (seq : Nat)
  /-- INSTALL_KEY (R561): Command install_key unwraps a link key into the port's next key. -/
  | installKey (seq : Nat)
  /-- LASER_RELEASE (R419): laser_service action 0 moves the ports to the other input and powers the laser module down. -/
  | laserRelease (seq : Nat)
  /-- LASER_RESTORE (R419): laser_service action 1 checks the new laser module and restores the normal split. -/
  | laserRestore (seq : Nat)
  /-- SET_REPRODUCIBLE (R146): Command set_reproducible sets or clears reproducible mode after running layers drain. -/
  | setReproducible (seq : Nat)
  /-- VOTE_CORE_STATE (R521): set_power_vote records a client's vote for a core's state. -/
  | voteCoreState (seq : Nat)
  /-- VOTE_DIE_STATE (R521): set_power_vote records a client's vote for a compute die's state. -/
  | voteDieState (seq : Nat)
  /-- VOTE_PHOTONIC_STATE (R521): set_power_vote records a client's vote for a photonic die's state. -/
  | votePhotonicState (seq : Nat)
  /-- VOTE_MODULE_STATE (R521): set_power_vote records a client's vote for the module state. -/
  | voteModuleState (seq : Nat)
  /-- VOTE_OPERATING_POINT (R521): set_power_vote records a client's vote for a die's operating point. -/
  | voteOperatingPoint (seq : Nat)
  /-- VOTE_WITHDRAW (R521): set_power_vote with state 0xFF withdraws a client's vote. -/
  | voteWithdraw (seq : Nat)
  /-- REQUEST_POWER_LIMIT (R465): request_limit kind 0 asks Assay to change the sustained power limit. -/
  | requestPowerLimit (seq : Nat)
  /-- REQUEST_THROTTLE_POINT (R465): request_limit kind 1 asks Assay to lower the throttle point. -/
  | requestThrottlePoint (seq : Nat)
  /-- READ_STATUS (R603): Command read_status writes a status register and its counters to host memory. -/
  | readStatus (seq : Nat)
  /-- CLEAR_STATUS (R603): Command clear_status clears chosen W1C flags and counters. -/
  | clearStatus (seq : Nat)
  /-- RUN_TEST_CORE (R462): run_test kind 0 self-tests a dark or fenced core. -/
  | runTestCore (seq : Nat)
  /-- RUN_TEST_LINK (R464): run_test kind 1 tests a die-to-die link, preempting works on both dies. -/
  | runTestLink (seq : Nat)
  /-- RUN_TEST_STACK (R464): run_test kind 2 tests a whole HBM stack, preempting its works. -/
  | runTestStack (seq : Nat)
  /-- RESTART_STANDBY (R468): Command restart_standby releases a processor held after three releases. -/
  | restartStandby (seq : Nat)
  /-- DOMAIN_ENTRY_BEGIN (R525): A domain's entry to a deeper state begins once its conditions hold. -/
  | domainEntryBegin (dom : Domain)
  /-- ENTRY_COMPLETE (R525): An entry passes its point of no return and completes with power removed. -/
  | entryComplete (dom : Domain)
  /-- ACCESS_WAKE (R528): An access finds its target asleep, stalls and wakes it. -/
  | accessWake (dom : Domain) (src : WakeSource)
  /-- WAKE_COMPLETE (R528): A woken domain is ready and the stalled accesses proceed. -/
  | wakeComplete (dom : Domain)
  /-- PLL_LOCK (R513): A retargeted standby PLL locks, and the clocks switch to it. -/
  | pllLock (die : Nat)
  /-- VOLTAGE_REACHED (R514): The regulators report the target voltage, allowing an upward frequency switch. -/
  | voltageReached (die : Nat)
  /-- PAD_RELEASE (R531): A release of held pads takes effect, or is ignored if the domain is not ready. -/
  | padRelease (pad : Pad)
  /-- INPUT_POWER_SAMPLE (R539): Every 1 µs the hub samples input power. -/
  | inputPowerSample (watts avg100 avg1ms avg10ms : Nat)
  /-- POWER_TRANSIENT_STEP (R539): The 100 µs average exceeds 3,400 W, so the power ceilings step down. -/
  | powerTransientStep
  /-- POWER_SUSTAINED_STEP (R539): The sustained average exceeds its limit, so the power ceilings step down. -/
  | powerSustainedStep
  /-- POWER_CEILING_RISE (R539): 10 ms at or below 95 % of the limit, so the power ceilings rise one point. -/
  | powerCeilingRise
  /-- SENSOR_READ (R540): Every 10 µs the hub reads the junction sensors. -/
  | sensorRead (temps : List (List Nat))
  /-- THROTTLE_REPEAT (R541): Each 1 ms a sensor stays hot, the thermal ceiling steps down again. -/
  | throttleRepeat (die : Nat)
  /-- THROTTLE_RISE (R541): After 10 ms below the throttle point − 5 °C the thermal ceiling rises one point. -/
  | throttleRise (die : Nat)
  /-- THERM_TRIP (R543): A sensor at 115 °C for 10 µs trips the Rind and removes power. -/
  | thermTrip (die sensor : Nat)
  /-- COOLANT_FAULT (R542): COOLANT_FAULT_N low for 100 µs sets the coolant ceiling to P3. -/
  | coolantFault
  /-- COOLANT_CLEAR (R542): The coolant input high for 1 s removes the coolant ceiling. -/
  | coolantClear
  /-- SUPPLY_FAULT (R544): A supply below 90 % for 2 µs removes power and latches the supply. -/
  | supplyFault (supply : Nat)
  /-- VAON_LOSS (R544): Loss of VAON takes the module to M3. -/
  | vaonLoss
  /-- PHASE_FAIL_OPEN (R536): A regulator phase fails open and is retired. -/
  | phaseFailOpen (die : Nat)
  /-- PHASE_SENSE_MISMATCH (R536): A phase's current sense disagrees with its duty for 10 µs and it is retired. -/
  | phaseSenseMismatch (die : Nat)
  /-- PHASE_STEP_REPEAT (R537): The phase condition still holds 20 µs after a step, so a further step follows. -/
  | phaseStepRepeat (die : Nat)
  /-- RIND_ALARM (R526): The Rind alarm timer expires and wakes the module from M2. -/
  | rindAlarm
  /-- SMBUS_ADDRESS_MATCH (R532): In M2 the Rind matcher acknowledges its address and wakes the module. -/
  | smbusAddressMatch (address : BitVec 7)
  /-- AON_RST (R548): AON_RST_N low performs the Rind reset, then a system reset. -/
  | aonRst (smbAddr : BitVec 2)
  /-- SYS_RST (R548): SYS_RST_N low performs the system reset with HBM in self refresh. -/
  | sysRst
  /-- BOOT_BEGIN (R550): With both resets high or on leaving M2, boot begins and BOOT_SRC is sampled. -/
  | bootBegin (bootSrc : Bool) (selfTest fuseCheck flashAnswers : Bool)
  /-- ASSAY_IMAGE_READ (R555): The boot ROM finishes reading an Assay image, validates it and derives CDI_A. -/
  | assayImageRead (image : List Byte)
  /-- MANAGEMENT_IMAGE_READ (R555): Assay firmware finishes reading the management image and validates it. -/
  | managementImageRead (image : List Byte)
  /-- FIRMWARE_READY (R555): Management firmware finishes initialising and reports ready. -/
  | firmwareReady (phases : List Nat)
  /-- BOOT_TIMEOUT (R556): Firmware does not reach ready within the stage 3 bound. -/
  | bootTimeout
  /-- DEBUG_UNLOCK (R562): The UNLOCK instruction shifts a debug token to Assay firmware for checking. -/
  | debugUnlock (token : List Byte)
  /-- SPDM_GET_VERSION (R559): An SPDM GET_VERSION request over MCTP is answered. -/
  | spdmGetVersion (request : List Byte)
  /-- SPDM_GET_CAPABILITIES (R559): An SPDM GET_CAPABILITIES request is answered. -/
  | spdmGetCapabilities (request : List Byte)
  /-- SPDM_NEGOTIATE_ALGORITHMS (R559): An SPDM NEGOTIATE_ALGORITHMS request is answered. -/
  | spdmNegotiateAlgorithms (request : List Byte)
  /-- SPDM_GET_DIGESTS (R559): An SPDM GET_DIGESTS request is answered. -/
  | spdmGetDigests (request : List Byte)
  /-- SPDM_GET_CERTIFICATE (R559): An SPDM GET_CERTIFICATE request is answered. -/
  | spdmGetCertificate (request : List Byte)
  /-- SPDM_CHALLENGE (R559): An SPDM CHALLENGE is signed, or refused while debug is open. -/
  | spdmChallenge (request : List Byte)
  /-- SPDM_GET_MEASUREMENTS (R559): An SPDM GET_MEASUREMENTS request returns the measurements. -/
  | spdmGetMeasurements (request : List Byte)
  /-- SMB_IDENT_READ (R596): SMBus command 0x00 returns serial, device, bin and revision. -/
  | smbIdentRead
  /-- SMB_STATE_READ (R596): SMBus command 0x01 returns boot stage, module state and latch summary. -/
  | smbStateRead
  /-- SMB_LATCH_READ (R597): SMBus command 0x02 read returns the Rind latches. -/
  | smbLatchRead
  /-- SMB_LATCH_WRITE (R597): SMBus command 0x02 write clears latches, with trip clear refused while hot. -/
  | smbLatchWrite (pecOk : Bool) (value : Byte)
  /-- SMB_TEMP_READ (R596): SMBus command 0x03 returns the hottest sensor of each die. -/
  | smbTempRead
  /-- SMB_POWER_READ (R596): SMBus command 0x04 returns the 100 µs average input power. -/
  | smbPowerRead
  /-- SMB_ALARM_READ (R596): SMBus command 0x05 returns the alarm flags. -/
  | smbAlarmRead
  /-- SMB_ALERT_EN_READ (R596): SMBus command 0x06 read returns the alert enables. -/
  | smbAlertEnRead
  /-- SMB_ALERT_EN_WRITE (R596): SMBus command 0x06 write sets which alarm flags drive ALERT_N. -/
  | smbAlertEnWrite (pecOk : Bool) (value : Half)
  /-- SMB_NONCE_READ (R596): SMBus command 0x08 issues a new debug nonce, replacing the previous one. -/
  | smbNonceRead
  /-- SMBUS_ALERT_RESPONSE (R598): A read of the alert response address returns the module's address and releases ALERT_N. -/
  | smbusAlertResponse
  /-- SMBUS_TIMEOUT (R577): The bus timeout expires, and the module releases both lines and resets its port. -/
  | smbusTimeout
  /-- SKIM_RAIL_SET (R133): Firmware sets a compute die's skim rail to a new value from 0.48 V to 0.60 V, and the rail begins to
  settle. -/
  | skimRailSet (die mv : Nat)
  /-- SKIM_RAIL_SETTLED (R133): The skim rail finishes settling, at most 50 µs after a change, and skim outcomes may again run on
  the rail. -/
  | skimRailSettled (die : Nat)
  /-- CURRENT_EXCEEDS_PHASE_CAPACITY (R537): A compute die's current averaged over 1 µs exceeds its phase capacity, so the die
  steps one point down and PHASE_LOST is raised. -/
  | currentExceedsPhaseCapacity (die : Nat)
  /-- VAON_RISE (R548): VAON rises from M3, which performs a Rind reset once VAON has been in range for 1 ms. -/
  | vaonRise (smbAddr : BitVec 2)
  /-- LINK_REACHES_L0 (R533): The PCIe link reaches L0, and the Rind releases WAKE_N. -/
  | linkReachesL0
  deriving DecidableEq, Repr

end Sys2Proof
end

