-- ==== Sys2Proof/Decode.lean ====
section
/-! DEFINITION. The opcode table gives no command bits: no word spells a command. -/

namespace Sys2Proof

/-- The command that a word spells by the bits of the opcode table: none, since the table gives no row any bits. -/
def decodeTableWord (nbits w : Nat) : Option Instr :=
  match nbits, w with
  | _, _ => none

end Sys2Proof
end

