-- ==== Sys2Proof/Machine/Bits.lean ====
section
/-! DEFINITION. Bit fields, byte strings in little-endian order (R9, R11), sparse tables and small list operations. -/

namespace Sys2Proof.Machine

/-! ## Bit fields of numbers -/

/-- Bits `[lo + w - 1 : lo]` of `n`. -/
def fld (n lo w : Nat) : Nat := (n >>> lo) % 2 ^ w

/-- Bit `lo` of `n`. -/
def bitAt (n lo : Nat) : Bool := (n >>> lo) % 2 == 1

/-- Two's complement reading of the low `w` bits of `n`. -/
def signed (w n : Nat) : Int :=
  let x := n % 2 ^ w
  if x < 2 ^ (w - 1) then (x : Int) else (x : Int) - 2 ^ w

/-- Two's complement pattern of `x` in `w` bits. -/
def toPat (w : Nat) (x : Int) : Nat := (x % (2 ^ w : Int)).toNat

/-- Position of the lowest set bit, counted from `base`, within the low `w` bits. -/
def lowBit : Nat → Nat → Nat → Option Nat
  | 0, _, _ => none
  | w + 1, base, n => if n % 2 = 1 then some base else lowBit w (base + 1) (n / 2)

/-- Number of set bits within the low `w` bits. -/
def popBits : Nat → Nat → Nat
  | 0, _ => 0
  | w + 1, n => n % 2 + popBits w (n / 2)

/-- `ceil (a / b)`. -/
def cdiv (a b : Nat) : Nat := (a + b - 1) / b

/-- A counter of width `w` that stops at its largest value (R13, R17). -/
def satInc (w n : Nat) : Nat := if n + 1 < 2 ^ w then n + 1 else 2 ^ w - 1

/-- Addition into a counter that stops at its largest value. -/
def satAdd (w n k : Nat) : Nat := if n + k < 2 ^ w then n + k else 2 ^ w - 1

/-! ## Byte strings -/

/-- The number whose little-endian bytes are `bs`. -/
def leNat : List Byte → Nat
  | [] => 0
  | b :: bs => b.toNat + 256 * leNat bs

/-- The `k` little-endian bytes of `n`. -/
def leBytes : Nat → Nat → List Byte
  | 0, _ => []
  | k + 1, n => BitVec.ofNat 8 n :: leBytes k (n / 256)

/-- Number of `w` bytes at byte offset `o` of a string. -/
def numAt (bs : List Byte) (o w : Nat) : Nat := leNat ((bs.drop o).take w)

/-- `k` zero bytes. -/
def zeros (k : Nat) : List Byte := List.replicate k 0

/-- Byte string `bs` cut or padded with zeros to `k` bytes. -/
def padTo (k : Nat) (bs : List Byte) : List Byte := (bs ++ zeros k).take k

/-- `bs` with the bytes from offset `o` replaced by `new`. -/
def patchAt (bs : List Byte) (o : Nat) (new : List Byte) : List Byte :=
  bs.take o ++ new ++ bs.drop (o + new.length)

/-- CRC-32C, one byte: Castagnoli polynomial, reflected (R362, R382). -/
def crcBits : Nat → Nat → Nat
  | 0, c => c
  | k + 1, c => crcBits k (if c % 2 = 1 then (c / 2) ^^^ 0x82F63B78 else c / 2)

def crcByte (c : Nat) (b : Byte) : Nat := crcBits 8 (c ^^^ b.toNat)

/-- CRC-32C of a byte string, initial and final value `0xFFFF_FFFF`. -/
def crc32c (bs : List Byte) : Nat := (bs.foldl crcByte 0xFFFFFFFF) ^^^ 0xFFFFFFFF

/-! ## Sparse tables -/

/-- The entry of key `k`, or the default. -/
def tget {α : Type} (t : Tbl α) (k : Nat) (d : α) : α :=
  match t.find? (fun e => e.1 == k) with
  | some e => e.2
  | none => d

/-- The entry of key `k`. -/
def tget? {α : Type} (t : Tbl α) (k : Nat) : Option α :=
  match t.find? (fun e => e.1 == k) with
  | some e => some e.2
  | none => none

/-- Set the entry of key `k`. -/
def tput {α : Type} : Tbl α → Nat → α → Tbl α
  | [], k, v => [(k, v)]
  | (j, w) :: t, k, v => if k < j then (k, v) :: (j, w) :: t else if k = j then (k, v) :: t else (j, w) :: tput t k v

/-- Remove the entry of key `k`. -/
def tdel {α : Type} (t : Tbl α) (k : Nat) : Tbl α := t.filter (fun e => !(e.1 == k))

/-! ## Lists -/

/-- The element at `i`, or the default. -/
def nth {α : Type} (l : List α) (i : Nat) (d : α) : α := l.getD i d

/-- Replace the element at `i`; nothing when there is none. -/
def setNth {α : Type} : List α → Nat → α → List α
  | [], _, _ => []
  | _ :: t, 0, v => v :: t
  | a :: t, i + 1, v => a :: setNth t i v

/-- Insert into a strictly rising list of numbers. -/
def insNat : List Nat → Nat → List Nat
  | [], k => [k]
  | j :: t, k => if k < j then k :: j :: t else if k = j then j :: t else j :: insNat t k

/-- Remove from a list of numbers. -/
def delNat (l : List Nat) (k : Nat) : List Nat := l.filter (fun j => !(j == k))

/-- The positions `i` below `n` at which `p` holds. -/
def idxs (n : Nat) (p : Nat → Bool) : List Nat := (List.range n).filter p

/-- A mask of the positions in a list. -/
def maskOf (l : List Nat) : Nat := l.foldl (fun m i => m ||| (1 <<< i)) 0

/-- The field position that a failed check names. -/
def badIf (b : Bool) (p : Nat) : List Nat := if b then [p] else []

/-- Are all elements different? -/
def allDistinct : List Nat → Bool
  | [] => true
  | a :: t => !(t.contains a) && allDistinct t

/-- Pieces of length `k` of a list, at most `n` of them. -/
def chunks {α : Type} : Nat → Nat → List α → List (List α)
  | 0, _, _ => []
  | n + 1, k, l => if l.isEmpty then [] else l.take k :: chunks n k (l.drop k)

end Sys2Proof.Machine
end

