-- ==== Sys2Proof/Machine/Float.lean ====
section
/-! DEFINITION. Floating-point values and their rounding: R79 to R83, R93, R149, R152. A value is exact (sign, natural
number, power of two) until it is rounded once to a format. -/

namespace Sys2Proof.Machine

/-- A floating-point value: not a number, an infinity, or `(-1)^neg × m × 2^e`. -/
inductive FVal where
  | nan
  | inf (neg : Bool)
  | fin (neg : Bool) (m : Nat) (e : Int)
  deriving DecidableEq, Repr

/-- Fraction bits of the formats; all have an 8-bit exponent of bias 127 (R79, R80). -/
def fracF32 : Nat := 23
def fracF24 : Nat := 15
def fracBf16 : Nat := 7

/-- The value of a pattern with `p` fraction bits. A subnormal is read as zero of its sign (R83). -/
def fdec (p n : Nat) : FVal :=
  let f := n % 2 ^ p
  let e := (n >>> p) % 256
  let neg := bitAt n (p + 8)
  if e = 255 then (if f = 0 then .inf neg else .nan)
  else if e = 0 then .fin neg 0 0
  else .fin neg (2 ^ p + f) ((e : Int) - 127 - p)

/-- The canonical NaN: exponent 255 and the top fraction bit (R80, R81, R93). DESIGN CHOICE: the vector unit, the Turner and the FSU
produce it too; the spec fixes a pattern only for the Press and the die reducers (log 87). -/
def fnan (p : Nat) : Nat := (255 <<< p) ||| (1 <<< (p - 1))

def fsign (p : Nat) (neg : Bool) : Nat := if neg then 1 <<< (p + 8) else 0

def finf (p : Nat) (neg : Bool) : Nat := fsign p neg + (255 <<< p)

/-- Round to nearest, ties to even, of `m / 2^k`. -/
def rneShift (m k : Nat) : Nat :=
  let q := m >>> k
  let r := m % 2 ^ k
  if 2 * r > 2 ^ k || (2 * r == 2 ^ k && q % 2 == 1) then q + 1 else q

/-- Round an exact value to the format of `p` fraction bits (R83, R93): to its precision with an unbounded exponent
range, then to zero below the smallest normal number and to infinity above the largest finite one. -/
def fenc (p : Nat) : FVal → Nat
  | .nan => fnan p
  | .inf neg => finf p neg
  | .fin neg m e =>
    if m = 0 then fsign p neg
    else
      let l := Nat.log2 m
      let q := if l ≤ p then m <<< (p - l) else rneShift m (l - p)
      let carry := q == 2 ^ (p + 1)
      let ex : Int := (l : Int) + e + 127 + (if carry then 1 else 0)
      let frac := if carry then 0 else q - 2 ^ p
      if ex ≤ 0 then fsign p neg
      else if ex ≥ 255 then finf p neg
      else fsign p neg + (ex.toNat <<< p) + frac

/-- The exact signed integer `m × 2^(e - lo)` with sign. -/
def alignTo (lo : Int) (neg : Bool) (m : Nat) (e : Int) : Int :=
  let x : Int := (m <<< (e - lo).toNat : Nat)
  if neg then -x else x

/-- Exact sum (R83 for the sign of zero, R93 for infinities and NaN). -/
def FVal.add : FVal → FVal → FVal
  | .nan, _ => .nan
  | _, .nan => .nan
  | .inf a, .inf b => if a = b then .inf a else .nan
  | .inf a, .fin _ _ _ => .inf a
  | .fin _ _ _, .inf b => .inf b
  | .fin a m e, .fin b n f =>
    if m = 0 && n = 0 then .fin (a && b) 0 0
    else if m = 0 then .fin b n f
    else if n = 0 then .fin a m e
    else
      let lo := if e ≤ f then e else f
      let x := alignTo lo a m e + alignTo lo b n f
      if x = 0 then .fin false 0 0 else .fin (x < 0) x.natAbs lo

/-- Exact product (R83, R93). -/
def FVal.mul : FVal → FVal → FVal
  | .nan, _ => .nan
  | _, .nan => .nan
  | .inf a, .inf b => .inf (a != b)
  | .inf a, .fin b n _ => if n = 0 then .nan else .inf (a != b)
  | .fin a m _, .inf b => if m = 0 then .nan else .inf (a != b)
  | .fin a m e, .fin b n f => .fin (a != b) (m * n) (e + f)

def FVal.neg : FVal → FVal
  | .nan => .nan
  | .inf a => .inf (!a)
  | .fin a m e => .fin (!a) m e

def FVal.abs : FVal → FVal
  | .nan => .nan
  | .inf _ => .inf false
  | .fin _ m e => .fin false m e

/-- Quotient, exact to 60 bits below its leading bit with a sticky last bit, so that one rounding to any format gives the
rounding of the exact quotient (R149). Division by zero gives an infinity, zero by zero and infinity by infinity NaN. -/
def FVal.div : FVal → FVal → FVal
  | .nan, _ => .nan
  | _, .nan => .nan
  | .inf _, .inf _ => .nan
  | .inf a, .fin b _ _ => .inf (a != b)
  | .fin a _ _, .inf b => .fin (a != b) 0 0
  | .fin a m e, .fin b n f =>
    if n = 0 then (if m = 0 then .nan else .inf (a != b))
    else if m = 0 then .fin (a != b) 0 0
    else
      let q := (m <<< 96) / n
      let r := (m <<< 96) % n
      .fin (a != b) (2 * q + (if r = 0 then 0 else 1)) (e - f - 97)

/-- The value of an integer. -/
def FVal.ofInt (x : Int) : FVal := .fin (x < 0) x.natAbs 0

/-- Is the value finite? -/
def FVal.isFin : FVal → Bool
  | .fin _ _ _ => true
  | _ => false

def FVal.isNan : FVal → Bool
  | .nan => true
  | _ => false

def FVal.isZero : FVal → Bool
  | .fin _ m _ => m == 0
  | _ => false

/-- Strict order of values other than NaN. -/
def FVal.lt : FVal → FVal → Bool
  | .nan, _ => false
  | _, .nan => false
  | .inf a, .inf b => a && !b
  | .inf a, .fin _ _ _ => a
  | .fin _ _ _, .inf b => !b
  | .fin a m e, .fin b n f =>
    let lo := if e ≤ f then e else f
    alignTo lo a m e < alignTo lo b n f

/-- Largest integer not above a finite value; 0 otherwise. -/
def FVal.floor : FVal → Int
  | .fin a m e =>
    let x : Int := if a then -(m : Int) else m
    if e ≥ 0 then x * (2 ^ e.toNat : Nat) else x / (2 ^ (-e).toNat : Nat)
  | _ => 0

/-- Nearest integer, ties to even, of a finite value; 0 otherwise. -/
def FVal.nearest : FVal → Int
  | .fin a m e =>
    let r : Nat := if e ≥ 0 then m <<< e.toNat else rneShift m (-e).toNat
    if a then -(r : Int) else r
  | _ => 0

/-- `floor(log2 |v|)` of a finite non-zero value. -/
def FVal.ilog2 : FVal → Int
  | .fin _ m e => (Nat.log2 m : Int) + e
  | _ => 0

/-! ## Operations on FP32 patterns, each rounding once -/

def f32 (n : Nat) : FVal := fdec fracF32 n
def f24 (n : Nat) : FVal := fdec fracF24 n
def bf16 (n : Nat) : FVal := fdec fracBf16 n
def toF32 (v : FVal) : Nat := fenc fracF32 v
def toF24 (v : FVal) : Nat := fenc fracF24 v
def toBf16 (v : FVal) : Nat := fenc fracBf16 v

def addF32 (a b : Nat) : Nat := toF32 ((f32 a).add (f32 b))
/-- An FP32 operand as it is read: a subnormal is zero of its sign (R83). -/
def readF32 (n : Nat) : Nat := if (n >>> 23) % 256 = 0 then (if bitAt n 31 then 1 <<< 31 else 0) else n

def subF32 (a b : Nat) : Nat := toF32 ((f32 a).add (f32 b).neg)
def mulF32 (a b : Nat) : Nat := toF32 ((f32 a).mul (f32 b))
def divF32 (a b : Nat) : Nat := toF32 ((f32 a).div (f32 b))
def fmaF32 (a b c : Nat) : Nat := toF32 (((f32 a).mul (f32 b)).add (f32 c))
def negF32 (a : Nat) : Nat := a ^^^ 0x80000000

/-- FP32 to BF16, one rounding (R152); BF16 to FP32 appends sixteen zero bits, a NaN's too, and reads a subnormal as zero of its
sign. -/
def f32ToBf16 (n : Nat) : Nat := toBf16 (f32 n)
def bf16ToF32 (n : Nat) : Nat :=
  if (n >>> 7) % 256 = 0 then (if bitAt n 15 then 1 <<< 31 else 0) else (n % 65536) <<< 16

/-- F24 to FP32 (R81). -/
def f24ToF32 (n : Nat) : Nat := n <<< 8

/-- INT32 sum that saturates at its limits (R107, R115), and whether it saturated. -/
def satInt32 (x : Int) : Int × Bool :=
  if x > 2147483647 then (2147483647, true)
  else if x < -2147483648 then (-2147483648, true)
  else (x, false)

/-- Integer square root by bits: the largest `r` with `r * r ≤ n`, searched downwards from bit `k`. -/
def isqrtBits : Nat → Nat → Nat → Nat
  | 0, _, r => r
  | k + 1, n, r =>
    let r' := r + 2 ^ k
    isqrtBits k n (if r' * r' ≤ n then r' else r)

/-- Square root, with a sticky last bit (R149). A negative value gives NaN; a zero keeps its sign. -/
def FVal.sqrt : FVal → FVal
  | .nan => .nan
  | .inf a => if a then .nan else .inf false
  | .fin a m e =>
    if m = 0 then .fin a 0 0
    else if a then .nan
    else
      let odd := e % 2 ≠ 0
      let m2 := if odd then 2 * m else m
      let e2 := if odd then e - 1 else e
      let n := m2 <<< 128
      let r := isqrtBits 128 n 0
      .fin false (2 * r + (if r * r = n then 0 else 1)) (e2 / 2 - 65)

def sqrtF32 (a : Nat) : Nat := toF32 (f32 a).sqrt

end Sys2Proof.Machine
end

