-- ==== Sys2Proof/Machine/State.lean ====
section
/-! DEFINITION. The state of the module: everything the spec gives it, as plain data, and its value right after reset.
Every field's rule and reset value stand in INVENTORY.md under State. -/

namespace Sys2Proof.Machine

/-- Why a step stops. -/
inductive Fault where
  /-- Raised by every meaning whose operand names a part that the module does not have: a core above 895 (R26), a die
  above 15 (R20), a port above 63 (R372), a stack above 7, a photonic die above 3, a mailbox channel above 15 (R478), a
  die-to-die link above 23 (R39). Safe: the module has no such part, so no such event occurs. -/
  | noSuchPart
  deriving DecidableEq, Repr

/-- Why a step is refused. -/
inductive Refusal where
  /-- Raised by `exec` for a command that has no meaning yet. Safe. -/
  | notModelled (mnemonic : String)
  deriving DecidableEq, Repr

/-! ## Operations in progress -/

/-- Read modes (R240). -/
inductive RdMode where
  | peek | take | raw
  deriving DecidableEq, Repr

/-- Write modes (R240). `held` and `heldRaw` are for the rows that an in-place transpose holds over several writes (R301): as
`overwrite` and `raw`, and the hold stays. -/
inductive WrMode where
  | put | overwrite | raw | held | heldRaw
  deriving DecidableEq, Repr

/-- Where a row access is aimed: a row of the issuing core's store, the 512-byte row of a partition address, or a row
within a hoop (R312), of this module or of module `remote`. -/
inductive Loc where
  | own (store row : Nat)
  | addr (row : Nat)
  | hoop (remote : Option Nat) (core hoop row : Nat)
  deriving DecidableEq, Repr

/-- Format conversion of a copied element (R293). -/
inductive Conv where
  | same | f32ToBf16 | bf16ToF32
  /-- of four elements of `bits` bits, the one in slot `slot` of those that are not zero, or +0 (R201) -/
  | keepNonzero (bits slot : Nat)
  /-- the same of those that the four-bit mask after them names (R201) -/
  | keepNamed (bits slot : Nat)
  /-- the four-bit mask of four elements that are not zero (R201) -/
  | nonzero (bits : Nat)
  /-- of four columns, each two slots of `bits` bits and their mask, the value in slot `slot` at K position `k` of its quad, or +0
  (R202) -/
  | turned (bits k slot : Nat)
  /-- the four-bit mask of the columns that name K position `k` of a quad, from their masks (R202) -/
  | turnedMask (k : Nat)
  deriving DecidableEq, Repr

/-- Bits that a destination row takes (R282, R288, R293). `srcs` names where the element, or one plane bit of a code
element, comes from, low bits first: number of the row read that brought it (R302), bit position, length. After the
conversion, bits `lo` to `lo + bits - 1` go to bit position `dst` of the row. -/
structure Piece where
  dst : Nat
  bits : Nat
  lo : Nat
  srcs : List (Nat × Nat × Nat)
  conv : Conv
  deriving DecidableEq, Repr

/-- The computing steps that stand between row accesses; each is given by the rule named. -/
inductive Calc where
  /-- begin a tile (R71, R84) -/
  | pressTile
  /-- finish the load of a slice or block and make its plane registers the set in use (R54) -/
  | pressLoad
  /-- passes of a slice or block (R55 to R59, R128, R196, R209), while the next is loaded -/
  | pressSlice
  /-- the switches of the skim rail that the slice ordered: down and back (R143) -/
  | pressRail
  /-- promote one group (R69, R82) -/
  | pressPromote
  /-- a spill when one is due: 0 takes the values, k > 0 writes row k - 1 (R72, R89) -/
  | pressSpill
  /-- read back one spill row at an output (R90) -/
  | pressOutRead
  /-- release of the spill block after its read-back (R100) -/
  | pressRelease
  /-- form the output rows of the tile (R173, R175) -/
  | pressOut
  /-- end of the layer (R108) -/
  | pressEnd
  /-- one tile and paired slice of a compress (R294) -/
  | compress
  /-- one tile of a zero-run store (R295) -/
  | zrStore
  /-- fetch one selected row (R225) -/
  | selective
  /-- transpose one unit pair in place (R301) -/
  | inPlace
  /-- the first reading of a source row that a quantise reads twice, to find its scale (R166) -/
  | quantScale
  /-- one source row of a quantise (R163) -/
  | quantRow
  /-- one source row of a scale-gradient (R176) -/
  | gradRow
  /-- the scale gradients (R178) -/
  | gradScale
  /-- one group of an optimiser update (R181) -/
  | update
  /-- one token of a top-k (R354) -/
  | topK
  /-- one row of a row operation (R356) -/
  | rowOp
  /-- one band of tiles of C of an FSU job (R359) -/
  | fsuTile
  deriving DecidableEq, Repr

/-- A micro-operation: what an operation does between two moments at which it may have to wait. -/
inductive Micro where
  /-- what an operation does first: read and check its descriptors or parameter block and lay out its work -/
  | start
  /-- read a row into the operation's buffer as read number `n`; `used` is the mask of the words it uses (R601); `hold`
  when the operation holds the row from here (R301) -/
  | rd (n : Nat) (loc : Loc) (mode : RdMode) (used : Nat) (hold : Bool)
  /-- write a row from pieces of buffered rows; `first` and `last` mark the first and last part of a row that the move
  writes in parts (R272) -/
  | wr (loc : Loc) (mode : WrMode) (pieces : List Piece) (first last : Bool)
  /-- write output row number `k` that an earlier computing step formed; nothing when it formed none -/
  | wrOut (k : Nat) (mode : WrMode)
  /-- fill one row with the 32-bit pattern (R236) -/
  | fillRow (store row : Nat) (mode : WrMode) (pattern : Nat)
  /-- set one row's tag (R239) -/
  | mark (store row : Nat) (toFull : Bool)
  /-- copy one row (R237) -/
  | copyRow (srcStore srcRow dstStore dstRow : Nat) (rd : RdMode) (wr : WrMode)
  /-- fault with `SPARSE_META` when the mask that a piece gives names more than two of four (R213, R214) -/
  | check (mask : Piece) (addr detail : Nat)
  /-- enter row `r` of a scatter-add, of the given pieces, at the index that `index` gives (R216) -/
  | enter (r : Nat) (index : Piece) (pieces : List Piece)
  /-- a computing step -/
  | calc (c : Calc) (k : Nat)
  deriving DecidableEq, Repr

/-- Why an operation waits: the numbers of R371 for the waits that have one, and the waits that the watchdog does not
count. -/
inductive WaitKind where
  | tag | hold | arrivalCount | remoteRead | reduction | listFetch | closeHoop | route | applied
  | slot | translation | reducerBuffer | railDown | railBack | routeEntry | wake
  /-- a row of a move is ready and waits for its turn at the die DMA engine (R307) -/
  | turn
  deriving DecidableEq, Repr

/-- A wait: its kind and the partition address of the row or hoop waited on (for a translation, the key). -/
structure Wait where
  kind : WaitKind
  addr : Nat
  deriving DecidableEq, Repr

/-- An output row formed by a computing step: where it goes, its 512 bytes, and the bytes it covers (`mask`, one bit a
byte; all ones for a whole row). -/
structure OutRow where
  loc : Loc
  data : List Byte
  mask : Nat
  /-- first and last part of a row written in parts (R272) -/
  first : Bool
  last : Bool
  deriving DecidableEq, Repr

/-- Cursor over the run blocks of one tile (R205, R206). -/
structure RunCursor where
  /-- rows of the extent already taken -/
  used : Nat
  /-- end position of the block before, where the next block begins -/
  endPos : Nat
  /-- the `LAST` block has been taken -/
  done : Bool
  /-- kept positions not yet passed by the merge unit (R210): K position, first row of their block within the extent,
  position within the block -/
  pend : List (Nat × Nat × Nat)
  deriving DecidableEq, Repr

/-- What a row read ahead for a slice feeds: a plane register (R54), an activation plane that a stream slice keeps (R131), a
metadata row (R195), or compact weight and activation planes at the named positions, each from its place in the row to its compact
place (R209, R210). -/
inductive LoadDest where
  | weight (plane : Nat) | act (plane : Nat) | metadata (row : Nat)
  | gatherW (plane : Nat) (places : List (Nat × Nat)) | gatherA (plane : Nat) (places : List (Nat × Nat))
  deriving DecidableEq, Repr

/-- A row that the load of a slice has still to read: store, row, words used (R601), and what it feeds. -/
structure LoadRow where
  store : Nat
  row : Nat
  used : Nat
  dest : LoadDest
  deriving DecidableEq, Repr

/-- The load of one slice, paired slice or block: slices count over the whole layer, in the order of R71. -/
structure PressLoad where
  unit : Nat
  /-- its metadata have been decoded and its rows are known -/
  begun : Bool
  todo : List LoadRow
  /-- metadata rows read (R195) -/
  metas : List (List Byte)
  /-- in-range, kept or matched positions (R66, R208) -/
  n : Nat
  /-- first row, within its run extent, of the code row of an activation block (R206) -/
  first : Nat
  /-- activation planes that the load itself keeps (R131, R210) -/
  acts : List (BitVec 4096)
  /-- matched positions found so far: block and place of each operand (R210) -/
  matched : List ((Nat × Nat) × (Nat × Nat))
  runA : RunCursor
  runW : RunCursor
  deriving DecidableEq, Repr

/-- What the passes below the first eight low ones do in a slice (R137, R140, R141): not decided yet, run at nominal voltage, are
not issued, or run as skim passes. -/
inductive LowPasses where
  | undecided | nominal | skip | skim
  deriving DecidableEq, Repr

/-- What a running layer carries from one step to the next. -/
structure PressWork where
  /-- the descriptor was read while the layer before ran (R345) -/
  descRead : Bool
  tile : Nat
  /-- the slice that runs, and the one that is loaded meanwhile (R54, R211) -/
  cur : PressLoad
  next : PressLoad
  /-- passes of the slice issued -/
  pass : Nat
  low : LowPasses
  /-- the slice moved the skim rail: its switches have to be confirmed (R143) -/
  rail : Bool
  /-- an earlier switch down of the layer failed (R143) -/
  skimFailed : Bool
  /-- groups promoted in the tile -/
  promoted : Nat
  /-- a spill follows the last group promoted, unless it was the tile's last (R72) -/
  spillDue : Bool
  /-- a further in-range group of the tile is known to follow it -/
  follows : Bool
  /-- a spill is being written; its rows wait in the output buffer (R73) -/
  spilling : Bool
  spilled : Bool
  /-- scale rows read, by P-store row: those in use and the two ahead (R75) -/
  wScales : Tbl (List Byte)
  aScales : Tbl (List Byte)
  /-- sums read back from the spill block, per cell, as FP32 (R90) -/
  back : List Nat
  /-- the mode the layer was checked under (R146) -/
  reproducible : Bool
  /-- seeds the layer runs with (R127) -/
  seedA : Nat
  seedW : Nat
  deriving DecidableEq, Repr

/-- What an operation carries: its buffered source rows, the output rows formed and not yet written, sums of 32-bit
words, and the layer's part. -/
structure Scratch where
  buf : Tbl (List Byte)
  /-- words of buffered rows that failed when their row was read, by the number of the row, with the code they fault with (R321,
  R601) -/
  bad : Tbl (Nat × Nat)
  outs : Tbl OutRow
  words : List Word
  nums : List Nat
  press : PressWork
  deriving DecidableEq, Repr

/-- Engines of a core DMA move (R306). -/
inductive Engines where
  | inOnly | outOnly | both
  deriving DecidableEq, Repr

inductive JobState where
  | queued | waiting (w : Wait) | done
  deriving DecidableEq, Repr

/-- Where the remote read of an operation stands (R254): no request out, a request out, answered not ready, or a row
returned. -/
inductive RemoteRow where
  | none | asked | notReady | row (data : List Byte)
  deriving DecidableEq, Repr

/-- An operation issued and not completed (R327). -/
structure Job where
  /-- the issue: entry index, plus 2^24 times the issue count -/
  idx : Nat
  /-- the 128 bits of the entry -/
  entry : Nat
  engines : Engines
  st : JobState
  micros : List Micro
  work : Scratch
  /-- descriptors or parameter block as read at issue, 512 bits each, for the computing steps -/
  descA : Nat
  descB : Nat
  /-- `LAYER_TAG`, for fault records (R370) -/
  tag : Nat
  /-- rows or signals sent to hoops or to the reducer, and how many of them were applied or taken (R327, R403) -/
  sent : Nat
  applied : Nat
  remote : RemoteRow
  /-- when its wait began, by the core's count of waits (R338) -/
  since : Nat
  deriving DecidableEq, Repr

/-! ## Cores -/

/-- A fault or event record (R370). -/
structure FaultRec where
  time : Nat
  tag : Nat
  list : Nat
  more : Nat
  detail : Nat
  addr : Nat
  entry : Nat
  unit : Nat
  event : Bool
  code : Nat
  deriving DecidableEq, Repr

/-- A hoop (R247, R252, R255). -/
structure Hoop where
  isOpen : Bool
  store : Nat
  base : Nat
  rows : Nat
  srcKind : Nat
  src : Nat
  /-- global core index of a core source, while its place holds a core (R249) -/
  srcCore : Option Nat
  ops : Nat
  wrOver : Bool
  rdTake : Bool
  counter : Word
  refused : Nat
  /-- the source is marked fenced (R258) -/
  fenced : Bool
  deriving DecidableEq, Repr

/-- Where an arrival comes from (R249). -/
inductive ArrSource where
  | core (g : Nat) | module (id : Nat) | reducer (die : Nat)
  deriving DecidableEq, Repr

/-- Whose operation an arrival belongs to: a unit of a core of this module, a packet received from another module, or a
reduction whose completing contribution came from a core (R114). -/
inductive Sender where
  | local (core : Nat) (unit : CoreUnit) (idx : Nat)
  | packet (track : Nat)
  | reduction (core : Nat)
  deriving DecidableEq, Repr

/-- What arrives (R250, R254). -/
inductive ArrKind where
  | write | addF32 | addI32 | signal (v : Nat) | read
  deriving DecidableEq, Repr

/-- A row, signal or read request on its way to a hoop (R250). -/
structure Arrival where
  kind : ArrKind
  hoop : Nat
  row : Nat
  data : List Byte
  source : ArrSource
  sender : Sender
  deriving DecidableEq, Repr

/-- To whom an entry of a conflict queue belongs: a spill, a scatter-add or an arrival (R217, R600). -/
inductive CqOwner where
  | press (idx : Nat)
  | scatter (idx : Nat)
  | arrival (hoop : Nat) (sender : Sender)
  deriving DecidableEq, Repr

/-- An entry of a P-store conflict queue (R217). -/
structure CqEntry where
  row : Nat
  data : List Byte
  isInt : Bool
  owner : CqOwner
  deriving DecidableEq, Repr

/-- A Tally engine (R184, R185). -/
structure TallyEngine where
  armed : Bool
  tap : Nat
  eBase : Nat
  bins : Tbl Nat
  deriving DecidableEq, Repr

/-- An entry issued and not completed (R327). -/
structure Issued where
  idx : Nat
  kind : Nat
  /-- a move whose destination is a hoop address (R339) -/
  toHoop : Bool
  /-- the tag of its packets (R399) -/
  mtag : Nat
  deriving DecidableEq, Repr

/-- The blocking entry at the sequencer (R328): its index and bits; for a turn, the stage of R361 reached. -/
structure SeqBlock where
  idx : Nat
  entry : Nat
  stage : Nat
  deriving DecidableEq, Repr

/-- A queued signal entry (R339): `sent` once it is on its way to the hoop. -/
structure SignalJob where
  idx : Nat
  entry : Nat
  sent : Bool
  deriving DecidableEq, Repr

/-- The sequencer (R323 to R340). -/
structure Seq where
  running : Bool
  /-- a fault has stopped the core (R367) -/
  stopped : Bool
  base : Nat
  listId : Nat
  listLen : Nat
  watchdog : Nat
  /-- the entry that issues next -/
  pos : Nat
  /-- the model's own count of issues: an issue is named by its entry index plus 2^24 times its count -/
  serial : Nat
  l0 : Word
  l1 : Word
  l2 : Word
  l3 : Word
  turn : Word
  workSeq : Nat
  /-- fetch buffer: row (partition address / 512) and its bytes, at most four (R326) -/
  fetch : List (Nat × List Byte)
  issued : List Issued
  block : Option SeqBlock
  deriving DecidableEq, Repr

/-- What firmware hands a core to start a list (R325, R364). -/
structure StartReq where
  base : Nat
  entry : Nat
  l0 : Word
  l1 : Word
  l2 : Word
  l3 : Word
  turn : Word
  workSeq : Nat
  deriving DecidableEq, Repr

/-- Layer statistics and the other counters that entries read (R104, R127, R144, R171, R182, R187). -/
structure Stats where
  predNominal : Nat
  predSkim : Nat
  predSkip : Nat
  skimNominal : Nat
  conv : Nat
  clip : Nat
  nan : Nat
  updRefused : Nat
  seedA : Nat
  seedW : Nat
  rotLen : Nat
  layerTag : Nat
  satFlag : List Bool
  satCount : List Nat
  deriving DecidableEq, Repr

/-- The drift window (R188). -/
structure Drift where
  k : Nat
  thr : Nat
  conv : Nat
  clip : Nat
  deriving DecidableEq, Repr

/-- Error status of a core (R277, R278). -/
structure SpErr where
  lastStore : Nat
  lastRow : Nat
  lastWord : Nat
  /-- an uncorrectable error has occurred since reset (R278) -/
  ueSeen : Bool
  spareExhausted : Bool
  scrubPoison : Bool
  ue : Bool
  ce : Bool
  ceW : Nat
  ceA : Nat
  ceP : Nat
  /-- correctable errors by bank: key 16 × store + bank (R265) -/
  ceBank : Tbl Nat
  ueCount : Nat
  scrubCount : Nat
  spareExCount : Nat
  deriving DecidableEq, Repr

/-- `CORE_EV_LOST` and its counters, in the bit order of R369. -/
structure EvLost where
  flags : List Bool
  counts : List Nat
  deriving DecidableEq, Repr

/-- Transport packet (R396). -/
structure Packet where
  hops : Nat
  score : Nat
  seng : Nat
  mtag : Nat
  value : Nat
  op : Nat
  dest : Nat
  src : Nat
  core : Nat
  hoop : Nat
  row : Nat
  rows : List (List Byte)
  /-- not on the fibre: the port by which the packet, or the request that it answers, came in -/
  via : Nat
  deriving DecidableEq, Repr

/-- A packet at its sending engine (R399, R410). -/
structure OutPacket where
  packet : Packet
  unit : CoreUnit
  idx : Nat
  closed : Bool
  deriving DecidableEq, Repr

/-- Registers of a Press. -/
structure PressRegs where
  /-- two sets of eight plane registers (R54) -/
  planes : List (List (BitVec 4096))
  /-- column-sum registers of each set, per group and column (R64) -/
  colSums : List (List (List Int))
  /-- the set of plane registers in use; the other is being loaded -/
  planeSet : Nat
  /-- two sets of four 22-bit group accumulators per cell, per group and cell (R60) -/
  acc : List (List (List Int))
  /-- the filling set; the other is draining -/
  fillSet : Nat
  /-- F24 accumulators of the 32 × 32 cells, row-major, as 24-bit patterns (R79) -/
  f24 : List Nat
  /-- reckoning cells, 4 to a tile row, and their saturated bits (R104) -/
  reck : List Int
  satBits : List Bool
  deriving DecidableEq, Repr

/-- Service class of a core (R31, R424, R455). -/
inductive Service where
  | inService | dark | fenced
  deriving DecidableEq, Repr

structure Core where
  service : Service
  /-- why a fenced core was fenced: a SKIM_SWITCH_FAIL may return it (R463) -/
  fencedForSkim : Bool
  /-- when a fenced core first passed its self test (R463) -/
  passedAt : Option Nat
  /-- a built-in self test runs (R462) -/
  testing : Bool
  part : Nat
  place : Nat
  seq : Seq
  startReq : Option StartReq
  press : List Job
  cdma : List Job
  dieJobs : List Job
  rowJobs : List Job
  vecJobs : List Job
  fsuJobs : List Job
  tallyJobs : List Job
  signals : List SignalJob
  hoops : Tbl Hoop
  hoopRefused : Nat
  /-- held rows: row (physical address / 512), holding unit, entry index (R99) -/
  holds : List (Nat × CoreUnit × Nat)
  inbound : List Arrival
  /-- the first of these waits in the remote port, and the others behind it (R251) -/
  portBusy : Bool
  cq : List CqEntry
  outPackets : List OutPacket
  tally : Tbl TallyEngine
  stats : Stats
  drift : Drift
  regs : PressRegs
  /-- lanes of the two stream generators (R124) -/
  lanesA : List Nat
  lanesW : List Nat
  /-- cached translations: key and what it translates to (R313) -/
  ctu : List (Nat × Nat)
  faultRec : Option FaultRec
  events : List FaultRec
  evLost : EvLost
  spErr : SpErr
  retain : Half
  /-- W-store banks that kept their contents when the core entered C2 (R261) -/
  napRetain : Half
  scrubRow : Nat
  /-- HBM writes not yet acknowledged: stack and issuing entry (R361) -/
  unacked : List (Nat × Nat)
  /-- waits of its operations that have begun (R338) -/
  waits : Nat
  /-- times of `SKIM_SWITCH_FAIL` events (R445) -/
  skimFails : List Nat
  /-- issue in n of every 16 cycles (R443) -/
  gate : Nat
  /-- the mesh port is isolated (R453) -/
  isolated : Bool
  deriving DecidableEq, Repr

/-! ## Dies, hbmStacks, reducers -/

/-- A contribution row at or on its way to a die reducer (R114, R346). -/
structure Contribution where
  core : Nat
  part : Nat
  idx : Nat
  /-- the AUX of R346 -/
  aux : Nat
  /-- the destination descriptor of the contributing move, without its AUX, and the destination of this row -/
  desc : Nat
  dest : Loc
  k : Nat
  data : List Byte
  /-- bytes of the row that the move places, one bit a byte -/
  mask : Nat
  /-- a die result on its way to the root of a module-scope sum: its die and the cores it derives from (R118) -/
  dieResult : Option (Nat × List Nat)
  deriving DecidableEq, Repr

/-- A result row in progress (R114). -/
structure RedRow where
  k : Nat
  dest : Loc
  mask : Nat
  parts : List (Nat × List Byte)
  /-- results of the dies of a module-scope sum, at the root, with the cores they derive from (R118, R451) -/
  dies : List (Nat × List Nat × List Byte)
  /-- how many of its rows stand in the common part of the buffer (R429) -/
  common : Nat
  deriving DecidableEq, Repr

/-- An open reduction set (R347, R429). -/
structure RedSet where
  part : Nat
  aux : Nat
  /-- the second tree of a module-scope sum, at its root (R118) -/
  second : Bool
  desc : Nat
  rows : List RedRow
  deriving DecidableEq, Repr

structure DiePower where
  point : Nat
  target : Nat
  mv : Nat
  active : Nat
  standby : Nat
  /-- the standby PLL is locking -/
  locking : Bool
  inChange : Bool
  /-- operating-point votes, by client (R512, R521) -/
  pointVotes : Tbl Nat
  /-- ceilings of R512 that have been set; one that has not stands at the bin ceiling -/
  phaseCeil : Option Nat
  thermalCeil : Option Nat
  powerCeil : Option Nat
  coolantCeil : Option Nat
  livePhases : Nat
  phaseLost : Bool
  throttled : Bool
  powerCapped : Bool
  phaseLostCount : Nat
  throttleCount : Nat
  powerCapCount : Nat
  /-- the junction sensors as last read (R540) -/
  temps : List Nat
  deriving DecidableEq, Repr

structure Die where
  /-- core that the die DMA engine served last (R307) -/
  dmaLast : Option Nat
  sets : List RedSet
  transit : List Contribution
  routeCache : Tbl Word
  skimMv : Nat
  skimSettling : Bool
  power : DiePower
  deriving DecidableEq, Repr

structure Stack where
  selfRefresh : Bool
  zeroQueue : List Nat
  /-- firmware's log of repaired DRAM rows, named by the 256-byte half rows of the physical map (R320, R461) -/
  repairLog : List Nat
  /-- half rows repaired for good at boot (R319) -/
  hardRepaired : List Nat
  /-- the stack's own ECC count as firmware last read it (R319) -/
  onDieCount : Nat
  failed : Bool
  /-- words with a corrected error and its time (R461) -/
  corrected : Tbl Nat
  deriving DecidableEq, Repr

/-! ## Links -/

/-- A sequenced flit in the replay buffer (R388): its kind, channel, number and body. -/
structure SentFlit where
  isTag : Bool
  vc : Nat
  seq : Nat
  body : List Byte
  deriving DecidableEq, Repr

/-- One virtual channel of a port (R383, R384). -/
structure Vc where
  credits : Nat
  txq : List Packet
  /-- bytes of the packet being sent that are not sent yet -/
  txPart : List Byte
  /-- bodies of the flits in the receive buffer, each less the bytes that packets have taken from it -/
  rx : List (List Byte)
  /-- leading entries of the buffer that are packets received whole before the link last went down (R392) -/
  kept : Nat
  creditDue : Nat
  /-- the fence marker has arrived (R435) -/
  marker : Bool
  deriving DecidableEq, Repr

/-- A link key (R560). -/
structure LinkKey where
  key : BitVec 256
  salt : Word
  deriving DecidableEq, Repr

inductive LinkState where
  | dark | training | up | hold | down | disabled
  deriving DecidableEq, Repr

structure Port where
  link : LinkState
  leader : Bool
  encOn : Bool
  failedWl : Nat
  peerPort : Nat
  peerSerial : Dword
  peerModule : Half
  holdSeen : Bool
  loopback : Bool
  authFail : Bool
  linkLost : Bool
  laneSpared : Bool
  roleConflict : Bool
  replayCount : Nat
  fecCorr : Nat
  fecUncorr : Nat
  crcErr : Nat
  drop : Nat
  roleConflictCount : Nat
  laneSparedCount : Nat
  linkLostCount : Nat
  authFailCount : Nat
  loopbackCount : Nat
  holdSeenCount : Nat
  /-- the port bound to a partition (0 none) and its forwarding enable (R411, R425) -/
  part : Nat
  forwarding : Bool
  enabled : Bool
  /-- 0 none, 1 leader, 2 follower (R394) -/
  policy : Nat
  requestPending : Bool
  /-- a changeover to the leader (true) or follower role is agreed (R394) -/
  changeover : Option Bool
  /-- entered DOWN under R376 -/
  laneDown : Bool
  laneFailed : List Nat
  lanePassed : List Nat
  moving : Option Nat
  vcs : List Vc
  txSeq : Nat
  replay : List SentFlit
  /-- index in the replay buffer of the next flit to resend -/
  resend : Option Nat
  resends : Nat
  rxSeq : Nat
  discarding : Bool
  nakDue : Bool
  rrReduce : Bool
  mgmtGap : Nat
  frameLocked : Bool
  encWanted : Bool
  /-- the key of what is sent, and the key of what is received -/
  keyCur : LinkKey
  keyRx : LinkKey
  keyNext : Option LinkKey
  /-- the record counter at which a key takes effect on a running link, for each direction (R415) -/
  keyTxAt : Option (Nat × LinkKey)
  keyRxAt : Option (Nat × LinkKey)
  txRecord : Nat
  rxRecord : Nat
  txOpen : List SentFlit
  rxOpen : List SentFlit
  recordFails : Nat
  fencing : Bool
  mgmtIn : List Packet
  /-- position in its frame of the next container sent (R378), and the last container sent: its mark and its flit -/
  txPos : Nat
  out : List Byte
  /-- containers of the frame being formed, and the symbols of the last frame sent on each lane (R377) -/
  frame : List (List Byte)
  lanes : List (List Nat)
  deriving DecidableEq, Repr

/-- A laser input of a photonic die (R417). -/
structure Laser where
  present : Bool
  full : Bool
  failed : Bool
  deriving DecidableEq, Repr

structure Photonic where
  lsA : Laser
  lsB : Laser
  /-- which input feeds the lower and the upper eight ports: false LS-A, true LS-B (R418) -/
  lowerB : Bool
  upperB : Bool
  /-- an input under service (R419) -/
  service : Option Bool
  livePhases : Nat
  throttled : Bool
  phaseLost : Bool
  throttleCount : Nat
  phaseLostCount : Nat
  temps : List Nat
  deriving DecidableEq, Repr

/-- A received packet whose rows are not all applied (R402). -/
structure RxTrack where
  packet : Packet
  port : Nat
  left : Nat
  applied : Nat
  /-- the first row of the packet that was not applied, and its code (R402) -/
  code : Option (Nat × Nat)
  /-- the response to send, once it is formed (R402, R406) -/
  answer : Option Packet
  deriving DecidableEq, Repr

/-! ## Partitions, works, commands -/

structure HostPage where
  page : Nat
  rd : Bool
  wr : Bool
  deriving DecidableEq, Repr

structure Partition where
  owner : Word
  places : Tbl Nat
  pages : Tbl Nat
  hostPages : Tbl HostPage
  ports : List Nat
  hbmGrains : Tbl Nat
  meshGrains : Tbl Nat
  power : Nat
  retain : Tbl Half
  /-- measured power in W (R442) -/
  watts : Nat
  deriving DecidableEq, Repr

/-- One list of a work (R447). -/
structure WList where
  place : Nat
  core : Nat
  base : Nat
  /-- `LIST_ID` of the list (R324) -/
  listId : Nat
  /-- `COMMIT` of its turn entries, as `TURN_DONE` last reported it (R371) -/
  commit : Option Nat
  ended : Option Word
  faulted : Option FaultRec
  deriving DecidableEq, Repr

/-- Ledger states of a work (R500). -/
inductive WorkState where
  | running | preempted | recovering | ended
  deriving DecidableEq, Repr

structure Work where
  part : Nat
  lists : List WList
  st : WorkState
  turn : Option Nat
  /-- the fault that began its recovery has been taken, and the places that have not committed since (R456) -/
  window : Option (List Nat)
  /-- modules that it sends to or takes rows from (R452) -/
  peers : List Nat
  status : Nat
  /-- cores brought in by its recovery (R459) -/
  replaced : List Nat
  deriving DecidableEq, Repr

/-- A completion result (R489, R490). -/
structure Result where
  status : Nat
  detail : List Byte
  deriving DecidableEq, Repr

/-- An accepted command whose record is not written (R487 to R501). -/
structure Cmd where
  ch : Nat
  bytes : List Byte
  begun : Bool
  result : Option Result
  /-- a release or move that drains (R432), and its resource records -/
  draining : Bool
  records : List Nat
  deriving DecidableEq, Repr

/-- A ledger entry (R500). -/
structure LedgerEntry where
  seq : Dword
  tag : Word
  opcode : Nat
  st : Nat
  status : Nat
  part : Nat
  turn : Word
  epoch : Word
  deriving DecidableEq, Repr

structure Channel where
  sqBase : Dword
  cqBase : Dword
  sqLog2 : Nat
  cqLog2 : Nat
  enable : Bool
  active : Bool
  chError : Bool
  seqErr : Bool
  sqTail : Nat
  cqHead : Nat
  sqHead : Nat
  cqTail : Nat
  cqPhase : Bool
  lastCount : Nat
  seqErrCount : Nat
  chErrCount : Nat
  /-- completion records written and not consumed (R482) -/
  cqUsed : Nat
  /-- the lower halves of the two bases as last written: a 64-bit register takes effect at its upper half (R477) -/
  sqLow : Word
  cqLow : Word
  deriving DecidableEq, Repr

structure Ledger where
  attached : Bool
  base : Dword
  log2 : Nat
  fresh : Bool
  freshCount : Nat
  /-- base and entries of the area as last attached -/
  areaBase : Dword
  areaLog2 : Nat
  /-- the module holds a ledger, and its hub copy keyed by channel * 2 ^ 60 + count (R501) -/
  held : Bool
  entries : Tbl LedgerEntry
  lowHalf : Word
  deriving DecidableEq, Repr

structure EventQueue where
  base : Dword
  log2 : Nat
  active : Bool
  head : Nat
  tail : Nat
  phase : Bool
  ovfCount : Nat
  /-- records written and not consumed -/
  used : Nat
  lowHalf : Word
  /-- records firmware has taken and not written yet, in the order taken (R498), with place and partition -/
  waiting : List (FaultRec × Nat × Nat)
  deriving DecidableEq, Repr

structure Alarms where
  /-- flags 1 to 9 of R589 as bits -/
  status : Word
  enable : Word
  counts : List Nat
  deriving DecidableEq, Repr

structure Msix where
  /-- 64 entries of four words: address low, address high, data, vector control -/
  table : Tbl Word
  pendingBits : Dword
  deriving DecidableEq, Repr

/-- An answer of the BAR2 window (R497). -/
inductive Bar2Answer where
  | none | ok (data : List Byte) | unsupported | poisoned
  deriving DecidableEq, Repr

/-! ## Stamp, boot, SMBus, Rind -/

structure Processor where
  held : Bool
  current : Bool
  lastEpoch : Word
  claim : Option Word
  /-- when it was released to boot as standby (R468) -/
  releases : List Nat
  deriving DecidableEq, Repr

structure Stamp where
  epoch : Word
  /-- 0 none, 1 MP-A, 2 MP-B (R472) -/
  holder : Nat
  mpA : Processor
  mpB : Processor
  staleCount : Nat
  wrRefused : Nat
  grantCount : Nat
  deriving DecidableEq, Repr

structure Assay where
  sustained : Nat
  throttlePoint : Nat
  transient : Nat
  debugRefused : Nat
  unlockBarred : Bool
  nonce : Option (List Byte)
  /-- answer to the last request (R465): applied or refused -/
  answer : Option Bool
  deriving DecidableEq, Repr

structure Boot where
  stage : Nat
  begun : Bool
  bootSrc : Bool
  slot : Bool
  tried : List Bool
  /-- bytes 0 to 223 of the image headers in use -/
  assayHeader : List Byte
  mgmtHeader : List Byte
  cdiA : BitVec 384
  cdiM : BitVec 384
  modeByte : Byte
  agreement : BitVec 384
  fwVersion : Word
  deriving DecidableEq, Repr

structure Smbus where
  strap : BitVec 2
  reply : List Byte
  acked : Bool
  alertEn : Half
  alertReleased : Bool
  sclHeld : Bool
  mctp : List Byte
  deriving DecidableEq, Repr

/-- The SPDM exchange with the requester (R559): the requests answered since GET_VERSION, for the transcript. -/
structure Spdm where
  version : Bool
  capabilities : Bool
  algorithms : Bool
  transcript : List Byte
  deriving DecidableEq, Repr

structure Rind where
  time : BitVec 48
  alarm : Option (BitVec 48)
  trip : Bool
  supply : List Bool
  coolantHeld : Bool
  clrRefused : Bool
  thermtripN : Bool
  wakeN : Bool
  debugOpen : Bool
  coolantLow : Bool
  /-- highest comparator reading, °C (R543, R597) -/
  hottest : Nat
  deriving DecidableEq, Repr

/-- An entry to a deeper state in progress (R525): the state aimed at, and whether the point of no return is past. -/
structure Entry where
  target : Nat
  committed : Bool
  deriving DecidableEq, Repr

/-- Power state and accounting of a domain (R516, R520, R524). -/
structure Power where
  st : Nat
  votes : Tbl Nat
  entry : Option Entry
  waking : Bool
  stalled : List WakeSource
  latch : Option (Nat × Nat)
  refusals : Nat
  aborts : Nat
  replays : Nat
  lastRefuser : Nat
  lastAborter : Nat
  deriving DecidableEq, Repr

structure Pads where
  hbm : List Nat
  ucie : List (Nat × Nat)
  xspi : Bool
  elsfp : Bool
  tdo : Bool
  deriving DecidableEq, Repr

/-- The fuse map (R465). -/
structure Fuses where
  serial : Dword
  bin : Nat
  siliconRev : Nat
  dark : Tbl Nat
  rootKeyHash : List (BitVec 384)
  keyRevoked : List Bool
  svnAssay : Nat
  svnMgmt : Nat
  uds : BitVec 384
  debugKeyHash : BitVec 384
  fencedForLife : List Nat
  /-- rows mapped at test, as the spare maps hold them (R274, R465) -/
  mapped : Tbl (List (Nat × Bool))
  deriving DecidableEq, Repr

/-- Recovery of a work or replacement of a core in progress (R453): the fenced core, its partition and place, the spare
under test, and the work to resume. -/
structure Recovery where
  fenced : Nat
  part : Nat
  place : Nat
  spare : Option Nat
  work : Option Nat
  deriving DecidableEq, Repr

/-- Limits of the power loop: averages as last sampled (R539). -/
structure PowerMeter where
  watts : Nat
  avg100 : Nat
  avg1ms : Nat
  avg10ms : Nat
  deriving DecidableEq, Repr

structure State where
  /-- commands waiting, first in first out (the task) -/
  pending : List Instr
  freeCtr : Nat
  refCount : Dword
  acc40 : Nat
  mem : List Host.Cell
  full : List Nat
  poison : List Nat
  errOne : List Nat
  errMany : List Nat
  /-- words whose latent single-bit error a read or visit has found and the scrubber has not yet written back (R265, R274) -/
  errFound : List Nat
  scrubNext : List Nat
  /-- errors found in store rows: row, time, and whether it was uncorrectable (R274) -/
  ceHistory : List (Nat × Nat × Bool)
  /-- firmware's log of words that a scrub, an unused read or a spare copy marked poisoned, and of poisoned words that a read used:
  word (byte address / 64), time, owner partition (R267, R270, R322, R601) -/
  poisonLog : List (Nat × Nat × Nat)
  /-- spare maps: bank number (core * 48 + store * 16 + bank) to the rows mapped and whether that spare failed (R273) -/
  spares : Tbl (List (Nat × Bool))
  fuses : Fuses
  cores : Tbl Core
  dies : Tbl Die
  hbmStacks : Tbl Stack
  ports : Tbl Port
  photonics : Tbl Photonic
  hubPhases : Nat
  hubThrottled : Bool
  hubPhaseLost : Bool
  hubThrottleCount : Nat
  hubPhaseLostCount : Nat
  hubTemps : List Nat
  retiredLinks : List Nat
  moduleId : Option Half
  routes : Tbl Word
  rxTracks : Tbl RxTrack
  forwards : List (Nat × Packet)
  partitions : Tbl Partition
  windows : Tbl Nat
  works : Tbl Work
  recoveries : List Recovery
  /-- when a port went down (kind 0), a die-to-die link was retired (1) or a core was fenced (2): time, kind, number; for
  the claims of R446 -/
  partLog : List (Nat × Nat × Nat)
  cmds : Tbl Cmd
  ledger : Ledger
  /-- HBM contents have been lost since the last attach (R503, R549) -/
  hbmLost : Bool
  channels : Tbl Channel
  evq : EventQueue
  alarms : Alarms
  msix : Msix
  endpointUp : Bool
  perstN : Bool
  legacy : Bool
  l0 : Bool
  bar2 : Bar2Answer
  pdSelect : Word
  reproducible : Bool
  /-- commands set_reproducible that wait, each with the layers (core and issue) that began before its change (R146) -/
  reproWait : List (Nat × List (Nat × Nat))
  stamp : Stamp
  assay : Assay
  boot : Boot
  smbus : Smbus
  spdm : Spdm
  rind : Rind
  corePd : Tbl Power
  diePd : Tbl Power
  photonicPd : Tbl Power
  modulePd : Power
  pads : Pads
  meter : PowerMeter
  /-- M0 to M3 (R516) -/
  m3 : Bool
  /-- trips and supply faults to report after the restart (R543, R544, R547): code and `FR_DETAIL` -/
  restarted : List (Nat × Nat)
  deriving DecidableEq, Repr

/-! ## Reset values -/

def RunCursor.reset : RunCursor := { used := 0, endPos := 0, done := false, pend := [] }

def PressLoad.reset : PressLoad :=
  { unit := 0, begun := false, todo := [], metas := [], n := 0, first := 0, acts := [], matched := [], runA := .reset,
    runW := .reset }

def PressWork.reset : PressWork :=
  { descRead := false, tile := 0, cur := .reset, next := .reset, pass := 0, low := .undecided, rail := false, skimFailed := false, promoted := 0,
    spillDue := false, follows := false, spilling := false, spilled := false, wScales := [], aScales := [], back := [], reproducible := false,
    seedA := 0, seedW := 0 }

/-- The spec gives the registers of a Press no reset values: 0 (log 13). -/
def PressRegs.reset : PressRegs :=
  { planes := List.replicate 2 (List.replicate 8 0), colSums := List.replicate 2 (List.replicate 4 (List.replicate 32 0)),
    planeSet := 0, acc := List.replicate 2 (List.replicate 4 (List.replicate 1024 0)), fillSet := 0,
    f24 := List.replicate 1024 0, reck := List.replicate 128 0, satBits := List.replicate 128 false }

def Scratch.reset : Scratch := { buf := [], bad := [], outs := [], words := [], nums := [], press := .reset }

def Hoop.reset : Hoop :=
  { isOpen := false, store := 0, base := 0, rows := 0, srcKind := 0, src := 0, srcCore := none, ops := 0,
    wrOver := false, rdTake := false, counter := 0, refused := 0, fenced := false }

def TallyEngine.reset : TallyEngine := { armed := false, tap := 0, eBase := 0, bins := [] }

def Seq.reset : Seq :=
  { running := false, stopped := false, base := 0, listId := 0, listLen := 0, watchdog := 0, pos := 0, serial := 0, l0 := 0, l1 := 0,
    l2 := 0, l3 := 0, turn := 0, workSeq := 0, fetch := [], issued := [], block := none }

def Stats.reset : Stats :=
  { predNominal := 0, predSkim := 0, predSkip := 0, skimNominal := 0, conv := 0, clip := 0, nan := 0, updRefused := 0,
    seedA := 0, seedW := 0, rotLen := 0, layerTag := 0, satFlag := [false, false, false, false],
    satCount := [0, 0, 0, 0] }

def Drift.reset : Drift := { k := 0, thr := 0, conv := 0, clip := 0 }

def SpErr.reset : SpErr :=
  { lastStore := 0, lastRow := 0, lastWord := 0, ueSeen := false, spareExhausted := false, scrubPoison := false,
    ue := false, ce := false, ceW := 0, ceA := 0, ceP := 0, ceBank := [], ueCount := 0, scrubCount := 0, spareExCount := 0 }

def EvLost.reset : EvLost := { flags := [false, false, false, false, false], counts := [0, 0, 0, 0, 0] }

def Core.reset : Core :=
  { service := .inService, fencedForSkim := false, passedAt := none, testing := false, part := 0, place := 0, seq := .reset,
    startReq := none, press := [], cdma := [], dieJobs := [], rowJobs := [], vecJobs := [], fsuJobs := [],
    tallyJobs := [], signals := [], hoops := [], hoopRefused := 0, holds := [], inbound := [], portBusy := false, cq := [],
    outPackets := [], tally := [], stats := .reset, drift := .reset,
    regs := .reset, lanesA := List.replicate 128 0, lanesW := List.replicate 128 0, ctu := [],
    faultRec := none, events := [], evLost := .reset, spErr := .reset, retain := 0, napRetain := 0, scrubRow := 0, unacked := [],
    waits := 0,
    skimFails := [], gate := 16, isolated := false }

/-- A die leaves reset at its nominal point: P1 on the L14 bin, P0 on the L16 bin (R511). Points are numbered as R521:
0 to 4 for P0 to P4, 5 for PX. -/
def DiePower.reset (bin : Nat) : DiePower :=
  let nominal := if bin = 1 then 0 else 1
  { point := nominal, target := nominal, mv := if bin = 1 then 850 else 780, active := nominal, standby := nominal + 1,
    locking := false, inChange := false, pointVotes := [], phaseCeil := none, thermalCeil := none, powerCeil := none, coolantCeil := none,
    livePhases := 14, phaseLost := false, throttled := false, powerCapped := false, phaseLostCount := 0,
    throttleCount := 0, powerCapCount := 0, temps := [] }

def Die.reset (bin : Nat) : Die :=
  { dmaLast := none, sets := [], transit := [], routeCache := [], skimMv := 520, skimSettling := false, power := .reset bin }

def Stack.reset : Stack :=
  { selfRefresh := false, zeroQueue := [], repairLog := [], hardRepaired := [], onDieCount := 0, failed := false, corrected := [] }

def Vc.reset : Vc := { credits := 0, txq := [], txPart := [], rx := [], kept := 0, creditDue := 0, marker := false }

def LinkKey.reset : LinkKey := { key := 0, salt := 0 }

def Port.reset : Port :=
  { link := .dark, leader := false, encOn := false, failedWl := 0xF, peerPort := 0, peerSerial := 0, peerModule := 0,
    holdSeen := false, loopback := false, authFail := false, linkLost := false, laneSpared := false,
    roleConflict := false, replayCount := 0, fecCorr := 0, fecUncorr := 0, crcErr := 0, drop := 0,
    roleConflictCount := 0, laneSparedCount := 0, linkLostCount := 0, authFailCount := 0, loopbackCount := 0,
    holdSeenCount := 0, part := 0, forwarding := false, enabled := true, policy := 0, requestPending := false,
    changeover := none, laneDown := false, laneFailed := [], lanePassed := [], moving := none,
    vcs := [.reset, .reset, .reset, .reset], txSeq := 0, replay := [], resend := none, resends := 0, rxSeq := 0,
    discarding := false, nakDue := false, rrReduce := false, mgmtGap := 0, frameLocked := false, encWanted := false,
    keyCur := .reset, keyRx := .reset, keyNext := none, keyTxAt := none, keyRxAt := none, txRecord := 0, rxRecord := 0,
    txOpen := [], rxOpen := [], recordFails := 0,
    fencing := false, mgmtIn := [], txPos := 0, out := [], frame := [], lanes := [] }

def Photonic.reset : Photonic :=
  { lsA := { present := true, full := false, failed := false }, lsB := { present := true, full := false, failed := false },
    lowerB := false, upperB := true, service := none, livePhases := 6, throttled := false, phaseLost := false,
    throttleCount := 0, phaseLostCount := 0, temps := [] }

def Partition.empty (owner : Word) : Partition :=
  { owner := owner, places := [], pages := [], hostPages := [], ports := [], hbmGrains := [], meshGrains := [],
    power := 0, retain := [], watts := 0 }

def Channel.reset : Channel :=
  { sqBase := 0, cqBase := 0, sqLog2 := 0, cqLog2 := 0, enable := false, active := false, chError := false,
    seqErr := false, sqTail := 0, cqHead := 0, sqHead := 0, cqTail := 0, cqPhase := true, lastCount := 0,
    seqErrCount := 0, chErrCount := 0, cqUsed := 0, sqLow := 0, cqLow := 0 }

def Ledger.reset : Ledger :=
  { attached := false, base := 0, log2 := 0, fresh := false, freshCount := 0, areaBase := 0, areaLog2 := 0, held := false, entries := [], lowHalf := 0 }

def EventQueue.reset : EventQueue :=
  { base := 0, log2 := 0, active := false, head := 0, tail := 0, phase := true, ovfCount := 0, used := 0, lowHalf := 0, waiting := [] }

def Alarms.reset : Alarms := { status := 0, enable := 0, counts := List.replicate 10 0 }

def Msix.reset : Msix := { table := [], pendingBits := 0 }

def Processor.reset : Processor := { held := true, current := false, lastEpoch := 0, claim := none, releases := [] }

def Stamp.reset : Stamp :=
  { epoch := 0, holder := 0, mpA := .reset, mpB := .reset, staleCount := 0, wrRefused := 0, grantCount := 0 }

def Assay.reset : Assay :=
  { sustained := 2800, throttlePoint := 100, transient := 3400, debugRefused := 0, unlockBarred := false, nonce := none,
    answer := none }

def Boot.reset : Boot :=
  { stage := 0, begun := false, bootSrc := false, slot := false, tried := [], assayHeader := [], mgmtHeader := [],
    cdiA := 0, cdiM := 0, modeByte := 0xFF, agreement := 0, fwVersion := 0 }

def Smbus.reset (strap : BitVec 2) : Smbus :=
  { strap := strap, reply := [], acked := false, alertEn := 0, alertReleased := false, sclHeld := false, mctp := [] }

def Spdm.reset : Spdm := { version := false, capabilities := false, algorithms := false, transcript := [] }

def Rind.reset : Rind :=
  { time := 0, alarm := none, trip := false, supply := [false, false, false, false, false], coolantHeld := false,
    clrRefused := false, thermtripN := true, wakeN := true, debugOpen := false, coolantLow := false, hottest := 0 }

/-- A domain's record after a reset of the hub's power domain (R524). -/
def Power.reset (st : Nat) : Power :=
  { st := st, votes := [], entry := none, waking := false, stalled := [], latch := none, refusals := 0, aborts := 0,
    replays := 0, lastRefuser := 0xFF, lastAborter := 0xFF }

def Pads.reset : Pads := { hbm := [], ucie := [], xspi := false, elsfp := false, tdo := false }

/-- The fuse map of a module: the values are a module's own; these are the model's (log 5). -/
def Fuses.reset : Fuses :=
  { serial := 0, bin := 0, siliconRev := 0, dark := [], rootKeyHash := [0, 0, 0, 0],
    keyRevoked := [false, false, false, false], svnAssay := 0, svnMgmt := 0, uds := 0, debugKeyHash := 0,
    fencedForLife := [], mapped := [] }

/-- The module right after `AON_RST_N` rises: the Rind reset, the system reset and the endpoint reset are done (R548),
boot has not begun (`BOOT_STAGE` 0). -/
def State.reset : State :=
  { pending := [], freeCtr := 0, refCount := 0, acc40 := 0, mem := [], full := [], poison := [], errOne := [], errFound := [],
    errMany := [], scrubNext := [], ceHistory := [], poisonLog := [], spares := [], fuses := .reset, cores := [], dies := [], hbmStacks := [],
    ports := [], photonics := [], hubPhases := 4, hubThrottled := false, hubPhaseLost := false, hubThrottleCount := 0,
    hubPhaseLostCount := 0, hubTemps := [], retiredLinks := [], moduleId := none, routes := [], rxTracks := [],
    forwards := [], partitions := [], windows := [], works := [], recoveries := [], partLog := [], cmds := [], ledger := .reset, hbmLost := true,
    channels := [], evq := .reset, alarms := .reset, msix := .reset, endpointUp := false, perstN := false,
    legacy := false, l0 := false, bar2 := .none, pdSelect := 0, reproducible := false, reproWait := [], stamp := .reset, assay := .reset, boot := .reset, smbus := .reset 0, spdm := .reset, rind := .reset,
    corePd := [], diePd := [], photonicPd := [], modulePd := .reset 0, pads := .reset,
    meter := { watts := 0, avg100 := 0, avg1ms := 0, avg10ms := 0 }, m3 := false, restarted := [] }

end Sys2Proof.Machine
end

