-- ==== Sys2Proof/Machine/Ops.lean ====
section
/-! DEFINITION. The named operations over the parts of the state, memory, events and faults. -/

namespace Sys2Proof.Machine

abbrev Out := Host.Outcome State Fault Refusal

/-! ## Times -/

/-- 24 hours of the 25 MHz reference (R370). -/
def dayTicks : Nat := 2160000000000

/-- How many of the times of a list, oldest first, lie within a span that ends at the last of them. -/
def recent (ts : List Nat) (span : Nat) : Nat := (ts.filter fun t => ts.getLast?.getD 0 ≤ t + span).length

/-! ## Parts -/

/-- The fuse map's mask of the dark spares of a die, by local index (R31). An unlisted die has spares 52 to 55 (log 5). -/
def darkMask (f : Fuses) (d : Nat) : Nat := tget f.dark d 0xF0000000000000

/-- The state of a core that nothing has touched since reset: its service class is the fuse map's (R31, R465). -/
def coreInit (f : Fuses) (c : Nat) : Core :=
  { Core.reset with
    service := if f.fencedForLife.contains c then .fenced
               else if bitAt (darkMask f (c / Config.coresPerDie)) (c % Config.coresPerDie) then .dark else .inService }

def getCore (s : State) (c : Nat) : Core := tget s.cores c (coreInit s.fuses c)
def setCore (s : State) (c : Nat) (x : Core) : State := { s with cores := tput s.cores c x }
def modCore (s : State) (c : Nat) (f : Core → Core) : State := setCore s c (f (getCore s c))

def getDie (s : State) (d : Nat) : Die := tget s.dies d (Die.reset s.fuses.bin)
def setDie (s : State) (d : Nat) (x : Die) : State := { s with dies := tput s.dies d x }
def modDie (s : State) (d : Nat) (f : Die → Die) : State := setDie s d (f (getDie s d))

def getStack (s : State) (k : Nat) : Stack := tget s.hbmStacks k Stack.reset
def setStack (s : State) (k : Nat) (x : Stack) : State := { s with hbmStacks := tput s.hbmStacks k x }
def modStack (s : State) (k : Nat) (f : Stack → Stack) : State := setStack s k (f (getStack s k))

def getPort (s : State) (p : Nat) : Port := tget s.ports p Port.reset
def setPort (s : State) (p : Nat) (x : Port) : State := { s with ports := tput s.ports p x }
def modPort (s : State) (p : Nat) (f : Port → Port) : State := setPort s p (f (getPort s p))

def getPd (s : State) (k : Nat) : Photonic := tget s.photonics k Photonic.reset
def setPd (s : State) (k : Nat) (x : Photonic) : State := { s with photonics := tput s.photonics k x }
def modPd (s : State) (k : Nat) (f : Photonic → Photonic) : State := setPd s k (f (getPd s k))

def getCh (s : State) (k : Nat) : Channel := tget s.channels k Channel.reset
def setCh (s : State) (k : Nat) (x : Channel) : State := { s with channels := tput s.channels k x }
def modCh (s : State) (k : Nat) (f : Channel → Channel) : State := setCh s k (f (getCh s k))

def getPart (s : State) (p : Nat) : Option Partition := tget? s.partitions p
def setPart (s : State) (p : Nat) (x : Partition) : State := { s with partitions := tput s.partitions p x }
def modPart (s : State) (p : Nat) (f : Partition → Partition) : State :=
  match getPart s p with
  | some x => setPart s p (f x)
  | none => s

/-- The die of a core (R26). -/
def dieOf (c : Nat) : Nat := c / Config.coresPerDie

/-- The photonic die of a port (R35). -/
def pdOf (port : Nat) : Nat := port / 16

/-- The core is part of the module (R26); else the command names no part. -/
def onCore (c : Nat) (o : Out) : Out := if c < Config.nCores then o else .fault .noSuchPart
def onDie (d : Nat) (o : Out) : Out := if d < Config.nDies then o else .fault .noSuchPart
def onPort (p : Nat) (o : Out) : Out := if p < Config.nPorts then o else .fault .noSuchPart
def onStack (k : Nat) (o : Out) : Out := if k < Config.nStacks then o else .fault .noSuchPart
def onPd (k : Nat) (o : Out) : Out := if k < Config.nPhotonic then o else .fault .noSuchPart
def onCh (k : Nat) (o : Out) : Out := if k < Config.nChannels then o else .fault .noSuchPart

/-- The hub has power: the module is in neither M2 nor M3 (R516). -/
def hubOn (s : State) : Bool := !s.m3 && s.modulePd.st < 2

/-- A free value and the state after taking it (log 6). -/
def takeFree (s : State) : Nat × State := (Config.freeNat s.freeCtr, { s with freeCtr := s.freeCtr + 1 })

/-! ## Records of domains -/

/-- State of a domain that no command has moved: 0 until firmware is ready (R524), then free-pool, dark and fenced cores in
C3 and dies, photonic dies and module up (R516, R522, R555). -/
def restState (s : State) : Domain → Nat
  | .core _ => if s.boot.stage = 4 then 3 else 0
  | _ => 0

def getPower (s : State) : Domain → Power
  | .core n => tget s.corePd n (Power.reset (restState s (.core n)))
  | .die n => tget s.diePd n (Power.reset 0)
  | .photonic n => tget s.photonicPd n (Power.reset 0)
  | .module => s.modulePd

def setPower (s : State) (d : Domain) (p : Power) : State :=
  match d with
  | .core n => { s with corePd := tput s.corePd n p }
  | .die n => { s with diePd := tput s.diePd n p }
  | .photonic n => { s with photonicPd := tput s.photonicPd n p }
  | .module => { s with modulePd := p }

def modPower (s : State) (d : Domain) (f : Power → Power) : State := setPower s d (f (getPower s d))

/-! ## Memory (R228, R229, R317) -/

/-- The cells of a byte string from address `a`: a zero byte is not listed. -/
def cellsOf : Nat → List Byte → List Host.Cell
  | _, [] => []
  | a, b :: bs => if b = 0 then cellsOf (a + 1) bs else (a, b) :: cellsOf (a + 1) bs

/-- One byte; an unlisted byte reads 0 (R261, R262 for stores; log 4 for HBM and host memory). -/
def cellByte (m : List Host.Cell) (a : Nat) : Byte :=
  match m.find? (fun c => c.1 == a) with
  | some c => c.2
  | none => 0

/-- Replace the bytes from address `a`. -/
def memWrite (m : List Host.Cell) (a : Nat) (bs : List Byte) : List Host.Cell :=
  m.filter (fun c => c.1 < a) ++ cellsOf a bs ++ m.filter (fun c => a + bs.length ≤ c.1)

/-- `n` bytes from address `a`. -/
def memRead (m : List Host.Cell) (a n : Nat) : List Byte :=
  let sub := m.filter (fun c => a ≤ c.1 && c.1 < a + n)
  (List.range n).map (fun i => cellByte sub (a + i))

/-- The canonical form: addresses strictly rising, no zero byte listed. -/
def memRising : List Host.Cell → Bool
  | [] => true
  | [c] => c.2 != 0
  | c :: d :: t => c.2 != 0 && c.1 < d.1 && memRising (d :: t)

def Memory.wf (m : List Host.Cell) : Bool := memRising m

def rdBytes (s : State) (a n : Nat) : List Byte := memRead s.mem a n
def wrBytes (s : State) (a : Nat) (bs : List Byte) : State := { s with mem := memWrite s.mem a bs }

/-- Physical address of host bus address 0 (R317). -/
def hostBase : Nat := 0x100000000000
/-- Physical row (address / 512) of row `r` of a store of a core (R228, R229, R317). -/
def storeRow (c store r : Nat) : Nat := 0x80000000 + c * 8192 + store * 2048 + r
/-- First physical row of the host window. -/
def hostRow : Nat := 0x800000000

/-- Rows of a store: 0 W-store, 1 A-store, 2 P-store (R228). -/
def storeRows (store : Nat) : Nat := if store = 1 then 1024 else 2048
/-- Rows of a bank of a store. -/
def bankRows (store : Nat) : Nat := if store = 1 then 64 else 128
/-- Bank of a row (R229). -/
def bankOf (store r : Nat) : Nat := r / bankRows store
/-- Banks 8 to 15 are far (R229). -/
def isFar (store r : Nat) : Bool := bankOf store r ≥ 8

/-- Where a physical row lies: a store row (core, store, row), HBM, or host memory (R317). -/
inductive RowPlace where
  | store (core store row : Nat)
  | hbm
  | host
  | nowhere
  deriving DecidableEq, Repr

def placeOf (row : Nat) : RowPlace :=
  if row ≥ hostRow then .host
  else if row < 0x40000000 then .hbm
  else if row < 0x80000000 then .nowhere
  else
    let c := (row - 0x80000000) / 8192
    let x := (row - 0x80000000) % 8192
    if c < Config.nCores && (x < 2048 || (2048 ≤ x && x < 3072) || (4096 ≤ x && x < 6144))
    then .store c (x / 2048) (x % 2048) else .nowhere

/-- Stack that holds a physical HBM address (R317). -/
def stackOf (addr : Nat) : Nat := addr / 0x1000000000 % 8

/-- The compute die whose controller a stack attaches to (R23). -/
def stackDie (k : Nat) : Nat := if k < 4 then 4 * k else 4 * (k - 4) + 3

/-- The core or the controller's die that holds a physical row is not up, or the row's page waits to be zeroised: an access
to the row stalls until it is (R436, R528). -/
def asleep (s : State) (row : Nat) : Bool :=
  match placeOf row with
  | .store c _ _ => (getPower s (.core c)).st ≥ 2
  | .hbm =>
    let k := stackOf (row * 512)
    (getPower s (.die (stackDie k))).st ≥ 2 || (getStack s k).zeroQueue.contains (row / 4096)
  | _ => false

/-- A physical HBM page (address >> 21) lies in a populated part of its stack's slot (R317). -/
def pagePopulated (pg : Nat) : Bool := pg < 262144 && pg % 32768 < Config.pagesPerStack

/-- Host memory, as the module reads and writes it through the endpoint (R475). -/
def hostRead (s : State) (a n : Nat) : List Byte := rdBytes s (hostBase + a) n
def hostWrite (s : State) (a : Nat) (bs : List Byte) : State := wrBytes s (hostBase + a) bs

/-- Writes that the host made to its own memory before a command (log 9). -/
def applyHost (s : State) (ws : List HostWrite) : State := ws.foldl (fun s w => hostWrite s w.addr w.data) s

/-! ## Tags (R240) -/

def isFull (s : State) (row : Nat) : Bool := s.full.contains row
def setTag (s : State) (row : Nat) (f : Bool) : State :=
  { s with full := if f then insNat s.full row else delNat s.full row }

/-! ## Records (R370) -/

/-- `FR_UNIT` numbers. -/
def uSeq : Nat := 0
def uPress : Nat := 1
def uMerge : Nat := 2
def uCdmaIn : Nat := 3
def uCdmaOut : Nat := 4
def uDieDma : Nat := 5
def uVector : Nat := 6
def uTurner : Nat := 7
def uTally : Nat := 8
def uFsu : Nat := 9
def uRemote : Nat := 10
def uReducer : Nat := 11
def uFirmware : Nat := 12

/-- Codes of R366. -/
def cLayerField : Nat := 0x01
def cGroupWidth : Nat := 0x02
def cDescAlias : Nat := 0x03
def cOverlap : Nat := 0x04
def cXlate : Nat := 0x05
def cProt : Nat := 0x06
def cSparse : Nat := 0x07
def cEcc : Nat := 0x08
def cPoison : Nat := 0x09
def cTimeout : Nat := 0x0A
def cHoopClosed : Nat := 0x0B
def cSkimFail : Nat := 0x0C
def cSatExact : Nat := 0x41
def cDrift : Nat := 0x42
def cWeightPoisoned : Nat := 0x43
def cTurnDone : Nat := 0x44
def cListEnd : Nat := 0x45
def cPhaseLost : Nat := 0x80
def cThrottle : Nat := 0x81
def cPowerCap : Nat := 0x82
def cCoolant : Nat := 0x83
def cSupply : Nat := 0x84
def cThermTrip : Nat := 0x85

/-- What a faulting operation reports: code, unit, address and detail (R370, R371). -/
structure Bad where
  code : Nat
  unit : Nat
  addr : Nat
  detail : Nat
  deriving DecidableEq, Repr

/-- The record of a core for a fault or an event (R370). -/
def mkRec (s : State) (c : Nat) (b : Bad) (entry tag : Nat) (event : Bool) : FaultRec :=
  { time := s.refCount.toNat, tag := tag, list := (getCore s c).seq.listId, more := 0, detail := b.detail % 2 ^ 32,
    addr := b.addr, entry := entry % 2 ^ 24, unit := b.unit, event := event, code := b.code }

/-- The 256 bits of a record, without the fields that the event queue adds (R370). -/
def recNat (r : FaultRec) : Nat :=
  (r.time <<< 192) + ((r.tag % 65536) <<< 160) + (r.list <<< 128) + ((r.more % 256) <<< 120) + ((r.detail % 2 ^ 32) <<< 88)
    + ((r.addr % 2 ^ 48) <<< 40) + ((r.entry % 2 ^ 24) <<< 16) + ((r.unit % 16) <<< 9) + ((if r.event then 1 else 0) <<< 8)
    + r.code % 256

/-- Bit of `CORE_EV_LOST` of an event (R369). -/
def lostBit (code : Nat) : Nat :=
  if code = cSkimFail then 0 else if code = cSatExact then 1 else if code = cDrift then 2
  else if code = cTurnDone then 3 else 4

/-- A core raises an event: it enters the queue of 16 records, or is lost and counted (R368, R369). -/
def pushEvent (s : State) (c : Nat) (r : FaultRec) : State :=
  modCore s c fun co =>
    if co.events.length < 16 then { co with events := co.events ++ [r] }
    else
      let b := lostBit r.code
      { co with evLost := { flags := setNth co.evLost.flags b true,
                            counts := setNth co.evLost.counts b (satInc 32 (nth co.evLost.counts b 0)) } }

/-- `FR_UNIT` of a core unit. A core DMA move is named by the engine at fault: `write` its destination side (R233). -/
def unitCode (u : CoreUnit) (e : Engines) (write : Bool) : Nat :=
  match u with
  | .sequencer => uSeq
  | .press => uPress
  | .cdma => match e with
    | .inOnly => uCdmaIn
    | .outOnly => uCdmaOut
    | .both => if write then uCdmaIn else uCdmaOut
  | .dieDma => uDieDma
  | .row => uSeq
  | .vector => uVector
  | .tally => uTally
  | .fsu => uFsu
  | .signal => uSeq

/-! ## Jobs -/

def unitJobs (co : Core) : CoreUnit → List Job
  | .press => co.press
  | .cdma => co.cdma
  | .dieDma => co.dieJobs
  | .row => co.rowJobs
  | .vector => co.vecJobs
  | .fsu => co.fsuJobs
  | .tally => co.tallyJobs
  | .sequencer => []
  | .signal => []

def withJobs (co : Core) (u : CoreUnit) (js : List Job) : Core :=
  match u with
  | .press => { co with press := js }
  | .cdma => { co with cdma := js }
  | .dieDma => { co with dieJobs := js }
  | .row => { co with rowJobs := js }
  | .vector => { co with vecJobs := js }
  | .fsu => { co with fsuJobs := js }
  | .tally => { co with tallyJobs := js }
  | .sequencer => co
  | .signal => co

def findJob (co : Core) (u : CoreUnit) (idx : Nat) : Option Job := (unitJobs co u).find? (fun j => j.idx == idx)

/-- Replace the job with the index of `j`. -/
def putJob (co : Core) (u : CoreUnit) (j : Job) : Core :=
  withJobs co u ((unitJobs co u).map (fun k => if k.idx == j.idx then j else k))

def dropJob (co : Core) (u : CoreUnit) (idx : Nat) : Core :=
  withJobs co u ((unitJobs co u).filter (fun k => !(k.idx == idx)))

def modJob (s : State) (c : Nat) (u : CoreUnit) (idx : Nat) (f : Job → Job) : State :=
  modCore s c fun co => withJobs co u ((unitJobs co u).map (fun k => if k.idx == idx then f k else k))

/-- The tag that fault records of an entry carry: `LAYER_TAG` of a layer, else 0 (R370). -/
def jobTag (co : Core) (u : CoreUnit) (idx : Nat) : Nat :=
  match findJob co u idx with
  | some j => j.tag
  | none => 0

/-! ## Faults (R257, R367, R368) -/

/-- Every unit of a core has stopped: no unit keeps an operation, no hold stands, every hoop has stopped accepting and
no conflict entry is queued (R221, R257, R367). Signals and rows already sent stay on their way (R258). -/
def stopUnits (co : Core) : Core :=
  { co with press := [], cdma := [], dieJobs := [], rowJobs := [], vecJobs := [], fsuJobs := [], tallyJobs := [],
            signals := [], outPackets := [], holds := [], cq := [],
            hoops := co.hoops.map (fun e => (e.1, { e.2 with isOpen := false })) }

/-- The first row of a packet that was not applied, with its code, once row `row` has been applied or refused. -/
def firstRefused (old : Option (Nat × Nat)) (row : Nat) (code : Option Nat) : Option (Nat × Nat) :=
  match old, code with
  | _, none => old
  | none, some c => some (row, c)
  | some o, some c => if o.1 ≤ row then old else some (row, c)

/-- An applied or refused row of a packet received from another module is accounted in its track (R402). -/
def trackRow (s : State) (k row : Nat) (code : Option Nat) : State :=
  match tget? s.rxTracks k with
  | none => s
  | some t =>
    let t' := { t with left := t.left - 1, applied := t.applied + (if code.isNone then 1 else 0),
                       code := firstRefused t.code row code }
    { s with rxTracks := tput s.rxTracks k t' }

/-- Partition address of a hoop row (R312). -/
def hoopAddr (core hoop row : Nat) : Nat := 0xC00000000000 + (core <<< 36) + (hoop <<< 32) + (row <<< 9)

/-- Hoop row of a queued reduce-add. -/
def queuedRow (co : Core) (hoop : Nat) (e : CqEntry) : Nat := e.row - (tget co.hoops hoop Hoop.reset).base

/-- Hoop address under which a queued reduce-add was sent. -/
def queuedAddr (co : Core) (hoop : Nat) (e : CqEntry) : Nat := hoopAddr co.place hoop (queuedRow co hoop e)

/-- The first refused row of each operation: an operation faults once. -/
def firstSenders : List (Nat × CoreUnit × Nat × Nat) → List (Nat × CoreUnit × Nat × Nat)
  | [] => []
  | e :: l => e :: (firstSenders l).filter fun x => !(x.1 == e.1 && x.2.1 == e.2.1 && x.2.2.1 == e.2.2.1)

/-- Insert a fault behind those of no higher unit: faults of one cycle are ordered by unit, which `FR_UNIT` numbers (R368). -/
def byUnit : List (Nat × CoreUnit × Nat × Bad) → Nat × CoreUnit × Nat × Bad → List (Nat × CoreUnit × Nat × Bad)
  | [], f => [f]
  | g :: l, f => if g.2.2.2.unit ≤ f.2.2.2.unit then g :: byUnit l f else f :: g :: l

/-- Faults of operations, one after another: the first that a core raises is recorded and stops the core; a further one of the
same cycle counts in `FR_MORE` (R368). A stopped core's queued reduce-adds are answered as refused with `HOOP_CLOSED`, which
faults their senders in turn (R257). `n` bounds the chain; each fault that lengthens it stops one more core. -/
def faultChain : Nat → List (Nat × CoreUnit × Nat × Bad) → State → State
  | 0, _, s => s
  | _, [], s => s
  | n + 1, (c, u, idx, b) :: rest, s =>
    let co := getCore s c
    if co.seq.stopped then
      let s := modCore s c fun co =>
        { co with faultRec := co.faultRec.map (fun r => { r with more := satInc 8 r.more }) }
      faultChain n rest s
    else
      let r := mkRec s c b idx (jobTag co u idx) false
      let refusedSenders := co.cq.filterMap (fun e => match e.owner with
        | .arrival h (.local g v i) => some (g, v, i, queuedAddr co h e)
        | _ => none)
      let refusedTracks := co.cq.filterMap (fun e => match e.owner with
        | .arrival h (.packet k) => some (k, queuedRow co h e)
        | _ => none)
      let s0 := s
      let s := setCore s c { stopUnits co with
        seq := { co.seq with stopped := true, block := none }, faultRec := some r }
      let s := refusedTracks.foldl (fun s x => trackRow s x.1 x.2 (some cHoopClosed)) s
      let more := (firstSenders refusedSenders).filterMap (fun e =>
        if !(getCore s0 e.1).seq.stopped && ((getCore s0 e.1).seq.issued.any (fun i => i.idx == e.2.2.1))
        then some (e.1, e.2.1, e.2.2.1, { code := cHoopClosed, unit := unitCode e.2.1 .outOnly true,
                                          addr := e.2.2.2, detail := 0 })
        else none)
      faultChain n (rest ++ more.foldl byUnit []) s

/-- The operation of entry `idx` on unit `u` of core `c` faults. DEDUCED (log 92): units stop within the command that faults, and once
they have stopped nothing more is counted (R367, R368). -/
def raiseFault (s : State) (c : Nat) (u : CoreUnit) (idx : Nat) (b : Bad) : State :=
  if (getCore s c).seq.stopped then s else faultChain (2 * Config.nCores) [(c, u, idx, b)] s

/-- The work of a core's list sends to module `m` or takes rows from it (R452). -/
def markRemote (s : State) (c m : Nat) : State :=
  let k := (getCore s c).seq.workSeq
  match tget? s.works k with
  | some w => { s with works := tput s.works k { w with peers := insNat w.peers m } }
  | none => s

/-! ## Alarms and firmware records (R366, R498, R589) -/

/-- An alarm flag is set and counted; flags 1 to 9 of R589 are bits of `ALARM_STATUS`. -/
def setAlarm (s : State) (bit : Nat) : State :=
  { s with alarms := { s.alarms with
      status := s.alarms.status ||| (1 <<< bit : Nat),
      counts := setNth s.alarms.counts bit (satInc 32 (nth s.alarms.counts bit 0)) } }

/-- Firmware takes a record that it will write to the event queue, with place and partition (R498). -/
def queueRec (s : State) (r : FaultRec) (place part : Nat) : State :=
  { s with evq := { s.evq with waiting := s.evq.waiting ++ [(r, place, part)] } }

/-- A record of firmware's own: `FR_UNIT` 12, entry 0 (R366, R370). -/
def fwRec (s : State) (code addr detail : Nat) : FaultRec :=
  { time := s.refCount.toNat, tag := 0, list := 0, more := 0, detail := detail % 2 ^ 32, addr := addr, entry := 0,
    unit := uFirmware, event := true, code := code }

end Sys2Proof.Machine
end

