-- ==== Sys2Proof/Machine/Access.lean ====
section
/-! DEFINITION. Row accesses: translation (R310 to R316), error correction and poison (R264 to R268, R271, R321, R601),
tags and holds (R99 to R102, R240 to R243), and the words of host and firmware accesses. -/

namespace Sys2Proof.Machine

/-! ## Partition addresses (R310 to R312) -/

/-- Region of a partition address: 0 HBM, 1 scratchpads, 2 host memory, 3 hoops. -/
def region (a : Nat) : Nat := a / 2 ^ 46 % 4

/-- Partition core number of a scratchpad address, its store and row, when it lies in a store (R311). -/
def scratchOf (a : Nat) : Option (Nat × Nat × Nat) :=
  let x := a % 2 ^ 22
  if fld a 32 14 != 0 || fld a 22 10 > 895 then none
  else if x < 0x100000 then some (fld a 22 10, 0, x / 512)
  else if x < 0x180000 then some (fld a 22 10, 1, (x - 0x100000) / 512)
  else if x < 0x200000 then none
  else if x < 0x300000 then some (fld a 22 10, 2, (x - 0x200000) / 512)
  else none

/-- Scratchpad partition address of a store row of the core at `place`. -/
def scratchAddr (place store row : Nat) : Nat :=
  0x400000000000 + (place <<< 22) + (if store = 0 then 0 else if store = 1 then 0x100000 else 0x200000) + 512 * row

/-- Partition core number, hoop, row and reserved bits of a hoop address (R312). -/
def hoopCore (a : Nat) : Nat := fld a 36 10
def hoopNum (a : Nat) : Nat := fld a 32 4
def hoopRowOf (a : Nat) : Nat := fld a 9 11
def hoopReserved (a : Nat) : Nat := fld a 20 12

/-- What a partition's tables give for an address: a physical row, or the code that the access faults with (R314). -/
inductive Xl where
  | ok (row : Nat)
  | miss (key : Nat)
  | bad (code : Nat)
  deriving DecidableEq, Repr

/-- The partition's tables (R310, R311, R314, R425). The extent of a store is the whole store, with both permissions. -/
def tableLookup (s : State) (part : Nat) (a : Nat) (write : Bool) : Xl :=
  match getPart s part with
  | none => .bad cXlate
  | some p =>
    match region a with
    | 0 => match tget? p.pages (a >>> 21) with
      | some pg => .ok (pg * 4096 + fld a 9 12)
      | none => .bad cXlate
    | 1 => match scratchOf a with
      | none => .bad cXlate
      | some (pl, st, r) => match tget? p.places pl with
        | some g => .ok (storeRow g st r)
        | none => .bad cXlate
    | 2 => match tget? p.hostPages (fld a 21 25) with
      | some h => if (if write then h.wr else h.rd) then .ok (hostRow + h.page * 4096 + fld a 9 12) else .bad cProt
      | none => .bad cXlate
    | _ => .bad cXlate

/-- Key of a cached translation: the unit of mapping of R310, which is the store extent, the hoop, or the 2 MiB page, with its
region (R313). -/
def ctuKey (a : Nat) : Nat := 4 * (a >>> (if region a = 1 then 20 else if region a = 3 then 32 else 21)) + region a

/-- A scratchpad address of the issuing core itself. -/
def ownScratch (co : Core) (a : Nat) : Option (Nat × Nat) :=
  if region a != 1 || co.part = 0 then none
  else match scratchOf a with
    | some (pl, st, r) => if pl = co.place then some (st, r) else none
    | none => none

/-- The CTU caches the translation of an address (R313). -/
def cached (co : Core) (a : Nat) : Bool := co.ctu.any fun e => e.1 == ctuKey a

/-- Translation of an address that core `c` generates, one of its own stores' included (R310, R313). -/
def translate (s : State) (c a : Nat) (write : Bool) : Xl :=
  let co := getCore s c
  if cached co a then
    match ownScratch co a with
    | some (st, r) => .ok (storeRow c st r)
    | none => tableLookup s co.part a write
  else .miss (ctuKey a)

/-- A translation enters the CTU cache, which keeps 64 (R313; the oldest leaves, log 12). -/
def ctuFill (co : Core) (key : Nat) : Core := { co with ctu := ((key, key) :: co.ctu).take 64 }

/-! ## Errors and poison -/

def wordPoisoned (s : State) (row w : Nat) : Bool := s.poison.contains (row * 8 + w)

/-- Bank of the W-store retained under `W_RETAIN` (R260). -/
def retained (co : Core) (store row : Nat) : Bool := store == 0 && co.retain.getLsbD (bankOf 0 row)

/-- A corrected single-bit error in a store word (R277, R278). R265 gives its bank a count too, of no stated width. -/
def countCe (e : SpErr) (store row w : Nat) : SpErr :=
  let bank := 16 * store + bankOf store row
  let e := { e with ce := true, ceBank := tput e.ceBank bank (tget e.ceBank bank 0 + 1),
                    ceW := if store = 0 then satInc 32 e.ceW else e.ceW,
                    ceA := if store = 1 then satInc 32 e.ceA else e.ceA,
                    ceP := if store = 2 then satInc 32 e.ceP else e.ceP }
  if e.ueSeen then e else { e with lastStore := store, lastRow := row, lastWord := w }

/-- An uncorrectable error found in a store word (R266, R277, R278). -/
def countUe (e : SpErr) (store row w : Nat) : SpErr :=
  { e with ue := true, ueSeen := true, ueCount := satInc 16 e.ueCount, lastStore := store, lastRow := row, lastWord := w }

/-- Firmware logs words marked or met poisoned, with their owner partition (R267, R270, R322). -/
def logPoison (s : State) (words : List Nat) (part : Nat) : State :=
  { s with poisonLog := s.poisonLog ++ words.map fun w => (w, s.refCount.toNat, part) }

/-- Partition that owns a word: that of the core, or of the page; 0 in the free pool (R460). -/
def ownerOf (s : State) (w : Nat) : Nat :=
  match placeOf (w / 8) with
  | .store c _ _ => (getCore s c).part
  | _ => match s.partitions.find? fun e => e.2.pages.any fun p => p.2 == w / 32768 with
    | some e => e.1
    | none => 0

/-- Words of a row, by a mask, are logged with their owner. -/
def logWords (s : State) (row mask : Nat) : State :=
  (idxs 8 (bitAt mask)).foldl (fun s w => logPoison s [row * 8 + w] (ownerOf s (row * 8 + w))) s

/-- Words of a mask that a visit marked poisoned are logged, and firmware raises `WEIGHT_POISONED` for those of a retained row
(R270). -/
def weightPoisoned (s : State) (c store row mask : Nat) : State :=
  let co := getCore s c
  let s := logPoison s ((idxs 8 (bitAt mask)).map fun w => storeRow c store row * 8 + w) co.part
  if retained co store row && mask != 0 then
    queueRec s (fwRec s cWeightPoisoned (scratchAddr co.place store row) mask) co.place co.part
  else s

/-- Mark the words of a mask poisoned; their latent errors are found. -/
def markPoison (s : State) (row mask : Nat) : State :=
  (idxs 8 (bitAt mask)).foldl (fun s w =>
    { s with poison := insNat s.poison (row * 8 + w), errMany := delNat s.errMany (row * 8 + w) }) s

/-- Words of a row with a latent single-bit error, and with a latent uncorrectable error and no mark. -/
def onesOf (s : State) (row : Nat) : Nat := maskOf (idxs 8 fun w => s.errOne.contains (row * 8 + w))
def manyOf (s : State) (row : Nat) : Nat :=
  maskOf (idxs 8 fun w => s.errMany.contains (row * 8 + w) && !(wordPoisoned s row w))
def poisonOf (s : State) (row : Nat) : Nat := maskOf (idxs 8 fun w => wordPoisoned s row w)

/-- Single-bit errors of a store row that no read or visit has found before: found again before the scrubber writes its correction
back, an error is the same error (R265, R274). -/
def newOnes (s : State) (row : Nat) : Nat :=
  maskOf (idxs 8 fun w => s.errOne.contains (row * 8 + w) && !(s.errFound.contains (row * 8 + w)))

/-- Errors found in a store row now enter the history that sparing goes by: each single-bit error when it is first found, each
uncorrectable one (R274). -/
def noteErrors (s : State) (row many : Nat) : State :=
  let fresh := newOnes s row
  { s with
    errFound := (idxs 8 (bitAt fresh)).foldl (fun l w => insNat l (row * 8 + w)) s.errFound,
    ceHistory := s.ceHistory ++ (idxs 8 (bitAt fresh)).map (fun _ => (row, s.refCount.toNat, false)) ++
      (if many = 0 then [] else [(row, s.refCount.toNat, true)]) }

/-- Corrected words of an HBM row enter the history that repair goes by (R461). -/
def noteCorrected (s : State) (row ones : Nat) : State :=
  if ones = 0 then s else modStack s (stackOf (row * 512)) fun k =>
    { k with corrected := (idxs 8 (bitAt ones)).foldl (fun l w => tput l (row * 8 + w) s.refCount.toNat) k.corrected }

/-- What checking a row's eight words finds and leaves: single-bit errors counted and queued for a scrub visit (R265),
uncorrectable words marked (R266, R321) and, when the read does not use them, logged (R270, R321, R601). `used` is the mask of
the words that the read uses. -/
def checkWords (s : State) (row used : Nat) : State :=
  let ones := onesOf s row
  let many := manyOf s row
  match placeOf row with
  | .store c st r =>
    let s1 := modCore (markPoison (noteErrors s row many) row many) c fun co =>
      { co with spErr := (idxs 8 (bitAt many)).foldl (fun e w => countUe e st r w)
                  ((idxs 8 (bitAt ones)).foldl (fun e w => countCe e st r w) co.spErr) }
    weightPoisoned { s1 with
      scrubNext := if ones = 0 || s1.scrubNext.contains row then s1.scrubNext else s1.scrubNext ++ [row] }
      c st r (many &&& (255 ^^^ used))
  | .hbm => logWords (noteCorrected (markPoison s row many) row ones) row (many &&& (255 ^^^ used))
  | _ => markPoison s row many

/-- The code and word mask of a read that uses a bad word (R266, R267, R321), judged on the state before the read. -/
def readVerdict (s : State) (row used : Nat) : Option (Nat × Nat) :=
  let many := manyOf s row
  let all := many ||| poisonOf s row
  if many &&& used != 0 then some (cEcc, all &&& used)
  else if all &&& used != 0 then some (cPoison, all &&& used)
  else none

/-- A read checks its row; the bad words that it uses are logged, and it faults (R267). -/
def checkRead (s : State) (row used : Nat) : State :=
  logWords (checkWords s row used) row ((manyOf s row ||| poisonOf s row) &&& used)

/-- Mask of the words that a 512-bit byte mask touches, and of those that it covers whole. -/
def wordsTouched (mask : Nat) : Nat := maskOf (idxs 8 fun w => fld mask (64 * w) 64 != 0)
def wordsWhole (mask : Nat) : Nat := maskOf (idxs 8 fun w => fld mask (64 * w) 64 == 2 ^ 64 - 1)
def wholeMask : Nat := 2 ^ 512 - 1

/-- Merge bytes into a row under a byte mask. -/
def mergeBytes : Nat → List Byte → List Byte → List Byte
  | _, [], _ => []
  | m, o :: os, [] => o :: mergeBytes (m / 2) os []
  | m, o :: os, n :: ns => (if m % 2 = 1 then n else o) :: mergeBytes (m / 2) os ns

def clearMarks (s : State) (row mask : Nat) : State :=
  (idxs 8 (bitAt mask)).foldl (fun s w =>
    { s with poison := delNat s.poison (row * 8 + w), errOne := delNat s.errOne (row * 8 + w),
             errMany := delNat s.errMany (row * 8 + w) }) s

/-- Write the bytes of a mask into a physical row as a partial write: `whole` names the words written in every bit. The mask of the
words that refuse it when it is refused (R271, R321). -/
def putPart (s : State) (row : Nat) (data : List Byte) (mask whole : Nat) : State × Option Nat :=
  let new := fun (s : State) => wrBytes s (row * 512) (mergeBytes mask (rdBytes s (row * 512) 512) data)
  match placeOf row with
  | .store _ _ _ =>
    let bad := (manyOf s row ||| poisonOf s row) &&& wordsTouched mask
    let s1 := checkWords s row 255
    if bad != 0 then (s1, some bad)
    else (new { s1 with errOne := s1.errOne.filter (fun x => !(x / 8 == row)) }, none)
  | .hbm =>
    let part := wordsTouched mask &&& (255 ^^^ whole)
    let bad := (manyOf s row ||| poisonOf s row) &&& part
    let s1 := noteCorrected s row (onesOf s row &&& part)
    if bad != 0 then (markPoison s1 row (manyOf s row &&& part), some bad)
    else (new (clearMarks s1 row (wordsTouched mask)), none)
  | _ => (new s, none)

/-- Write the bytes of a mask into a physical row; the mask of the words that refuse it when the write is refused (R271,
R321). A whole-row write of a store clears every mark (R264), a whole-word write of HBM that word's (R321). -/
def putRow (s : State) (row : Nat) (data : List Byte) (mask : Nat) : State × Option Nat :=
  match placeOf row with
  | .store _ _ _ =>
    if mask = wholeMask then (wrBytes (clearMarks s row 255) (row * 512) (mergeBytes mask (rdBytes s (row * 512) 512) data), none)
    else putPart s row data mask (wordsWhole mask)
  | _ => putPart s row data mask (wordsWhole mask)

/-- Mask of bytes of which some bit is set. -/
def byteMask (bits : Nat) : Nat := maskOf (idxs 512 fun x => fld bits (8 * x) 8 != 0)

/-- Every bit of a row. -/
def allBits : Nat := 2 ^ 4096 - 1

/-- Write the bits of a mask into a physical row. A write that leaves some bit of the row as it is, is a partial write, though it
touches every byte (R271). -/
def putBits (s : State) (row : Nat) (data : List Byte) (bits : Nat) : State × Option Nat :=
  if bits = allBits then putRow s row data wholeMask
  else
    let old := leNat (rdBytes s (row * 512) 512)
    putPart s row (leBytes 512 ((old &&& (old ^^^ (old &&& bits))) ||| (leNat data &&& bits))) (byteMask bits)
      (maskOf (idxs 8 fun w => fld bits (512 * w) 512 == 2 ^ 512 - 1))

/-! ## Holds and hoops -/

/-- Another operation of the core holds the row (R99, R101, R243). -/
def heldByOther (co : Core) (row : Nat) (u : CoreUnit) (idx : Nat) : Bool :=
  co.holds.any (fun h => h.1 == row && !(h.2.1 == u && h.2.2 == idx))

def heldBySelf (co : Core) (row : Nat) (u : CoreUnit) (idx : Nat) : Bool :=
  co.holds.any (fun h => h.1 == row && h.2.1 == u && h.2.2 == idx)

def addHold (co : Core) (row : Nat) (u : CoreUnit) (idx : Nat) : Core :=
  if heldBySelf co row u idx then co else { co with holds := co.holds ++ [(row, u, idx)] }

def dropHold (co : Core) (row : Nat) : Core := { co with holds := co.holds.filter (fun h => !(h.1 == row)) }

def dropHoldsOf (co : Core) (u : CoreUnit) (idx : Nat) : Core :=
  { co with holds := co.holds.filter (fun h => !(h.2.1 == u && h.2.2 == idx)) }

/-- The row lies in an open hoop of its owner (R102). -/
def inOpenHoop (co : Core) (store row : Nat) : Bool :=
  co.hoops.any (fun e => e.2.isOpen && e.2.store == store && e.2.base ≤ row && row < e.2.base + e.2.rows)

/-! ## Accesses of operations -/

/-- What an access gives: data, a wait, or a fault. The state carries what the access itself leaves. -/
inductive Acc where
  | ok (s : State) (data : List Byte)
  | wait (w : Wait)
  | fault (s : State) (b : Bad)

/-- Who accesses: core, unit, entry index and the engines of its move. -/
structure Who where
  core : Nat
  unit : CoreUnit
  idx : Nat
  eng : Engines
  deriving DecidableEq, Repr

/-- Read a physical row. `addr` is its partition address, for records. -/
def readPhys (s : State) (w : Who) (row addr : Nat) (mode : RdMode) (used : Nat) : Acc :=
  let isStore := match placeOf row with
    | .store _ _ _ => true
    | _ => false
  if asleep s row then .wait { kind := .wake, addr := addr }
  else if isStore && heldByOther (getCore s w.core) row w.unit w.idx then .wait { kind := .hold, addr := addr }
  else if isStore && mode != .raw && !(isFull s row) && !(heldBySelf (getCore s w.core) row w.unit w.idx) then
    .wait { kind := .tag, addr := addr }
  else
    let data := rdBytes s (row * 512) 512
    let s1 := if isStore || placeOf row == .hbm then checkRead s row used else s
    match (if isStore || placeOf row == .hbm then readVerdict s row used else none) with
    | some (code, mask) => .fault s1 { code := code, unit := unitCode w.unit w.eng false, addr := addr, detail := mask }
    | none => .ok (if isStore && mode == .take then setTag s1 row false else s1) data

/-- Write the bits of a mask into a physical row under a write mode; `first` and `last` mark the parts of a row written in parts.
Such a row is held from its first part to its last (R99, R272). -/
def writePhys (s : State) (w : Who) (row addr : Nat) (mode : WrMode) (data : List Byte) (bits : Nat)
    (first last : Bool) : Acc :=
  let unit := unitCode w.unit w.eng true
  if asleep s row then .wait { kind := .wake, addr := addr }
  else match placeOf row with
  | .store g st r =>
    if inOpenHoop (getCore s g) st r then .fault s { code := cProt, unit := unit, addr := addr, detail := 0 }
    else if heldByOther (getCore s w.core) row w.unit w.idx then .wait { kind := .hold, addr := addr }
    else if mode == .put && first && isFull s row && !(heldBySelf (getCore s w.core) row w.unit w.idx) then
      .wait { kind := .tag, addr := addr }
    else
      match putBits s row data bits with
      | (s1, some bad) => .fault s1 { code := cEcc, unit := unit, addr := addr, detail := bad }
      | (s1, none) =>
        let s2 := match mode with
          | .raw => s1
          | .heldRaw => s1
          | .put => if last then setTag s1 row true else s1
          | _ => setTag s1 row true
        if mode == .held || mode == .heldRaw then .ok s2 []
        else .ok (modCore s2 w.core fun co => if last then dropHold co row else addHold co row w.unit w.idx) []
  | .hbm =>
    match putBits s row data bits with
    | (s1, some bad) => .fault s1 { code := cEcc, unit := unit, addr := addr, detail := bad }
    | (s1, none) =>
      .ok (modCore s1 w.core fun co => { co with unacked := co.unacked ++ [(stackOf (row * 512), w.idx)] }) []
  | _ => .ok (putBits s row data bits).1 []

/-- Partition address of a place that is no hoop. -/
def locAddr (co : Core) : Loc → Nat
  | .own st r => scratchAddr co.place st r
  | .addr r => r * 512
  | .hoop _ c h r => hoopAddr c h r

/-- A unit that names rows of the core's own stores by partition addresses, so that the CTU translates them (R310). The Press's
descriptor names them by row index (R342). -/
def namesAddresses (u : CoreUnit) : Bool := u != .press && u != .tally

/-- The translation that an access to a row of the core's own stores lacks (R313). -/
def ownMiss (s : State) (w : Who) (store row : Nat) : Option Nat :=
  let co := getCore s w.core
  let a := scratchAddr co.place store row
  if namesAddresses w.unit && !(cached co a) then some (ctuKey a) else none

/-- Read a row of a store of the core or of a partition address. -/
def readLoc (s : State) (w : Who) (loc : Loc) (mode : RdMode) (used : Nat) : Acc :=
  match loc with
  | .own st r =>
    match ownMiss s w st r with
    | some k => .wait { kind := .translation, addr := k }
    | none => readPhys s w (storeRow w.core st r) (locAddr (getCore s w.core) loc) mode used
  | .addr r =>
    match translate s w.core (r * 512) false with
    | .miss k => .wait { kind := .translation, addr := k }
    | .bad code => .fault s { code := code, unit := unitCode w.unit w.eng false, addr := r * 512, detail := 0 }
    | .ok row => readPhys s w row (r * 512) mode used
  | .hoop _ c h r => .wait { kind := .remoteRead, addr := hoopAddr c h r }

/-- Write a row of a store of the core or of a partition address. -/
def writeLoc (s : State) (w : Who) (loc : Loc) (mode : WrMode) (data : List Byte) (bits : Nat) (first last : Bool) : Acc :=
  match loc with
  | .own st r =>
    match ownMiss s w st r with
    | some k => .wait { kind := .translation, addr := k }
    | none => writePhys s w (storeRow w.core st r) (locAddr (getCore s w.core) loc) mode data bits first last
  | .addr r =>
    match translate s w.core (r * 512) true with
    | .miss k => .wait { kind := .translation, addr := k }
    | .bad code => .fault s { code := code, unit := unitCode w.unit w.eng true, addr := r * 512, detail := 0 }
    | .ok row => writePhys s w row (r * 512) mode data bits first last
  | .hoop _ c h r => .wait { kind := .slot, addr := hoopAddr c h r }

/-- Read part of a row raw, for a descriptor, a parameter block or an index list: `n` bytes at a partition address that
do not cross a row. The tag mode of these reads is not given (log 15): raw. -/
def readBlock (s : State) (w : Who) (a n : Nat) : Acc :=
  let used := maskOf (idxs 8 fun k => a % 512 / 64 ≤ k && k ≤ (a % 512 + n - 1) / 64)
  match readLoc s w (.addr (a / 512)) .raw used with
  | .ok s data => .ok s ((data.drop (a % 512)).take n)
  | r => r

/-- Tag modes from their fields (R240). -/
def rdModeOf (t : Nat) : RdMode := if t = 0 then .peek else if t = 1 then .take else .raw
def wrModeOf (t : Nat) : WrMode := if t = 0 then .put else if t = 1 then .overwrite else .raw

end Sys2Proof.Machine
end

