-- ==== Sys2Proof/Machine/Transport.lean ====
section
/-! DEFINITION. Transport packets (R396, R397), routes (R409, R410) and responses (R402, R403, R406). -/

namespace Sys2Proof.Machine

/-! ## Packets -/

def opWrite : Nat := 0
def opAddF32 : Nat := 1
def opAddI32 : Nat := 2
def opSignal : Nat := 3
def opRead : Nat := 4
def opData : Nat := 5
def opNotReady : Nat := 6
def opApplied : Nat := 7
def opRefused : Nat := 8
def opUnreachable : Nat := 9
def opManagement : Nat := 10

/-- Virtual channel of an operation (R383, R397). -/
def channelOf (op : Nat) : Nat :=
  if op = opAddF32 || op = opAddI32 then 2
  else if op = opWrite || op = opSignal || op = opRead then 0
  else if op = opManagement then 3 else 1

/-- The 16-byte header (R396). -/
def packetHeader (p : Packet) : Nat :=
  ((p.hops % 16) <<< 124) + ((p.score % 1024) <<< 114) + ((p.seng % 4) <<< 112) + ((p.mtag % 4096) <<< 100) +
  ((p.value % 65536) <<< 84) + ((p.op % 16) <<< 60) + ((p.dest % 65536) <<< 44) + ((p.src % 65536) <<< 28) +
  ((p.core % 1024) <<< 18) + ((p.hoop % 16) <<< 14) + ((p.row % 2048) <<< 3) + (p.rows.length - 1) % 8

/-- Rows of data that follow a header (R397). `PK_NROWS` cannot tell a management packet of no rows from one of a single row:
which of the two a header announces is a free value (log 94). -/
def headerRows (h : Nat) : Nat :=
  let op := fld h 60 4
  if op = opManagement then (if fld h 0 3 = 0 && Config.managementBare h then 0 else fld h 0 3 + 1)
  else if op = opWrite || op = opAddF32 || op = opAddI32 then fld h 0 3 + 1
  else if op = opData then 1 else 0

/-- The bytes of a packet in its channel's stream. -/
def packetBytes (p : Packet) : List Byte := leBytes 16 (packetHeader p) ++ p.rows.flatten

/-- The packet that a header and its rows form. -/
def packetOf (h : Nat) (rows : List (List Byte)) : Packet :=
  { hops := fld h 124 4, score := fld h 114 10, seng := fld h 112 2, mtag := fld h 100 12, value := fld h 84 16,
    op := fld h 60 4, dest := fld h 44 16, src := fld h 28 16, core := fld h 18 10, hoop := fld h 14 4,
    row := fld h 3 11, rows := rows, via := 0 }

/-- A header that R398 discards. -/
def headerRefused (h : Nat) : Bool :=
  let op := fld h 60 4
  op > 10 || fld h 64 20 != 0 ||
  (fld h 0 3 != 0 && (op == opSignal || op == opRead || (opData ≤ op && op ≤ opUnreachable)))

/-! ## Routes (R409 to R411) -/

def rtValid (e : Nat) : Bool := bitAt e 31
def rtPorts (e : Nat) : List Nat := [fld e 7 7, fld e 14 7, fld e 21 7]
def rtHops (e : Nat) : Nat := fld e 0 4

/-- Entry of a module ID; the all-zero entry routes nothing. -/
def routeEntry (s : State) (id : Nat) : Nat := (tget s.routes id 0).toNat

/-- An entry that firmware refuses (R409). -/
def routeRefused (e : Nat) : Bool :=
  fld e 28 3 != 0 || fld e 4 3 != 0 ||
  (rtValid e && ((rtPorts e).any (fun p => 64 ≤ p && p ≤ 126) || fld e 7 7 == 127 || rtHops e == 0))

/-- First port of an entry that is `UP` and meets a condition. -/
def pickPort (s : State) (e : Nat) (ok : Port → Bool) : Option Nat :=
  (rtPorts e).find? fun p => p < 64 && (getPort s p).link == .up && ok (getPort s p)

def modVc (p : Port) (c : Nat) (f : Vc → Vc) : Port := { p with vcs := setNth p.vcs c (f (nth p.vcs c Vc.reset)) }

/-- Put a packet in the queue of its channel at a port. -/
def queuePacket (s : State) (port : Nat) (p : Packet) : State :=
  modPort s port fun q => modVc q (channelOf p.op) fun v => { v with txq := v.txq ++ [p] }

def ownId (s : State) : Nat := match s.moduleId with
  | some i => i.toNat
  | none => 0

/-! ## Responses -/

/-- The response to a packet: to its source, with its move's identity (R402). -/
def responseTo (s : State) (p : Packet) (op value : Nat) (rows : List (List Byte)) : Packet :=
  { hops := rtHops (routeEntry s p.src), score := p.score, seng := p.seng, mtag := p.mtag, value := value, op := op,
    dest := p.src, src := ownId s, core := 0, hoop := 0, row := 0, rows := rows, via := p.via }

/-- Lowest number not in use as a key. -/
def freshKey {α : Type} (t : Tbl α) : Nat := t.foldl (fun m e => max m (e.1 + 1)) 0

def putTrack (s : State) (k : Nat) (t : RxTrack) : State := { s with rxTracks := tput s.rxTracks k t }

/-- Send the response of a track over a port of the receiving partition, or an unreachable response over any port, if one qualifies;
the track then ends (log 63). -/
def sendAnswer (s : State) (k : Nat) (t : RxTrack) (p : Packet) : State :=
  let e := routeEntry s p.dest
  let ok := fun (q : Port) => p.op == opUnreachable || q.part == (getPort s t.port).part
  match (if rtValid e then pickPort s e ok else none) with
  | some port => queuePacket { s with rxTracks := tdel s.rxTracks k } port p
  | none => putTrack s k { t with answer := some p }

/-- Answer a received packet as a whole, at once (R398, R400, R408). -/
def answerPacket (s : State) (port : Nat) (p : Packet) (op value : Nat) (rows : List (List Byte)) : State :=
  sendAnswer s (freshKey s.rxTracks)
    { packet := p, port := port, left := 0, applied := 0, code := none, answer := none } (responseTo s p op value rows)

/-- The response of the forwarding module to a request or reduce packet that it drops: unreachable (R411). -/
def sendUnreachable (s : State) (port : Nat) (p : Packet) : State :=
  if channelOf p.op = 0 || channelOf p.op = 2 then answerPacket s port p opUnreachable 0 [] else s

/-- The final response of a track whose rows are all accounted for (R402). -/
def finalAnswer (s : State) (t : RxTrack) : Packet :=
  match t.code with
  | some e => responseTo s t.packet opRefused e.2 []
  | none => responseTo s t.packet opApplied (if t.packet.op = opSignal then 0 else t.applied) []

end Sys2Proof.Machine
end

