-- ==== Sys2Proof/Machine/Domains.lean ====
section
/-! DEFINITION. Power domains (R516 to R522): their records, what keeps them up, the states they permit, and the routes
between dies that R518 looks at (R29, R30, R38). -/

namespace Sys2Proof.Machine

/-! ## Routes between compute dies (R21, R29, R30, R39) -/

/-- Number of the link between two neighbouring dies: 0 to 11 the horizontal ones by row, 12 to 23 the vertical ones by
row (log 22). -/
def linkOf (a b : Nat) : Nat :=
  let lo := min a b
  if a / 4 = b / 4 then 3 * (lo / 4) + lo % 4 else 12 + lo

/-- The two dies that a link joins. -/
def linkEnds (l : Nat) : Nat × Nat :=
  if l < 12 then (4 * (l / 3) + l % 3, 4 * (l / 3) + l % 3 + 1) else (l - 12, l - 8)

/-- Steps of one grid coordinate from `x` to `y`. -/
def gridSteps (x y : Nat) : List Nat :=
  if x ≤ y then (List.range (y - x)).map (fun k => x + k + 1) else (List.range (x - y)).map (fun k => x - k - 1)

/-- Dies from `a` to `b`, both included: along the row first, or along the column first. -/
def pathRow (a b : Nat) : List Nat :=
  a :: ((gridSteps (a % 4) (b % 4)).map (fun c => 4 * (a / 4) + c) ++
        (gridSteps (a / 4) (b / 4)).map (fun r => 4 * r + b % 4))

def pathCol (a b : Nat) : List Nat :=
  a :: ((gridSteps (a / 4) (b / 4)).map (fun r => 4 * r + a % 4) ++
        (gridSteps (a % 4) (b % 4)).map (fun c => 4 * (b / 4) + c))

def pathLinks : List Nat → List Nat
  | a :: b :: t => linkOf a b :: pathLinks (b :: t)
  | _ => []

/-- The route of R29, or that of R30 when it crosses a retired link. -/
def diePath (retired : List Nat) (a b : Nat) : List Nat :=
  if (pathLinks (pathRow a b)).any (fun l => retired.contains l) then pathCol a b else pathRow a b

/-- The route crosses a retired link whichever way it goes (R458). -/
def noRoute (retired : List Nat) (a b : Nat) : Bool :=
  (pathLinks (diePath retired a b)).any (fun l => retired.contains l)

/-- Die of the bridge of a port (R35). -/
def bridgeDie (port : Nat) : Nat := let k := port / 8; if k < 4 then k else k + 8

/-- Die by which hub traffic to a die enters (R38). -/
def hubDie (d : Nat) : Nat := if d % 4 < 2 then 13 else 14

/-! ## Activity (R517) -/

/-- The core runs an entry, a unit of it is busy, or an access to its stores is pending. -/
def coreActive (co : Core) : Bool :=
  (co.seq.running && !co.seq.stopped) || !co.press.isEmpty || !co.cdma.isEmpty || !co.dieJobs.isEmpty ||
  !co.rowJobs.isEmpty || !co.vecJobs.isEmpty || !co.fsuJobs.isEmpty || !co.tallyJobs.isEmpty || !co.signals.isEmpty ||
  !co.inbound.isEmpty || !co.cq.isEmpty

/-- Cores of a die. -/
def coresOf (d : Nat) : List Nat := (List.range Config.coresPerDie).map (fun k => d * Config.coresPerDie + k)

/-- State number of a core as `PD_STATE` gives it: C0 and C1 follow activity. -/
def coreState (s : State) (c : Nat) : Nat :=
  let p := (getPower s (.core c)).st
  if p ≥ 2 then p else if s.boot.stage ≠ 4 then 0 else if coreActive (getCore s c) then 0 else 1

/-- A core of the die is active or its die reducer holds rows. -/
def dieActive (s : State) (d : Nat) : Bool :=
  (s.cores.any fun e => dieOf e.1 == d && coreActive e.2) || !(getDie s d).sets.isEmpty || !(getDie s d).transit.isEmpty

/-- `DSTATE`: D0 and D1 follow activity (R517, R545). -/
def dieState (s : State) (d : Nat) : Nat :=
  let p := (getPower s (.die d)).st
  if p ≥ 2 then p else if dieActive s d then 0 else 1

def dieUp (s : State) (d : Nat) : Bool := (getPower s (.die d)).st < 2

/-- Module state: M0 and M1 follow the dies (R516, R517). -/
def moduleState (s : State) : Nat :=
  if s.m3 then 3
  else if s.modulePd.st ≥ 2 then 2
  else if (List.range Config.nDies).any (dieUp s) then 0 else 1

/-- `PD_STATE` of a domain (R524). A compute die's is 0 until firmware is ready. -/
def domainState (s : State) : Domain → Nat
  | .core n => coreState s n
  | .die n => if s.boot.stage ≠ 4 && (getPower s (.die n)).st < 2 then 0 else dieState s n
  | .photonic n => (getPower s (.photonic n)).st
  | .module => if s.boot.stage ≠ 4 && s.modulePd.st < 2 then 0 else moduleState s

/-! ## Votes (R518 to R522) -/

/-- DEDUCED (log 84): traffic from a die to the hub leaves by the bridge by which R38 has traffic to that die enter. The die lies on
a route that R518 keeps up: between two dies that are up, between one and its hub bridge, or between one
and a photonic bridge that carries an `UP` port (log 23). -/
def routeKept (s : State) (d : Nat) : Bool :=
  let ups := (List.range Config.nDies).filter fun e => e != d && dieUp s e
  let bridges := (List.range 8).filterMap fun k =>
    if s.ports.any fun p => p.1 / 8 == k && p.2.link == .up then some (bridgeDie (8 * k)) else none
  ups.any fun a =>
    (diePath s.retiredLinks a (hubDie a)).contains d ||
    (ups.any fun b => (diePath s.retiredLinks a b).contains d) ||
    (bridges.any fun b => (diePath s.retiredLinks a b).contains d)

/-- Management firmware runs. -/
def firmwareRuns (s : State) : Bool := s.boot.stage == 4

/-- No ledger entry is in state 1, 2 or 4 (R531). -/
def ledgerQuiet (s : State) : Bool := !(s.ledger.entries.any fun e => e.2.st == 1 || e.2.st == 2 || e.2.st == 4)

/-- The host driver's vote for a domain. -/
def hostVote (p : Power) : Option Nat := tget? p.votes 0

/-- Firmware's standing votes, by client and state (R518, R522, R531). The votes that a bind or a re-bind places stand in the
domain's own table. -/
def standingVotes (s : State) : Domain → List (Nat × Nat)
  | .core _ => []
  | .die d => if !(firmwareRuns s) then [] else
      (if routeKept s d then [(0x01, 1)] else []) ++
      (if s.ports.any fun p => bridgeDie p.1 == d && p.2.link == .up then [(0x03, 1)] else [])
  | .photonic k => if !(firmwareRuns s) then [] else
      if (List.range 16).any fun i => (getPort s (16 * k + i)).link != .disabled then [(0x03, 0)] else []
  | .module => if firmwareRuns s && !(hostVote s.modulePd == some 2 && ledgerQuiet s) then [(0x01, 1)] else []

def allVotes (s : State) (d : Domain) : List (Nat × Nat) := (getPower s d).votes ++ standingVotes s d

/-- Deepest state of a domain. -/
def deepest : Domain → Nat
  | .core _ => 3
  | .die _ => 3
  | .photonic _ => 1
  | .module => 2

/-- The shallowest state that a list of votes names; the deepest state of the domain when there is none (R520). -/
def shallowest (d : Domain) (vs : List (Nat × Nat)) : Nat := vs.foldl (fun m v => min m v.2) (deepest d)

/-- The permitted state (R518, R520): a die's D3 needs every compute die to permit it. -/
def permitted (s : State) (d : Domain) : Nat :=
  let p := shallowest d (allVotes s d)
  match d with
  | .die _ =>
    if p = 3 && !((List.range Config.nDies).all fun e => shallowest (.die e) (allVotes s (.die e)) = 3) then 2 else p
  | _ => p

/-- The cores of a partition on a die (R521). -/
def partCores (p : Partition) : List Nat := p.places.map (·.2)

end Sys2Proof.Machine
end

