-- ==== Sys2Proof/Machine/Convert.lean ====
section
/-! DEFINITION. Codes, scales and the counters of conversions: R148 to R156, R173, R187 to R189. -/

namespace Sys2Proof.Machine

/-- Kind of a code (R150): 0 signed full range, 1 unsigned, 2 binary, 3 signed symmetric. -/
def codeLo (kind b : Nat) : Int :=
  if kind = 0 then -(2 ^ (b - 1) : Nat) else if kind = 3 then -((2 ^ (b - 1) : Nat) - 1 : Int) else 0
def codeHi (kind b : Nat) : Int :=
  if kind = 1 then (2 ^ b : Nat) - 1 else if kind = 2 then 1 else (2 ^ (b - 1) : Nat) - 1

/-- A converted value: its code, whether it was clipped, and whether it was a NaN (R150, R151). -/
structure Coded where
  code : Int
  clipped : Bool
  nan : Bool
  deriving DecidableEq, Repr

/-- Clamp of an exact quotient or product, rounded once to an integer, plus the zero point (R150, R151, R173). -/
def codeOf (kind b : Nat) (z : Int) (v : FVal) : Coded :=
  if kind = 2 then
    match v with
    | .nan => { code := 1, clipped := false, nan := true }
    | .inf neg => { code := if neg then 0 else 1, clipped := false, nan := false }
    | .fin neg m _ => { code := if neg && m != 0 then 0 else 1, clipped := false, nan := false }
  else
    let lo := codeLo kind b
    let hi := codeHi kind b
    match v with
    | .nan => { code := z, clipped := false, nan := true }
    | .inf neg => { code := if neg then lo else hi, clipped := true, nan := false }
    | .fin _ _ _ =>
      let q := v.nearest + z
      { code := if q < lo then lo else if q > hi then hi else q, clipped := q < lo || q > hi, nan := false }

/-- Code of a value under a scale: the quotient is rounded once to an integer (R150). -/
def quantCode (kind b : Nat) (z : Int) (y s : FVal) : Coded :=
  if y.isFin then codeOf kind b z (y.div s) else codeOf kind b z y

/-- A scale that R159 refuses, by its fraction bits and pattern: zero, negative, subnormal or non-finite. -/
def badScale (p n : Nat) : Bool :=
  let e := (n >>> p) % 256
  bitAt n (p + 8) || e == 0 || e == 255

/-- Two's complement pattern of a code in `b` bits; a binary code is its bit. -/
def codePat (b : Nat) (q : Int) : Nat := toPat b q

/-- One counted conversion enters the saturation counters (R187). -/
def countConv (st : Stats) (c : Coded) : Stats :=
  { st with conv := satInc 32 st.conv, clip := if c.clipped then satInc 32 st.clip else st.clip,
            nan := if c.nan then satInc 32 st.nan else st.nan }

/-- One counted conversion enters the drift window (R188, R189): the new window and, when it closes over its threshold,
its `DRIFT_CLIP`. -/
def driftStep (d : Drift) (clipped : Bool) : Drift × Option Nat :=
  if d.k = 0 then (d, none)
  else
    let conv := d.conv + 1
    let clip := d.clip + (if clipped then 1 else 0)
    if conv = 2 ^ d.k then
      ({ d with conv := 0, clip := 0 }, if clip * 65536 > d.thr * 2 ^ d.k then some clip else none)
    else ({ d with conv := conv, clip := clip }, none)

/-- All conversions of a list in order: the drift window after them and the `DRIFT_CLIP` of every window that closed over
its threshold. -/
def driftRun : Drift → List Coded → Drift × List Nat
  | d, [] => (d, [])
  | d, c :: cs =>
    match driftStep d c.clipped with
    | (d', ev) =>
      match driftRun d' cs with
      | (d'', evs) => (d'', ev.toList ++ evs)

/-- A core counts conversions in order and raises `CALIB_DRIFT` for windows that close over their threshold (R187 to
R190). `drift` is false when the operation leaves the window alone. -/
def countCodes (s : State) (c unit entry tag : Nat) (drift : Bool) (cs : List Coded) : State :=
  let co := getCore s c
  let s1 := setCore s c { co with stats := cs.foldl countConv co.stats }
  if drift then
    match driftRun co.drift cs with
    | (d, evs) =>
      let s2 := modCore s1 c fun co => { co with drift := d }
      evs.foldl (fun s clip =>
        pushEvent s c (mkRec s c { code := cDrift, unit := unit, addr := d.k, detail := clip } entry tag true)) s2
  else s1

/-! ## Dynamic scales (R154, R155, R156) -/

def maxV (a b : FVal) : FVal := if a.lt b then b else a
def minV (a b : FVal) : FVal := if b.lt a then b else a
def zeroV : FVal := .fin false 0 0
def natV (n : Nat) : FVal := .fin false n 0

/-- Balanced tree: adjacent pairs first, an unpaired last operand passes unchanged (R115). -/
def pairUp {α : Type} (f : α → α → α) : List α → List α
  | [] => []
  | [a] => [a]
  | a :: b :: t => f a b :: pairUp f t

def treeN {α : Type} (f : α → α → α) : Nat → List α → List α
  | 0, l => l
  | n + 1, l => treeN f n (pairUp f l)

/-- The result of the tree over a list of at most 2^10 operands. -/
def treeSum {α : Type} (f : α → α → α) (d : α) (l : List α) : α := (treeN f 10 l).headD d

/-- Sum of FP32 patterns in lane order (R177): lane e mod 64, each lane ascending, then the tree over the lanes. DESIGN CHOICE: a lane
starts from +0, so that a lane of −0 alone sums to +0 (log 87). -/
def laneSum (xs : List Nat) : Nat :=
  let lane := fun (k : Nat) =>
    ((xs.zipIdx).filter (fun p => p.2 % 64 == k)).foldl (fun acc p => addF32 acc p.1) 0
  treeSum addF32 0 ((List.range 64).map lane)

/-- The dynamic scale over FP32 patterns, as an exact value before its rounding (R154); binary takes the rounded mean. -/
def dynScale (kind b z : Nat) (xs : List Nat) : FVal :=
  let vs := (xs.map f32).filter FVal.isFin
  if kind = 1 then
    let xmax := vs.foldl maxV zeroV
    let xmin := vs.foldl minV zeroV
    let t1 := if 2 ^ b - 1 - z = 0 then zeroV else xmax.div (natV (2 ^ b - 1 - z))
    let t2 := if z = 0 then zeroV else xmin.neg.div (natV z)
    maxV t1 t2
  else if kind = 2 then
    let fin := xs.filter (fun x => (f32 x).isFin)
    let sum := laneSum (xs.map (fun x => if (f32 x).isFin then x % 2 ^ 31 else 0))
    if fin.isEmpty then zeroV else (f32 sum).div (natV fin.length)
  else
    (vs.foldl (fun m v => maxV m v.abs) zeroV).div (natV (2 ^ (b - 1) - 1))

/-- A dynamic scale rounded to its format with `p` fraction bits; a zero scale becomes 1.0 (R154, R155). -/
def storeScale (p : Nat) (v : FVal) : Nat :=
  let n := fenc p v
  if n % 2 ^ (p + 8) = 0 then 127 <<< p else n

end Sys2Proof.Machine
end

