-- ==== Sys2Proof/Machine/Operands.lean ====
section
/-! DEFINITION. The fields of list headers, entries (R324, R332), layer descriptors (R341) and tensor descriptors (R279),
and the checks that need no more than these structures and the state (R331, R332, R344, R602). -/

namespace Sys2Proof.Machine

/-! ## Layer descriptor (R341) -/

def ldK (d : Nat) : Nat := fld d 0 20
def ldN (d : Nat) : Nat := fld d 20 16
def ldM (d : Nat) : Nat := fld d 36 16
def ldMode (d : Nat) : Nat := fld d 52 2
def ldExact (d : Nat) : Bool := bitAt d 54
def ldA (d : Nat) : Nat := fld d 55 3 + 1
def ldW (d : Nat) : Nat := fld d 58 3 + 1
def ldAKind (d : Nat) : Nat := fld d 61 2
def ldWKind (d : Nat) : Nat := fld d 63 2
def ldZp (d : Nat) : Nat := fld d 65 8
def ldGroup (d : Nat) : Nat := fld d 73 2
def ldS (d : Nat) : Nat := fld d 75 9
def ldResume (d : Nat) : Bool := bitAt d 84
def ldPartial (d : Nat) : Bool := bitAt d 85
def ldARow (d : Nat) : Nat := fld d 86 10
def ldARing (d : Nat) : Nat := fld d 96 11
def ldWRow (d : Nat) : Nat := fld d 107 11
def ldWRing (d : Nat) : Nat := fld d 118 11
def ldOutRow (d : Nat) : Nat := fld d 129 11
def ldOutRing (d : Nat) : Nat := fld d 140 11
def ldSpillBase (d : Nat) : Nat := fld d 151 11
def ldAScaleSrc (d : Nat) : Bool := bitAt d 162
def ldAScaleRow (d : Nat) : Nat := fld d 163 11
def ldWScaleSrc (d : Nat) : Bool := bitAt d 174
def ldWScaleRow (d : Nat) : Nat := fld d 175 11
def ldAScale (d : Nat) : Nat := fld d 186 32
def ldWScale (d : Nat) : Nat := fld d 218 16
def ldSkimT (d : Nat) : Nat := fld d 234 4
def ldQuality (d : Nat) : Nat := fld d 238 4
def ldPredSkip (d : Nat) : Nat := fld d 242 16
def ldPredSkim (d : Nat) : Nat := fld d 258 16
def ldStreamLen (d : Nat) : Nat := fld d 274 3
def ldStreamPol (d : Nat) : Bool := bitAt d 277
def ldSeedSrc (d : Nat) : Bool := bitAt d 278
def ldSeedA (d : Nat) : Nat := fld d 279 24
def ldSeedW (d : Nat) : Nat := fld d 303 25
def ldSparse (d : Nat) : Nat := fld d 328 2
def ldMetaRow (d : Nat) : Nat := fld d 330 11
def ldWrunExt (d : Nat) : Nat := fld d 341 11
def ldArunRow (d : Nat) : Nat := fld d 352 10
def ldArunExt (d : Nat) : Nat := fld d 362 10
def ldRotLen (d : Nat) : Nat := fld d 372 4
def ldOutFmt (d : Nat) : Nat := fld d 376 2
def ldOutW (d : Nat) : Nat := fld d 378 3 + 1
def ldOutSym (d : Nat) : Bool := bitAt d 381
def ldOutZp (d : Nat) : Nat := fld d 382 8
def ldOutRscale (d : Nat) : Nat := fld d 390 32
def ldTag (d : Nat) : Nat := fld d 422 16

/-- Group length G. -/
def ldG (d : Nat) : Nat := 32 <<< ldGroup d
/-- Slices, or paired slices of a 2:4 layer, of the K range (R342). -/
def ldSlices (d : Nat) : Nat := if ldSparse d = 1 then cdiv (ldK d) 256 else cdiv (ldK d) 128
/-- Groups of the K range (R158). -/
def ldGroups (d : Nat) : Nat := cdiv (ldK d) (ldG d)
/-- Columns of an N tile (R105). -/
def ldNt (d : Nat) : Nat := if ldExact d then 4 else 32
def ldTilesM (d : Nat) : Nat := cdiv (ldM d) 32
def ldTilesN (d : Nat) : Nat := cdiv (ldN d) (ldNt d)
def ldTiles (d : Nat) : Nat := ldTilesM d * ldTilesN d
/-- Rows of A and columns of W of tile `t` inside the extent, tiles N outer and M inner (R68, R71). -/
def ldTileM (d t : Nat) : Nat := t % ldTilesM d
def ldTileN (d t : Nat) : Nat := t / ldTilesM d
def ldMExt (d t : Nat) : Nat := min 32 (ldM d - 32 * ldTileM d t)
def ldNExt (d t : Nat) : Nat := min (ldNt d) (ldN d - ldNt d * ldTileN d t)
/-- In-range positions of dense slice `s` (R66). -/
def ldIn (d s : Nat) : Nat := min 128 (ldK d - 128 * s)
/-- The layer can spill (R344). -/
def ldCanSpill (d : Nat) : Bool := ldSparse d ≥ 2 || (!(ldExact d) && ldGroups d > ldS d)
def ldUsesSpill (d : Nat) : Bool := ldPartial d || ldResume d || ldCanSpill d
/-- Output rows of a tile (R73, R91, R110). -/
def ldROut (d : Nat) : Nat :=
  if ldExact d then 1
  else if ldPartial d then 8
  else if ldOutFmt d = 0 then 8 else if ldOutFmt d = 1 then 4 else cdiv (ldOutW d) 4
def ldSpillRows (d : Nat) : Nat := if ldExact d then 1 else 8
/-- Length of a stream (R123). -/
def ldL (d : Nat) : Nat := 2 ^ (ldStreamLen d + 4)

/-- A row index within a ring that begins at its first row (R291, R342). -/
def ringRow (first len x : Nat) : Nat := if len = 0 then first + x else first + x % len

def ldSpillRow (d t r : Nat) : Nat := ldSpillBase d + ldSpillRows d * t + r
def ldOutRowOf (d t r : Nat) : Nat := ringRow (ldOutRow d) (ldOutRing d) (ldROut d * t + r)
def ldARowOf (d t s i : Nat) : Nat :=
  ringRow (ldARow d) (ldARing d) ((ldTileM d t * cdiv (ldK d) 128 + s) * ldA d + i)
def ldWRowOf (d t s j : Nat) : Nat :=
  ringRow (ldWRow d) (ldWRing d) ((ldTileN d t * ldSlices d + s) * ldW d + j)
def ldMetaRowOf (d t h r : Nat) : Nat := ldMetaRow d + 2 * (ldTileN d t * cdiv (ldK d) 256 + h) + r

/-- Row ranges that the layer names: store, first row, count, position of the field that a range past its store names
(R344, R602). -/
def ldRanges (d : Nat) : List (Nat × Nat × Nat × Nat) :=
  let tm := ldTilesM d
  let tn := ldTilesN d
  let ks := cdiv (ldK d) 128
  (if ldARing d != 0 then [(1, ldARow d, ldARing d, 86)]
   else if ldSparse d < 2 then [(1, ldARow d, tm * ks * ldA d, 0)] else []) ++
  (if ldWRing d != 0 then [(0, ldWRow d, ldWRing d, 107)]
   else if ldSparse d != 3 then [(0, ldWRow d, tn * ldSlices d * ldW d, 0)] else []) ++
  (if !(ldPartial d) then
    [(2, ldOutRow d, (if ldOutRing d = 0 then ldROut d * ldTiles d else ldOutRing d),
      if ldOutRing d = 0 then 20 else 129)] else []) ++
  (if ldSparse d = 1 then [(0, ldMetaRow d, 2 * tn * cdiv (ldK d) 256, 0)] else []) ++
  (if ldSparse d ≥ 2 then [(1, ldArunRow d, tm * ldArunExt d, 36)] else []) ++
  (if ldSparse d = 3 then [(0, ldMetaRow d, tn * ldWrunExt d, 20)] else []) ++
  (if ldUsesSpill d then [(2, ldSpillBase d, ldSpillRows d * ldTiles d, 20)] else []) ++
  (if !(ldExact d) && !(ldAScaleSrc d) then [(2, ldAScaleRow d, cdiv (ldM d) 128, 36)] else []) ++
  (if !(ldExact d) && !(ldWScaleSrc d) then
    [if ldSparse d ≥ 2 then (2, ldWScaleRow d, tn, 20) else (2, ldWScaleRow d, tn * cdiv (ldGroups d) 8, 0)] else [])

/-- Step 1 of R344: reserved bits and refused encodings of the fields used; their positions. -/
def ldStep1 (d : Nat) : List Nat :=
  let ring := fun (n : Nat) => n == 1 || n > 1024
  (if ldMode d = 3 then [52] else []) ++
  (if ldAKind d = 3 then [61] else []) ++
  (if ldWKind d = 3 then [63] else []) ++
  (if ring (ldARing d) then [96] else []) ++
  (if ring (ldWRing d) then [118] else []) ++
  (if !(ldPartial d) && ring (ldOutRing d) then [140] else []) ++
  (if ldMode d = 2 && ldStreamLen d = 7 then [274] else []) ++
  (if ldRotLen d != 0 && (ldRotLen d < 5 || ldRotLen d > 12) then [372] else []) ++
  (lowBit 74 438 (d >>> 438)).toList

/-- R48, R105 and R121: the combination of mode, kinds and widths is legal. -/
def ldComboOk (d : Nat) : Bool :=
  match ldMode d with
  | 0 => ldAKind d < 2 && (ldWKind d = 0 || (ldWKind d = 1 && ldW d = 1))
  | 1 => ldAKind d = 2 && ldA d = 1 && ldWKind d = 2 && ldW d = 1 && !(ldExact d)
  | 2 => (if ldStreamPol d then ldAKind d = 0 && ldWKind d = 0 else ldAKind d = 1 && ldWKind d = 1) && !(ldExact d)
  | _ => false

/-- Step 2 of R344: the tests of R49, R88, R122, R136, R159, R171, R174, R192, R291 and row ranges; their positions. A
relation between fields names the lowest field that its test reads (R602, log 16). -/
def ldStep2 (d : Nat) : List Nat :=
  let a := ldA d
  let w := ldW d
  let z := ldZp d
  let t := ldSkimT d
  let sp := ldSparse d
  let narrow := ldOutFmt d ≥ 2 && !(ldPartial d) && !(ldExact d)
  (if !(ldComboOk d) then [52] else []) ++
  (if ldGroup d = 3 then [73] else []) ++
  (if ldS d = 0 || ldS d > 256 then [75] else []) ++
  (if ldM d = 0 then [36] else []) ++
  (if ldN d = 0 then [20] else []) ++
  (if ldK d = 0 then [0] else []) ++
  (if z != 0 && ldAKind d != 1 then [61] else []) ++
  (if z != 0 && ldAKind d = 1 && z ≥ 2 ^ a then [55] else []) ++
  (if ldMode d = 2 && (ldGroup d != 2 || z != 0 || t != 0 || sp != 0) then [52] else []) ++
  (if t != 0 && (ldMode d != 0 || ldExact d) then [52] else []) ++
  (if t != 0 && t > a + w - 2 then [55] else []) ++
  (if !(ldExact d) && ldAScaleSrc d && badScale 23 (ldAScale d) then [186] else []) ++
  (if !(ldExact d) && ldWScaleSrc d && badScale 7 (ldWScale d) then [218] else []) ++
  (if ldRotLen d != 0 && ldK d % 2 ^ ldRotLen d != 0 then [0] else []) ++
  (if narrow && badScale 23 (ldOutRscale d) then [390] else []) ++
  (if narrow && ((ldOutZp d != 0 && ldOutFmt d != 3) || (ldOutFmt d = 3 && ldOutZp d ≥ 2 ^ ldOutW d) ||
      (ldOutSym d && (ldOutFmt d != 2 || ldOutW d = 1))) then [376] else []) ++
  (if sp != 0 && (ldMode d = 1 || ldExact d) then [52] else []) ++
  (if sp = 1 && ldGroup d = 0 then [73] else []) ++
  (if sp = 1 && ldK d % 4 != 0 then [0] else []) ++
  (if sp ≥ 2 && z != 0 then [65] else []) ++
  (if sp ≥ 2 && ldArunExt d < 1 + a then [55] else []) ++
  (if sp = 3 && ldWrunExt d < 1 + w then [58] else []) ++
  (ldRanges d).filterMap (fun r => if r.2.1 + r.2.2.1 > storeRows r.1 then some r.2.2.2 else none)

def minPos (l : List Nat) : Option Nat := l.foldl (fun m x => match m with
  | none => some x
  | some y => some (min x y)) none

/-- P-store rows that the layer writes: output rows when `PARTIAL` is clear, spill blocks when `PARTIAL` is set or the
layer can spill (R102, R344). -/
def ldWritten (d : Nat) : List (Nat × Nat) :=
  (if !(ldPartial d) then [(ldOutRow d, if ldOutRing d = 0 then ldROut d * ldTiles d else ldOutRing d)] else []) ++
  (if ldPartial d || ldCanSpill d then [(ldSpillBase d, ldSpillRows d * ldTiles d)] else [])

/-- First row of the ranges that lies in an open hoop of the core (R102). -/
def hoopClash (co : Core) (store : Nat) (rs : List (Nat × Nat)) : Option Nat :=
  (rs.filterMap (fun r =>
    (co.hoops.filterMap (fun e =>
      if e.2.isOpen && e.2.store == store && e.2.base < r.1 + r.2 && r.1 < e.2.base + e.2.rows
      then some (max e.2.base r.1) else none)).head?)).head?

/-- The descriptor check of R344: the fault of the first failing step, for a descriptor at address `addr`. The extent of
every store is the whole store, so step 4 leaves the hoop check. -/
def layerCheck (co : Core) (addr d : Nat) : Option Bad :=
  match minPos (ldStep1 d) with
  | some p => some { code := cLayerField, unit := uPress, addr := addr, detail := p }
  | none =>
    match minPos (ldStep2 d) with
    | some p => some { code := cLayerField, unit := uPress, addr := addr, detail := p }
    | none =>
      if ldMode d = 0 && !(ldExact d) && ldA d + ldW d + (5 + ldGroup d) > 22 then
        some { code := cGroupWidth, unit := uPress, addr := addr, detail := 0 }
      else match hoopClash co 2 (ldWritten d) with
        | some r => some { code := cProt, unit := uPress, addr := scratchAddr co.place 2 r, detail := 0 }
        | none => none

/-! ## Entries (R331, R332) -/

def enKind (e : Nat) : Nat := fld e 124 4
def enSync (e : Nat) : Bool := bitAt e 123

/-- Mask of the bits that the fields of a kind use, KIND and SYNC included (R332). -/
def enMask (kind : Nat) : Nat :=
  let m := fun (hi lo : Nat) => (2 ^ (hi + 1) - 2 ^ lo : Nat)
  m 127 123 |||
  (match kind with
   | 0 => m 31 0
   | 1 => m 47 0
   | 2 => m 100 0
   | 3 => m 95 0
   | 4 => m 111 0
   | 5 => m 35 0
   | 6 => m 48 0
   | 7 => m 80 0
   | 8 => m 51 0
   | 9 => m 3 0
   | 10 => m 25 0
   | 11 => m 71 0
   | 12 => m 66 0
   | 13 => m 50 0
   | 14 => m 47 0
   | _ => 0)

/-- A descriptor or block address: 64-byte aligned, and not in host memory, a hoop or another core's stores (R332). -/
def structAddrOk (co : Core) (align a : Nat) : Bool :=
  a % align == 0 && (region a == 0 || (region a == 1 && fld a 22 10 == co.place))

/-- A row-aligned scratchpad address of the core, and its row range within the store. -/
def ownRows (co : Core) (a n : Nat) : Bool :=
  a % 512 == 0 && (match ownScratch co a with
    | some (st, r) => r + n ≤ storeRows st
    | none => false)

/-- Positions of the fields of an entry that are refused: reserved bits, bits outside its kind's fields, refused values,
misaligned or misplaced addresses (R331, R332, log 16). -/
def enRefused (co : Core) (e : Nat) : List Nat :=
  let k := enKind e
  let bad := fun (b : Bool) (p : Nat) => if b then [p] else []
  bad (k == 15) 124 ++ (lowBit 124 0 (e % 2 ^ 123 &&& ((2 ^ 123 - 1) ^^^ (enMask k % 2 ^ 123)))).toList ++
  (match k with
   | 1 => bad (!(structAddrOk co 64 (fld e 0 48))) 0
   | 2 => bad (!(structAddrOk co 64 (fld e 0 48))) 0 ++ bad (!(structAddrOk co 64 (fld e 48 48))) 48 ++
          bad (fld e 96 4 > 6) 96
   | 3 => bad (fld e 48 12 == 0 || fld e 48 12 > 2048) 48 ++ bad (!(ownRows co (fld e 0 48) 1)) 0 ++
          bad (fld e 92 2 == 3) 92 ++ bad (fld e 92 2 == 0 && fld e 94 2 == 3) 94
   | 4 => bad (!(ownRows co (fld e 0 48) 1)) 0 ++ bad (!(ownRows co (fld e 48 48) 1)) 48 ++
          bad (fld e 96 12 == 0 || fld e 96 12 > 2048) 96 ++ bad (fld e 108 2 == 3) 108 ++ bad (fld e 110 2 == 3) 110
   | 6 => bad (!(ownRows co (fld e 0 48) 1)) 0
   | 7 => bad (region (fld e 0 48) != 3) 0 ++ bad (fld e 65 16 == 0) 65
   | 8 => bad (fld e 4 2 == 3) 4 ++ bad (fld e 17 12 == 0 || fld e 17 12 > 2048) 17 ++ bad (fld e 29 2 == 3) 29 ++
          bad ((fld e 29 2 == 0 && fld e 31 16 > 895) || (fld e 29 2 == 2 && fld e 31 16 > 15)) 31 ++
          bad (fld e 47 3 == 0) 47
   | 10 => bad (fld e 2 2 == 0 && fld e 4 3 == 7) 4 ++ bad (fld e 2 2 ≥ 2 && fld e 15 11 == 2047) 15
   | 11 => bad (fld e 0 48 % 128 != 0 || region (fld e 0 48) != 0) 0
   | 12 => bad (fld e 0 6 == 30 || fld e 0 6 == 31 || fld e 0 6 > 35) 0 ++ bad (fld e 6 3 > 4) 6 ++
           bad (fld e 9 2 == 3) 9
   | 13 => bad (!(structAddrOk co 64 (fld e 0 48)) || (match ownScratch co (fld e 0 48) with
             | some (st, _) => st != 2
             | none => false)) 0 ++ bad (fld e 48 3 > 4) 48
   | 14 => bad (!(structAddrOk co 64 (fld e 0 48))) 0
   | _ => [])

/-- Tests of relations that an entry makes after its single fields pass (R236, R237, R248, R336, R602). -/
def enRelations (co : Core) (e : Nat) : List Nat :=
  match enKind e with
  | 3 => if ownRows co (fld e 0 48) (fld e 48 12) then [] else [0]
  | 4 => (if ownRows co (fld e 0 48) (fld e 96 12) then [] else [0]) ++
         (if ownRows co (fld e 48 48) (fld e 96 12) then [] else [48])
  | 8 =>
    let st := fld e 4 2
    let base := fld e 6 11
    let rows := fld e 17 12
    let radd := bitAt e 48
    let only := fld e 47 3 == 2
    let clash := co.hoops.any (fun h => h.2.isOpen && h.2.store == st && h.2.base < base + rows &&
      base < h.2.base + h.2.rows && !(only && h.2.ops == 2))
    if base + rows > storeRows st then [4]
    else if (tget co.hoops (fld e 0 4) Hoop.reset).isOpen then [0]
    else if radd && st != 2 then [4]
    else if clash then [4] else []
  | 9 => if (tget co.hoops (fld e 0 4) Hoop.reset).isOpen then [] else [0]
  | 12 => if fld e 9 2 != 0 && fld e 0 6 < 32 then [0] else []
  | _ => []

/-- The refusal of an entry, if any: position of the field named. -/
def enCheck (co : Core) (e : Nat) : Option Nat :=
  match minPos (enRefused co e) with
  | some p => some p
  | none => minPos (enRelations co e)

/-! ## Tensor descriptor (R279) -/

def tdBase (d : Nat) : Nat := fld d 0 48
def tdExt (d k : Nat) : Nat := fld d (48 + 24 * k) 24
def tdStride (d k : Nat) : Int := signed 32 (fld d (168 + 32 * k) 32)
def tdNdim (d : Nat) : Nat := fld d 328 3
def tdLayout (d : Nat) : Nat := fld d 331 3
def tdEfmt (d : Nat) : Nat := fld d 334 3
def tdPlanes (d : Nat) : Nat := fld d 337 3 + 1
def tdTagRd (d : Nat) : Nat := fld d 340 2
def tdTagWr (d : Nat) : Nat := fld d 342 2
def tdPerm (d k : Nat) : Nat := fld d (344 + 3 * k) 3
def tdRemote (d : Nat) : Bool := bitAt d 359
def tdModule (d : Nat) : Nat := fld d 360 16
def tdRingFirst (d : Nat) : Nat := fld d 376 11
def tdRingLen (d : Nat) : Nat := fld d 387 11
def tdZrExt (d : Nat) : Nat := fld d 398 11
def tdAux (d : Nat) : Nat := fld d 409 48
def tdFnMode (d : Nat) : Nat := fld d 457 4
def tdPitch (d : Nat) : Nat := fld d 461 24
def tdRows (d : Nat) : Nat := fld d 485 24

/-- Bits of an element (R281). -/
def tdElemBits (d : Nat) : Nat :=
  match tdEfmt d with
  | 0 => 32
  | 1 => 32
  | 2 => 16
  | 3 => 8
  | _ => 1

/-- The store of the core that holds the base, and its row (R291). -/
def tdOwn (co : Core) (d : Nat) : Option (Nat × Nat) := ownScratch co (tdBase d)

end Sys2Proof.Machine
end

