-- ==== Sys2Proof/Machine/Planes.lean ====
section
/-! DEFINITION. The arithmetic of one slice of the Press, as pure functions: plane-pair passes (R46 to R68), 2:4 weights
(R193 to R199), run blocks (R203 to R206, R213), stream mode (R121 to R130), the predictor (R136 to R142) and the
reckoning columns (R104 to R107). -/

namespace Sys2Proof.Machine

/-! ## Plane rows (R50, R51) -/

/-- A plane register's 4,096 bits, from the 512 bytes of a plane row (R54). -/
def planeOf (row : List Byte) : BitVec 4096 := BitVec.ofNat 4096 (leNat row)

/-- The 128 bits of tile row or column `m` in a plane. -/
def lineBits (p : BitVec 4096) (m : Nat) : Nat := fld p.toNat (128 * m) 128

/-- The plane whose lines hold the bits of another's at new places: each pair is a place there and its place here (R209). -/
def gatherPlane (places : List (Nat × Nat)) (p : BitVec 4096) : BitVec 4096 :=
  BitVec.ofNat 4096 (maskOf ((List.range 32).flatMap fun m =>
    places.filterMap fun e => if bitAt (lineBits p m) e.1 then some (128 * m + e.2) else none))

/-- Words of a plane row that the first `ext` rows or columns use (R68, R601). -/
def planeUsed (ext : Nat) : Nat := maskOf (idxs 8 fun w => 4 * w < ext)

/-- A plane weight is negative: the top plane of a signed operand (R47). -/
def planeNeg (kind b i : Nat) : Bool := kind == 0 && i + 1 == b

/-- Pass order of a slice (R58). -/
def passOrder (a w : Nat) : List (Nat × Nat) :=
  ((List.range (a + w - 1)).reverse).flatMap fun s =>
    ((List.range a).reverse).filterMap fun i => if i ≤ s && s - i < w then some (i, s - i) else none

/-- Mask of positions `lo` to `hi - 1`. -/
def posMask (lo hi : Nat) : Nat := if lo < hi then 2 ^ hi - 2 ^ lo else 0

/-- Positions of group `g` of a slice of `n` in-range positions (R60, R66). -/
def groupMask (len n g : Nat) : Nat := posMask (g * len) (min n ((g + 1) * len))

/-- What a slice gives the cells: bits of activation plane `i` for cell (m, n), bits of weight plane `j` of column n, and
the places of each group in these bits, with the number of its in-range positions. -/
structure SliceBits where
  a : Nat
  w : Nat
  aKind : Nat
  wKind : Nat
  cells : List (Nat × Nat)
  groups : List Nat
  lens : List Nat
  aBits : Nat → Nat → Nat → Nat
  wBits : Nat → Nat → Nat

/-- The sign of pass (i, j) (R55). -/
def passSign (b : SliceBits) (i j : Nat) : Int :=
  if planeNeg b.aKind b.a i != planeNeg b.wKind b.w j then -1 else 1

/-- `s × 2^(i+j) × p` of a pass (R55), or `2p − n_g` of the binary-XNOR pass (R56). -/
def passTerm (b : SliceBits) (g : Nat) (m n i j : Nat) : Int :=
  if b.aKind = 2 then
    2 * (popBits 128 (((b.aBits m n i ^^^ b.wBits n j) ^^^ (2 ^ 128 - 1)) &&& g) : Int) - popBits 128 g
  else passSign b i j * (2 ^ (i + j) : Nat) * popBits 128 (b.aBits m n i &&& b.wBits n j &&& g)

/-- The group accumulators, per group and cell, when a slice begins (R60). -/
def accZero (b : SliceBits) : List (List Int) := b.groups.map fun _ => b.cells.map fun _ => 0

/-- One pass adds its term to every cell's accumulator of every group (R55). -/
def passAdd (b : SliceBits) (accs : List (List Int)) (p : Nat × Nat) : List (List Int) :=
  (accs.zip b.groups).map fun e => (e.1.zip b.cells).map fun x => x.1 + passTerm b e.2 x.2.1 x.2.2 p.1 p.2

/-- Group accumulators after a list of passes (R59). -/
def accAfter (b : SliceBits) (ps : List (Nat × Nat)) : List (List Int) := ps.foldl (passAdd b) (accZero b)

/-- Low passes of a slice (R136), the decided passes (R137) and the passes before them. -/
def undecided (a w t : Nat) : List (Nat × Nat) :=
  let ps := passOrder a w
  let high := (ps.filter (fun p => p.1 + p.2 ≥ t)).length
  ps.take (high + min (ps.length - high) 8)

def decided (a w t : Nat) : List (Nat × Nat) := (passOrder a w).drop (undecided a w t).length

/-- H′ of R138: the largest magnitude over the cells inside the extent, shifted right by 5. A group out of range holds 0. -/
def predH (mext next : Nat) (cells : List (Nat × Nat)) (accs : List (List Int)) : Nat :=
  (accs.foldl (fun h g => (g.zip cells).foldl (fun h x =>
    if x.2.1 < mext && x.2.2 < next then max h x.1.natAbs else h) h) 0) >>> 5

/-- Effective thresholds (R139). -/
def skipEff (predSkip q : Nat) : Nat := ((predSkip * (2 + q % 2)) <<< (q / 2)) >>> 1
def skimEff (predSkim q : Nat) : Nat := max 1 ((2 * predSkim) / ((2 + q % 2) <<< (q / 2)))

/-- Outcome of the predictor (R140). -/
inductive PredOutcome where
  | skip | skim | nominal
  deriving DecidableEq, Repr

def predict (d h : Nat) : PredOutcome :=
  if h < skipEff (ldPredSkip d) (ldQuality d) then .skip
  else if ldPredSkim d != 0 && h ≥ skimEff (ldPredSkim d) (ldQuality d) then .skim
  else .nominal

/-- An addition that takes the nearer limit of a 22-bit accumulator (R135). -/
def clamp22 (x : Int) : Int := if x > 2097151 then 2097151 else if x < -2097152 then -2097152 else x

/-- One skim pass: the tree's output p′ of each cell and group is a free value, clamped to the number of the group's in-range
positions (R135, log 6). `base` is the index of the first free value. -/
def skimAdd (b : SliceBits) (base : Nat) (accs : List (List Int)) (p : Nat × Nat) : List (List Int) :=
  (accs.zip b.lens).zipIdx.map fun e => e.1.1.zipIdx.map fun x =>
    clamp22 (x.1 + passSign b p.1 p.2 * (2 ^ (p.1 + p.2) : Nat) *
      (Config.freeNat (base + e.2 * b.cells.length + x.2) % (e.1.2 + 1) : Nat))

/-- What weight plane `j` adds to the column sum of a column over a group: `line` its bits (R64). -/
def colTerm (kind w j line g : Nat) : Int :=
  (if planeNeg kind w j then -1 else 1 : Int) * (2 ^ j : Nat) * popBits 128 (line &&& g)

/-- The group value of R65. -/
def groupValue (z : Nat) (acc colsum : Int) : Int := if z = 0 then acc else acc - z * colsum

/-! ## 2:4 weights (R193 to R196) -/

/-- The mask of quad `y` (0 to 63 of the paired slice) of column `n`, from the two metadata rows (R195). -/
def quadMask (metas : List (List Byte)) (n y : Nat) : Nat :=
  let byte := (nth (nth metas (n / 16) []) (32 * (n % 16) + y / 2) 0).toNat
  if y % 2 = 0 then byte % 16 else byte / 16

/-- Positions of the set bits of a mask, ascending. -/
def maskBits (m : Nat) : List Nat := idxs 4 (bitAt m)

/-- The slots of a column over the in-range quads: (slot position q, K position within the paired slice) of each used
slot (R193, R194). -/
def slotsOf (metas : List (List Byte)) (n quads : Nat) : List (Nat × Nat) :=
  (List.range quads).flatMap fun y =>
    ((maskBits (quadMask metas n y)).take 2).zipIdx.map fun e => (2 * y + e.2, 4 * y + e.1)

/-- A mask with three or four bits set is malformed (R193, R213). -/
def badMask (m : Nat) : Bool := popBits 4 m ≥ 3

/-- Gather the bits of the named positions into slot positions. -/
def gatherBits (slots : List (Nat × Nat)) (bits : Nat) : Nat :=
  slots.foldl (fun acc e => if bitAt bits e.2 then acc ||| (1 <<< e.1) else acc) 0

def slotMask (slots : List (Nat × Nat)) : Nat := slots.foldl (fun acc e => acc ||| (1 <<< e.1)) 0

/-! ## Run blocks (R204, R205, R213) -/

/-- A decoded code row: kept positions, end, `LAST`; or the row of the table of R213 that it breaks. -/
inductive RunBlock where
  | ok (kept : List Nat) (endPos : Nat) (last : Bool)
  | bad (rule : Nat)
  deriving DecidableEq, Repr

/-- Walk the codes with a cursor (R205). -/
def walkCodes : List Nat → Nat → List Nat × Nat
  | [], p => ([], p)
  | c :: cs, p =>
    if c ≤ 62 then
      match walkCodes cs (p + c + 1) with
      | (ks, e) => ((p + c) :: ks, e)
    else walkCodes cs (p + 63)

/-- Decode and check one code row: `k` is the K extent, `start` where the block must begin (R213). -/
def decodeRun (row : List Byte) (k start : Nat) : RunBlock :=
  let base := numAt row 508 4
  let flags := numAt row 507 1
  let nKept := numAt row 506 1
  let nCodes := numAt row 504 2
  let bits := leNat (row.take 504)
  if nKept > 128 || nCodes > 672 then .bad 2
  else
    let codes := (List.range nCodes).map fun u => fld bits (6 * u) 6
    let r := walkCodes codes base
    if r.1.length != nKept then .bad 3
    else if base != start then .bad 4
    else if r.1.any (fun p => p ≥ k) || r.2 > k then .bad 5
    else if (flags % 2 == 0 && r.2 == base) || flags / 2 != 0 then .bad 6
    else .ok r.1 r.2 (flags % 2 == 1)

/-- Words of a code row that its decoding uses (R601). -/
def runUsed (row : List Byte) : Nat :=
  let bytes := cdiv (6 * min 672 (numAt row 504 2)) 8
  maskOf (idxs 8 fun w => w == 7 || 64 * w < bytes)

/-! ## Stream mode (R124 to R129) -/

def stepA (s : Nat) : Nat :=
  let fb := (s >>> 23 ^^^ s >>> 22 ^^^ s >>> 21 ^^^ s >>> 16) % 2
  (2 * s + fb) % 2 ^ 24

def stepW (s : Nat) : Nat :=
  let fb := (s >>> 24 ^^^ s >>> 21) % 2
  (2 * s + fb) % 2 ^ 25

def iter8 (f : Nat → Nat) (s : Nat) : Nat := f (f (f (f (f (f (f (f s)))))))

/-- Initial lane states (R125). -/
def laneInit (seed inc bits : Nat) : List Nat :=
  (List.range 128).map fun k =>
    let x := (seed + k * inc) % 2 ^ bits
    if x = 0 then 1 else x

/-- The code of an element from its stored pattern (R128). -/
def streamCode (sgn : Bool) (b pat : Nat) : Nat := if sgn then pat ^^^ (1 <<< (b - 1)) else pat

/-- The pattern of position k of a line from its planes. -/
def linePattern (planes : List Nat) (k : Nat) : Nat :=
  planes.zipIdx.foldl (fun acc e => if bitAt e.1 k then acc + (1 <<< e.2) else acc) 0

/-- Codes of the first `n` positions of a line. -/
def lineCodes (sgn : Bool) (b n : Nat) (planes : List Nat) : List Nat :=
  (List.range n).map fun k => streamCode sgn b (linePattern planes k)

/-- Stream bits of a line in one cycle, given the comparison values of the lanes (R128). -/
def streamBits (b : Nat) (codes lanes : List Nat) : Nat :=
  ((codes.zip lanes).zipIdx).foldl (fun acc e =>
    if (e.1.2 % 256) >>> (8 - b) < e.1.1 then acc ||| (1 <<< e.2) else acc) 0

/-- `L` stream cycles: counts of the cells and the lane states after them (R126, R129). -/
def streamRun (bip : Bool) (a w n : Nat) (aCodes wCodes : List (List Nat)) (cells : List (Nat × Nat)) :
    Nat → List Nat → List Nat → List Nat → List Nat × List Nat × List Nat
  | 0, la, lw, counts => (counts, la, lw)
  | k + 1, la, lw, counts =>
    let la' := la.map (iter8 stepA)
    let lw' := lw.map (iter8 stepW)
    let ab := aCodes.map fun cs => streamBits a cs la'
    let wb := wCodes.map fun cs => streamBits w cs lw'
    let g := posMask 0 n
    let counts' := (counts.zip cells).map fun e =>
      let x := nth ab e.2.1 0
      let y := nth wb e.2.2 0
      e.1 + popBits 128 (if bip then (x ^^^ y ^^^ (2 ^ 128 - 1)) &&& g else x &&& y &&& g)
    streamRun bip a w n aCodes wCodes cells k la' lw' counts'

/-! ## Reckoning cells (R104, R106, R107) -/

/-- An addition to a reckoning cell: its value, its saturated bit, and whether it saturates now. -/
def reckAdd (v : Int) (sat : Bool) (x : Int) : Int × Bool × Bool :=
  if sat then (v, true, false)
  else
    let r := satInt32 (v + x)
    (r.1, r.2, r.2)

/-- Additions to a reckoning cell in order; whether the cell saturates in them. -/
def reckRun : List Int → Int → Bool → Int × Bool × Bool
  | [], v, sat => (v, sat, false)
  | x :: xs, v, sat =>
    let r := reckAdd v sat x
    let q := reckRun xs r.1 r.2.1
    (q.1, q.2.1, r.2.2 || q.2.2)

end Sys2Proof.Machine
end

