-- ==== Sys2Proof/Machine/Points.lean ====
section
/-! DEFINITION. The operating points of a compute die (R511), numbered as R521 numbers them: 0 to 4 for P0 to P4, 5 for
PX. -/

namespace Sys2Proof.Machine

/-- Core and mesh clock in MHz. -/
def pointMhz (p : Nat) : Nat :=
  match p with
  | 0 => 1600
  | 1 => 1400
  | 2 => 1100
  | 3 => 800
  | 4 => 400
  | _ => 1750

/-- Die voltage in mV. -/
def pointMv (p : Nat) : Nat :=
  match p with
  | 0 => 850
  | 1 => 780
  | 2 => 700
  | 3 => 620
  | 4 => 550
  | _ => 850

/-- Phases needed at full load. -/
def pointPhases (p : Nat) : Nat :=
  match p with
  | 0 => 12
  | 1 => 10
  | 2 => 7
  | 3 => 5
  | 4 => 3
  | _ => 13

/-- Cycles of a skim rail switch (R141). -/
def pointTsw (p : Nat) : Nat :=
  match p with
  | 0 => 39
  | 1 => 34
  | 2 => 27
  | 3 => 20
  | 4 => 10
  | _ => 42

/-- Rank by speed: 0 is the fastest, PX. -/
def speedRank (p : Nat) : Nat := if p ≥ 5 then 0 else p + 1

/-- The point one step slower; P4 has none slower. -/
def slower (p : Nat) : Nat := if p ≥ 5 then 0 else if p ≥ 4 then 4 else p + 1

/-- The point one step faster; PX has none faster. -/
def faster (p : Nat) : Nat := if p = 0 || p ≥ 5 then 5 else p - 1

/-- The slower of two points. -/
def slowest (p q : Nat) : Nat := if speedRank p < speedRank q then q else p

/-- The faster of two points. -/
def fastest (p q : Nat) : Nat := if speedRank p < speedRank q then p else q

/-- Nominal point and bin ceiling of a bin: 0 is L14, 1 is L16 (R511). -/
def nominalPoint (bin : Nat) : Nat := if bin = 1 then 0 else 1
def binCeiling (bin : Nat) : Nat := if bin = 1 then 5 else 0

/-- The fastest point whose phases needed do not exceed the live phases; P4 when none fits (R512, R537). -/
def phasePoint (live : Nat) : Nat :=
  if live ≥ 13 then 5 else if live ≥ 12 then 0 else if live ≥ 10 then 1 else if live ≥ 7 then 2
  else if live ≥ 5 then 3 else 4

/-- A skim outcome may run on the skim rail: settled, at least 0.05 V below the die's point, no transition (R133, R134). -/
def skimAllowed (d : Die) : Bool :=
  !d.skimSettling && !d.power.inChange && d.skimMv + 50 ≤ pointMv d.power.point

end Sys2Proof.Machine
end

