-- ==== Sys2Proof/Machine/Press.lean ====
section
/-! DEFINITION. The Press and the merge unit: what a running layer does at each of its computing steps. Within a layer the model
takes the steps of R54 to R74 one after another, where the hardware overlaps them (log 89): as a slice begins, the rows of the
next slice are loaded as far as they are full; then come its passes; then the promotions of its groups, each with the spill that
follows it; then the rest of the next slice's rows. -/

namespace Sys2Proof.Machine

/-- What a step of an operation gives: it goes on, waits, or faults. -/
inductive Mid where
  | ok (s : State) (j : Job)
  | wait (s : State) (j : Job) (w : Wait)
  | fault (s : State) (j : Job) (b : Bad)

/-- What a part of a step gives: a value, a wait with what has been done so far, or a fault. -/
inductive Part (α : Type) where
  | ok (s : State) (a : α)
  | wait (s : State) (a : α) (w : Wait)
  | fault (s : State) (b : Bad)

/-- The wait that a row of the core's stores would meet now (R99, R242). -/
def rowWait (s : State) (w : Who) (mode : RdMode) (st r : Nat) : Option Wait :=
  let row := storeRow w.core st r
  let addr := scratchAddr (getCore s w.core).place st r
  if heldByOther (getCore s w.core) row w.unit w.idx then some { kind := .hold, addr := addr }
  else if mode != .raw && !(isFull s row) && !(heldBySelf (getCore s w.core) row w.unit w.idx) then
    some { kind := .tag, addr := addr }
  else none

def setPress (j : Job) (p : PressWork) : Job := { j with work := { j.work with press := p } }

def modStats (s : State) (c : Nat) (f : Stats → Stats) : State := modCore s c fun co => { co with stats := f co.stats }

def modRegs (s : State) (c : Nat) (f : PressRegs → PressRegs) : State := modCore s c fun co => { co with regs := f co.regs }

/-- Cells of `m` rows and `n` columns, row-major. -/
def cellList (m n : Nat) : List (Nat × Nat) := (List.range m).flatMap fun i => (List.range n).map fun k => (i, k)

/-- Every cell of the Press works in every tile (R68): the 32 × 32 cells, or the 32 × 4 reckoning cells (R104). -/
def ldCells (d : Nat) : List (Nat × Nat) := if ldExact d then cellList 32 4 else cellList 32 32

/-! ## Plan (R71, R72) -/

/-- Slices of a tile, or one more than the blocks that its run extent can hold: the last finds the end of the extent (R213). -/
def pressUnits (d : Nat) : Nat :=
  match ldSparse d with
  | 2 => ldArunExt d / (1 + ldA d) + 1
  | 3 => cdiv (ldK d) 128 + 1
  | _ => ldSlices d

/-- Slices count over the layer: the tile and the slice within the tile of number `u`. -/
def unitTile (d u : Nat) : Nat := u / pressUnits d
def unitSlice (d u : Nat) : Nat := u % pressUnits d

/-- Groups that one slice promotes at most. -/
def pressGroups (d : Nat) : Nat :=
  if ldExact d then 0 else if ldSparse d = 1 then 256 / ldG d else 128 / ldG d

/-- A spill: the values are taken, then the eight rows are written. -/
def spillPlan : List Micro := (List.range 9).map fun k => .calc .pressSpill k

def pressTilePlan (d t : Nat) : List Micro :=
  [.calc .pressTile t] ++
  (List.range (pressUnits d)).flatMap (fun u =>
    [.calc .pressLoad (t * pressUnits d + u)] ++ spillPlan ++
    [.calc .pressSlice (t * pressUnits d + u), .calc .pressRail 0, .calc .pressRail 1] ++
    (List.range (pressGroups d)).flatMap (fun g => [.calc .pressPromote g] ++ spillPlan)) ++
  (List.range (ldSpillRows d)).map (fun r => .calc .pressOutRead r) ++
  [.calc .pressRelease t, .calc .pressOut t] ++
  (List.range (ldROut d)).map (fun k => .wrOut k .put)

def pressPlan (d : Nat) : List Micro :=
  (List.range (ldTiles d)).flatMap (pressTilePlan d) ++ [.calc .pressEnd 0]

/-! ## Start of a layer (R49, R125, R127, R144, R187, R345) -/

/-- Clear the layer statistics at the start of a run-layer entry (R104, R108, R144, R171, R187). -/
def clearStats (st : Stats) (d : Nat) : Stats :=
  { st with predNominal := 0, predSkim := 0, predSkip := 0, skimNominal := 0, conv := 0, clip := 0, nan := 0,
            rotLen := ldRotLen d, layerTag := ldTag d,
            satFlag := if ldExact d then [false, false, false, false] else st.satFlag,
            satCount := if ldExact d then [0, 0, 0, 0] else st.satCount }

/-- The descriptor of a layer is read. -/
def pressRead (s : State) (w : Who) (j : Job) : Mid :=
  if j.work.press.descRead then .ok s j
  else match readBlock s w (fld j.entry 0 48) 64 with
  | .wait x => .wait s j x
  | .fault s b => .fault s j b
  | .ok s bs => .ok s (setPress { j with descA := leNat bs, tag := ldTag (leNat bs) } { j.work.press with descRead := true })

/-- The 8 descriptor cycles: statistics clear, the descriptor is checked, the stream lanes load. -/
def pressCheck (s : State) (w : Who) (j : Job) : Mid :=
  let d := j.descA
  let s := modStats s w.core (fun st => clearStats st d)
  match layerCheck (getCore s w.core) (fld j.entry 0 48) d with
  | some b => .fault s j b
  | none =>
    let drawn := takeFree s
    let draw := ldMode d == 2 && ldSeedSrc d
    let s := if draw then drawn.2 else s
    let seedA := if draw then drawn.1 % 2 ^ 24 else ldSeedA d
    let seedW := if draw then drawn.1 / 2 ^ 24 % 2 ^ 25 else ldSeedW d
    let s := if ldMode d = 2 then
        modCore s w.core fun co =>
          { co with lanesA := laneInit seedA 0x9E3779 24, lanesW := laneInit seedW 0x13C6EF3 25,
                    stats := { co.stats with seedA := seedA, seedW := seedW } }
      else s
    .ok s (setPress { j with micros := pressPlan d }
      { j.work.press with reproducible := s.reproducible, seedA := seedA, seedW := seedW, skimFailed := false })

/-- The layer starts. -/
def pressStart (s : State) (w : Who) (j : Job) : Mid :=
  match pressRead s w j with
  | .ok s j => pressCheck s w j
  | x => x

/-! ## Scales (R53, R75, R158) -/

/-- Weight scale rows of the layer in the order of use, eight groups to a row: P-store row and words used. Number `q` counts over
the tiles. -/
def wScalePerTile (d : Nat) : Nat := if ldSparse d ≥ 2 then 1 else cdiv (ldGroups d) 8
def wScaleRow (d q : Nat) : Nat × Nat :=
  let r := wScalePerTile d
  let n := if ldSparse d ≥ 2 then 1 else ldGroups d
  (ldWScaleRow d + ldTileN d (q / r) * r + q % r, maskOf (idxs 8 fun x => 8 * (q % r) + x < n))

/-- Activation scale row of a tile, four M tiles to a row: P-store row and words used. -/
def aScaleRow (d t : Nat) : Nat × Nat :=
  let x := ldTileM d t / 4
  (ldAScaleRow d + x, maskOf (idxs 8 fun y => 128 * x + 16 * y < ldM d))

/-- The next tile after `t` that takes another activation scale row. -/
def aScaleNext (d t : Nat) : Option Nat :=
  let t' := min (t + 4 - ldTileM d t % 4) ((ldTileN d t + 1) * ldTilesM d)
  if t' < ldTiles d && ldTileM d t' / 4 != ldTileM d t / 4 then some t' else none

/-- Weight scale rows for the `q`-th use and the two ahead; the first is needed when `must`. -/
def wScaleWant (d q : Nat) (must : Bool) : List (Nat × Nat × Bool) :=
  if ldExact d || ldWScaleSrc d then []
  else ((List.range 3).filter fun k => q + k < ldTiles d * wScalePerTile d).map fun k =>
    ((wScaleRow d (q + k)).1, (wScaleRow d (q + k)).2, must && k == 0)

/-- Activation scale rows for tile `t` and the two ahead. -/
def aScaleWant (d t : Nat) (must : Bool) : List (Nat × Nat × Bool) :=
  if ldExact d || ldAScaleSrc d then []
  else
    let n1 := aScaleNext d t
    let n2 := n1.bind (aScaleNext d)
    [((aScaleRow d t).1, (aScaleRow d t).2, must)] ++
      ((n1.toList ++ n2.toList).map fun u => ((aScaleRow d u).1, (aScaleRow d u).2, false))

/-- Read scale rows that are not in the buffer; a row that is not needed yet and has to wait is left for later (R75, R246). -/
def readScales (w : Who) : List (Nat × Nat × Bool) → State → Tbl (List Byte) → Part (Tbl (List Byte))
  | [], s, t => .ok s t
  | (row, used, must) :: rest, s, t =>
    if (tget? t row).isSome then readScales w rest s t
    else match readLoc s w (.own 2 row) .peek used with
      | .ok s data => readScales w rest s (tput t row data)
      | .wait x => if must then .wait s t x else .ok s t
      | .fault s b => .fault s b

/-- Keep the rows wanted and read those missing: weight scale rows for use `q`, activation scale rows for tile `t`. -/
def pressScales (s : State) (w : Who) (j : Job) (q t : Nat) (must : Bool) : Mid :=
  let d := j.descA
  let pw := j.work.press
  let ww := wScaleWant d q must
  let aw := aScaleWant d t must
  match readScales w ww s (pw.wScales.filter fun e => ww.any fun x => x.1 == e.1) with
  | .fault s b => .fault s j b
  | .wait s t' x => .wait s (setPress j { pw with wScales := t' }) x
  | .ok s t' =>
    let pw := { pw with wScales := t' }
    match readScales w aw s (pw.aScales.filter fun e => aw.any fun x => x.1 == e.1) with
    | .fault s b => .fault s j b
    | .wait s t' x => .wait s (setPress j { pw with aScales := t' }) x
    | .ok s t' => .ok s (setPress j { pw with aScales := t' })

/-! ## Tiles -/

/-- A tile begins: F24 accumulators +0, or reckoning cells 0 with clear saturated bits (R84, R107); the scale rows of its first
promotion are fetched ahead (R75). -/
def pressTile (s : State) (w : Who) (j : Job) (t : Nat) : Mid :=
  let d := j.descA
  let s := modRegs s w.core fun r =>
    if ldExact d then { r with reck := List.replicate 128 0, satBits := List.replicate 128 false }
    else { r with f24 := List.replicate 1024 0 }
  pressScales s w (setPress j { j.work.press with
    tile := t, promoted := 0, spillDue := false, follows := false, spilling := false, spilled := false, back := [] })
    (t * wScalePerTile d) t false

/-! ## The load of a slice (R54, R64, R195, R209, R210) -/

/-- Words of a plane row that the columns or rows of a tile use. -/
def wUsed (d t : Nat) : Nat := planeUsed (ldNExt d t)
def aUsed (d t : Nat) : Nat := planeUsed (ldMExt d t)

/-- In-range quads of a paired slice of `n` positions (R199), and the slots of a column. -/
def loadSlots (l : PressLoad) (col : Nat) : List (Nat × Nat) := slotsOf l.metas col (l.n / 4)

/-- The four groups of a slice as masks of places in its planes: positions (R60), or slots in a 2:4 layer (R198). -/
def loadGroups (d : Nat) (l : PressLoad) : List Nat :=
  (List.range 4).map fun g =>
    if ldSparse d = 1 then (if g * ldG d < l.n then posMask (g * (ldG d / 2)) ((g + 1) * (ldG d / 2)) else 0)
    else groupMask (ldG d) l.n g

/-- In-range positions of each group (R66, R135). -/
def groupLens (d : Nat) (l : PressLoad) : List Nat := (List.range 4).map fun g => min (ldG d) (l.n - g * ldG d)

/-- Places of a column whose weight bits count: those of used slots in a 2:4 layer (R193, R199). -/
def colPlaces (d : Nat) (l : PressLoad) (col : Nat) : Nat :=
  if ldSparse d = 1 then slotMask (loadSlots l col) else 2 ^ 128 - 1

/-- The set of plane registers that is not in use. -/
def idleSet (r : PressRegs) : Nat := 1 - r.planeSet

/-- The column sums of a slice after the bits `p` of weight plane `k` have come (R64). -/
def sumPlane (d : Nat) (l : PressLoad) (k : Nat) (p : BitVec 4096) (sums : List (List Int)) : List (List Int) :=
  (sums.zip (loadGroups d l)).map fun e => e.1.zipIdx.map fun x =>
    x.1 + colTerm (ldWKind d) (ldW d) k (lineBits p x.2 &&& colPlaces d l x.2) e.2

/-- A weight plane, or bits of one, comes into the idle set, and into its column sums. -/
def landPlane (d : Nat) (l : PressLoad) (k : Nat) (p : BitVec 4096) (join : Bool) (r : PressRegs) : PressRegs :=
  let i := idleSet r
  let set := nth r.planes i []
  { r with
    planes := setNth r.planes i (setNth set k (if join then nth set k 0 ||| p else p)),
    colSums := setNth r.colSums i (sumPlane d l k p (nth r.colSums i [])) }

/-- The load of a slice begins: the column sums of the idle set are 0, and its planes too when bits are gathered into them. -/
def clearIdle (gather : Bool) (r : PressRegs) : PressRegs :=
  let i := idleSet r
  { r with
    planes := if gather then setNth r.planes i (List.replicate 8 0) else r.planes,
    colSums := setNth r.colSums i (List.replicate 4 (List.replicate 32 0)) }

/-- The first column of a metadata row, inside the N extent, in which a mask of an in-range quad is malformed (R213). -/
def badColumn (d t : Nat) (l : PressLoad) (r : Nat) : Option Nat :=
  (idxs 16 fun x => 16 * r + x < ldNExt d t && (List.range (l.n / 4)).any fun y =>
    badMask (quadMask l.metas (16 * r + x) y)).head?

/-- A row of the load has been read. -/
def landRow (s : State) (c d : Nat) (l : PressLoad) (dest : LoadDest) (data : List Byte) : State × PressLoad :=
  let p := planeOf data
  match dest with
  | .weight k => (modRegs s c (landPlane d l k p false), l)
  | .gatherW k ps => (modRegs s c (landPlane d l k (gatherPlane ps p) true), l)
  | .act _ => (s, { l with acts := l.acts ++ [p] })
  | .gatherA i ps => (s, { l with acts := setNth l.acts i (nth l.acts i 0 ||| gatherPlane ps p) })
  | .metadata _ => (s, { l with metas := l.metas ++ [data] })

/-- A metadata row is checked as it is loaded (R213). -/
def landFault (s : State) (c d : Nat) (l : PressLoad) (r : LoadRow) : Option Bad :=
  match r.dest with
  | .metadata x =>
    (badColumn d (unitTile d l.unit) l x).map fun _ =>
      { code := cSparse, unit := uPress, detail := 1, addr := scratchAddr (getCore s c).place r.store r.row }
  | _ => none

/-- `FR_UNIT` of a load's read: the merge unit reads what it gathers (R209). -/
def loadUnitOf : LoadDest → Nat
  | .gatherW _ _ => uMerge
  | .gatherA _ _ => uMerge
  | _ => uPress

/-- Read the rows of a load in order, up to the first that has to wait (R246). -/
def loadRows (w : Who) (d : Nat) : List LoadRow → State → PressLoad → Part PressLoad
  | [], s, l => .ok s { l with todo := [] }
  | r :: rest, s, l =>
    match readLoc s w (.own r.store r.row) .peek r.used with
    | .wait x => .wait s { l with todo := r :: rest } x
    | .fault s b => .fault s { b with unit := loadUnitOf r.dest }
    | .ok s data =>
      let n := landRow s w.core d l r.dest data
      match landFault n.1 w.core d n.2 r with
      | some b => .fault n.1 b
      | none => loadRows w d rest n.1 n.2

/-- Rows of a slice whose operands need no decoding: metadata and weight plane rows, and the activation plane rows that a stream
slice keeps (R131). -/
def plainLoad (d : Nat) (l : PressLoad) : PressLoad :=
  let t := unitTile d l.unit
  let u := unitSlice d l.unit
  let weights := (List.range (ldW d)).map fun k =>
    ({ store := 0, row := ldWRowOf d t u k, used := wUsed d t, dest := .weight k } : LoadRow)
  let metas := (List.range 2).map fun r =>
    let used := maskOf (idxs 8 fun x => 16 * r + 2 * x < ldNExt d t)
    ({ store := 0, row := ldMetaRowOf d t u r, used := used, dest := .metadata r } : LoadRow)
  let acts := (List.range (ldA d)).map fun i =>
    ({ store := 1, row := ldARowOf d t u i, used := aUsed d t, dest := .act i } : LoadRow)
  if ldSparse d = 1 then { l with begun := true, n := ldIn d (2 * u) + ldIn d (2 * u + 1), todo := metas ++ weights }
  else { l with begun := true, n := ldIn d u, todo := weights ++ (if ldMode d = 2 then acts else []) }

/-! ### The merge unit (R209, R210, R213) -/

/-- A run block read at a cursor: its kept positions, or the fault that its metadata raises. -/
inductive BlockRead where
  | ok (s : State) (cur : RunCursor) (kept : List Nat) (first : Nat)
  | wait (s : State) (cur : RunCursor) (w : Wait)
  | fault (s : State) (b : Bad)

/-- Read and check the next code row of a run extent: `base` its first row, `ext` its rows, `b` the operand's width. -/
def readBlockRow (s : State) (w : Who) (store base ext b k : Nat) (cur : RunCursor) : BlockRead :=
  let addr := scratchAddr (getCore s w.core).place store (base + cur.used)
  if cur.used + 1 + b > ext then .fault s { code := cSparse, unit := uMerge, addr := addr, detail := 7 }
  else
    match rowWait s w .peek store (base + cur.used) with
    | some x => .wait s cur x
    | none =>
      let raw := rdBytes s (storeRow w.core store (base + cur.used) * 512) 512
      match readLoc s w (.own store (base + cur.used)) .peek (runUsed raw) with
      | .wait x => .wait s cur x
      | .fault s bad => .fault s { bad with unit := uMerge }
      | .ok s row =>
        match decodeRun row k cur.endPos with
        | .bad rule => .fault s { code := cSparse, unit := uMerge, addr := addr, detail := rule }
        | .ok kept e last =>
          .ok s { cur with used := cur.used + 1 + b, endPos := e, done := last } kept cur.used

/-- First rows of the run extents of a tile (R206). -/
def runBaseA (d t : Nat) : Nat := ldArunRow d + ldTileM d t * ldArunExt d
def runBaseW (d t : Nat) : Nat := ldMetaRow d + ldTileN d t * ldWrunExt d

/-- Places of the pairs of a list, compact, whose first number picks the row: (place in the row, compact place). -/
def placesIn (l : List (Nat × Nat)) (row : Nat) : List (Nat × Nat) :=
  l.zipIdx.filterMap fun e => if e.1.1 == row then some (e.1.2, e.2) else none

/-- The next run block of a kind 2 layer: dense weight rows are gathered at its kept positions (R209). -/
def runLoad (s : State) (w : Who) (d : Nat) (l : PressLoad) : Part PressLoad :=
  let t := unitTile d l.unit
  match readBlockRow s w 1 (runBaseA d t) (ldArunExt d) (ldA d) (ldK d) l.runA with
  | .wait s cur x => .wait s { l with runA := cur } x
  | .fault s b => .fault s b
  | .ok s cur kept first =>
    let spots := kept.map fun p => (p / 128, p % 128)
    .ok (modRegs s w.core (clearIdle true)) { l with
      begun := true, runA := cur, n := kept.length, first := first,
      todo := (spots.map (·.1)).dedup.flatMap fun u => (List.range (ldW d)).map fun k =>
        { store := 0, row := ldWRowOf d t u k, used := wUsed d t, dest := .gatherW k (placesIn spots u) } }

/-- Refill a stream of kept positions while it is empty and its last block has not been taken. -/
def refill (w : Who) (store base ext b k : Nat) : Nat → State → RunCursor → BlockRead
  | 0, s, cur => .ok s cur [] 0
  | fuel + 1, s, cur =>
    if !cur.pend.isEmpty || cur.done then .ok s cur [] 0
    else match readBlockRow s w store base ext b k cur with
      | .wait s cur x => .wait s cur x
      | .fault s bad => .fault s bad
      | .ok s cur' kept first =>
        refill w store base ext b k fuel s { cur' with pend := kept.zipIdx.map fun e => (e.1, first, e.2) }

/-- The merge of two ascending streams until 128 positions match or a stream ends (R210). -/
def mergeRun (w : Who) (d t : Nat) : Nat → State → PressLoad → Part PressLoad
  | 0, s, l => .ok s l
  | fuel + 1, s, l =>
    if l.matched.length ≥ 128 then .ok s l
    else
      match refill w 1 (runBaseA d t) (ldArunExt d) (ldA d) (ldK d) (ldArunExt d + 1) s l.runA with
      | .wait s ca x => .wait s { l with runA := ca } x
      | .fault s b => .fault s b
      | .ok s ca _ _ =>
        match refill w 0 (runBaseW d t) (ldWrunExt d) (ldW d) (ldK d) (ldWrunExt d + 1) s l.runW with
        | .wait s cw x => .wait s { l with runA := ca, runW := cw } x
        | .fault s b => .fault s b
        | .ok s cw _ _ =>
          match ca.pend, cw.pend with
          | (p, fa, qa) :: pa, (q, fw, qw) :: pw =>
            if p = q then
              mergeRun w d t fuel s { l with runA := { ca with pend := pa }, runW := { cw with pend := pw },
                                             matched := l.matched ++ [((fa, qa), (fw, qw))] }
            else if p < q then mergeRun w d t fuel s { l with runA := { ca with pend := pa }, runW := cw }
            else mergeRun w d t fuel s { l with runA := ca, runW := { cw with pend := pw } }
          | _, _ => .ok s { l with runA := ca, runW := cw }

/-- The next merged block of a kind 3 layer: both operands are gathered at its matched positions (R210). -/
def mergeLoad (s : State) (w : Who) (d : Nat) (l : PressLoad) : Part PressLoad :=
  let t := unitTile d l.unit
  match mergeRun w d t (2 * ldK d + 4) s l with
  | .wait s l x => .wait s l x
  | .fault s b => .fault s b
  | .ok s l =>
    let am := l.matched.map (·.1)
    let wm := l.matched.map (·.2)
    .ok (modRegs s w.core (clearIdle true)) { l with
      begun := true, n := l.matched.length, acts := List.replicate (ldA d) 0,
      todo :=
        ((am.map (·.1)).dedup.flatMap fun f => (List.range (ldA d)).map fun i =>
          { store := 1, row := runBaseA d t + f + 1 + i, used := aUsed d t, dest := .gatherA i (placesIn am f) }) ++
        ((wm.map (·.1)).dedup.flatMap fun f => (List.range (ldW d)).map fun k =>
          { store := 0, row := runBaseW d t + f + 1 + k, used := wUsed d t, dest := .gatherW k (placesIn wm f) }) }

/-! ### Loading -/

/-- The tile of a load has no further block (R205, R210). -/
def blocksEnd (d : Nat) (l : PressLoad) : Bool :=
  let ended := fun (c : RunCursor) => c.done && c.pend.isEmpty
  match ldSparse d with
  | 2 => ended l.runA
  | 3 => ended l.runA || ended l.runW
  | _ => false

/-- A load not begun whose tile has no further block goes on to the next tile: blocks follow one another across tiles (R211). -/
def skipEnd (d : Nat) (l : PressLoad) : PressLoad :=
  if !l.begun && blocksEnd d l then { PressLoad.reset with unit := (unitTile d l.unit + 1) * pressUnits d } else l

/-- Load as far as no row has to wait. -/
def loadUnit (s : State) (w : Who) (d : Nat) (l : PressLoad) : Part PressLoad :=
  if l.unit ≥ ldTiles d * pressUnits d then .ok s l
  else
    match (if l.begun then Part.ok s l
      else match ldSparse d with
        | 2 => runLoad s w d l
        | 3 => mergeLoad s w d l
        | _ => .ok (modRegs s w.core (clearIdle false)) (plainLoad d l)) with
    | .ok s l => loadRows w d l.todo s l
    | x => x

/-- The load after slice `l`. -/
def loadAfter (d : Nat) (l : PressLoad) : PressLoad :=
  skipEnd d (if unitSlice d (l.unit + 1) = 0 then { PressLoad.reset with unit := l.unit + 1 }
    else { PressLoad.reset with unit := l.unit + 1, runA := l.runA, runW := l.runW })

/-- The load of slice `u` is finished and its plane registers become the set in use; the filling set of the accumulators is cleared
(R54, R60). A block that the tile does not have has no position. -/
def pressLoad (s : State) (w : Who) (j : Job) (u : Nat) : Mid :=
  let d := j.descA
  let pw := j.work.press
  if pw.next.unit > u then .ok s (setPress j { pw with cur := { PressLoad.reset with unit := u } })
  else
    match loadUnit s w d pw.next with
    | .wait s l x => .wait s (setPress j { pw with next := l }) x
    | .fault s b => .fault s j b
    | .ok s l =>
      .ok (modRegs s w.core fun r =>
          { r with planeSet := idleSet r,
                   acc := setNth r.acc r.fillSet (List.replicate 4 (List.replicate 1024 0)) })
        (setPress j { pw with cur := l, next := loadAfter d l, pass := 0, low := .undecided, rail := false,
                              follows := pw.follows || l.n != 0 })

/-- The next slice is loaded while this one runs, as far as its rows are full (R54, R211). -/
def loadAhead (s : State) (w : Who) (j : Job) : Mid :=
  let pw := j.work.press
  match loadUnit s w j.descA pw.next with
  | .ok s l => .ok s (setPress j { pw with next := l })
  | .wait s l _ => .ok s (setPress j { pw with next := l })
  | .fault s b => .fault s j b

/-! ## Passes (R55 to R59, R106, R135 to R145) -/

/-- Activation rows that a pass of plane `i` reads: key in the buffer, store, row, words used. -/
def actRows (d : Nat) (l : PressLoad) (i : Nat) : List (Nat × Nat × Nat × Nat) :=
  let t := unitTile d l.unit
  let u := unitSlice d l.unit
  match ldSparse d with
  | 0 => [(0, 1, ldARowOf d t u i, aUsed d t)]
  | 1 => (0, 1, ldARowOf d t (2 * u) i, aUsed d t) ::
      (if ldIn d (2 * u + 1) = 0 then [] else [(1, 1, ldARowOf d t (2 * u + 1) i, aUsed d t)])
  | 2 => [(0, 1, runBaseA d t + l.first + 1 + i, aUsed d t)]
  | _ => []

/-- Read rows into the operation's buffer, in order; those already there are kept (R246). -/
def readKeep (w : Who) : List (Nat × Nat × Nat × Nat) → State → Job → Mid
  | [], s, j => .ok s j
  | (n, st, r, used) :: rest, s, j =>
    if (tget? j.work.buf n).isSome then readKeep w rest s j
    else match readLoc s w (.own st r) .peek used with
      | .wait x => .wait s j x
      | .fault s b => .fault s j b
      | .ok s data => readKeep w rest s { j with work := { j.work with buf := tput j.work.buf n data } }

/-- What pass (i, _) of the running slice gives the cells: activation bits from the rows just read, or from the planes that the load
kept (R210), weight bits from the plane registers in use. -/
def passBits (r : PressRegs) (j : Job) (i : Nat) : SliceBits :=
  let d := j.descA
  let l := j.work.press.cur
  let row := fun (k : Nat) => planeOf (tget j.work.buf k [])
  let slots := (List.range 32).map (loadSlots l)
  { a := ldA d, w := ldW d, aKind := ldAKind d, wKind := ldWKind d, cells := ldCells d, groups := loadGroups d l,
    lens := groupLens d l,
    aBits := fun m n _ =>
      match ldSparse d with
      | 1 => gatherBits (nth slots n []) (lineBits (row 0) m + (lineBits (row 1) m <<< 128))
      | 3 => lineBits (nth l.acts i 0) m
      | _ => lineBits (row 0) m,
    wBits := fun n k => lineBits (nth (nth r.planes r.planeSet []) k 0) n &&&
      (if ldSparse d = 1 then slotMask (nth slots n []) else 2 ^ 128 - 1) }

/-- Additions to the reckoning cells, one a cell; saturating ones set the column's flag and count (R106, R107). -/
def reckAll (s : State) (c : Nat) (add : Nat → Nat → Int) : State :=
  let r := (getCore s c).regs
  let res := ((r.reck.zip r.satBits).zip (cellList 32 4)).map fun e => (reckAdd e.1.1 e.1.2 (add e.2.1 e.2.2), e.2.2)
  let hits := fun (col : Nat) => (res.filter (fun x => x.1.2.2 && x.2 == col)).length
  modStats (modRegs s c fun r => { r with reck := res.map (·.1.1), satBits := res.map (·.1.2.1) }) c fun st =>
    { st with satFlag := st.satFlag.zipIdx.map (fun e => e.1 || hits e.2 != 0),
              satCount := st.satCount.zipIdx.map (fun e => satAdd 16 e.1 (hits e.2)) }

/-- One pass, its activation rows read: into the reckoning cells, or into the filling set of the accumulators, exactly or as a skim
pass. -/
def onePass (s : State) (c : Nat) (j : Job) (p : Nat × Nat) : State :=
  let b := passBits (getCore s c).regs j p.1
  if ldExact j.descA then reckAll s c fun m n => passTerm b (posMask 0 j.work.press.cur.n) m n p.1 p.2
  else
    let skim := j.work.press.low == .skim
    let base := s.freeCtr
    let s := if skim then { s with freeCtr := base + 4096 } else s
    modRegs s c fun r =>
      let accs := nth r.acc r.fillSet []
      { r with acc := setNth r.acc r.fillSet (if skim then skimAdd b base accs p else passAdd b accs p) }

/-- A skim outcome runs on the skim rail: the rail may be used (R134), no switch down of the layer has failed (R143), and the
decided passes are as many as the switch takes (R141). -/
def railTaken (s : State) (c : Nat) (pw : PressWork) (n : Nat) : Bool :=
  let die := getDie s (dieOf c)
  skimAllowed die && !pw.skimFailed && n ≥ pointTsw die.power.point

/-- Before the first decided pass the predictor takes its outcome (R137 to R145). -/
def pressDecide (s : State) (c : Nat) (d : Nat) (pw : PressWork) : State × PressWork :=
  let t := ldSkimT d
  let rest := (decided (ldA d) (ldW d) t).length
  let count := fun (f : Stats → Stats) => modStats s c f
  if t = 0 || rest = 0 || pw.low != .undecided || pw.pass != (undecided (ldA d) (ldW d) t).length then (s, pw)
  else if pw.reproducible then
    (count fun st => { st with predNominal := satInc 32 st.predNominal }, { pw with low := .nominal })
  else
    let r := (getCore s c).regs
    match predict d (predH (ldMExt d pw.tile) (ldNExt d pw.tile) (ldCells d) (nth r.acc r.fillSet [])) with
    | .skip => (count fun st => { st with predSkip := satInc 32 st.predSkip }, { pw with low := .skip })
    | .nominal => (count fun st => { st with predNominal := satInc 32 st.predNominal }, { pw with low := .nominal })
    | .skim =>
      if railTaken s c pw rest then
        (count fun st => { st with predSkim := satInc 32 st.predSkim }, { pw with low := .skim, rail := true })
      else
        (count fun st => { st with predSkim := satInc 32 st.predSkim, skimNominal := satInc 32 st.skimNominal },
          { pw with low := .nominal })

/-- The passes of a slice in order, each with its own reads (R54, R58); a skipped pass reads nothing (R140). -/
def runPasses (w : Who) : List (Nat × Nat) → State → Job → Mid
  | [], s, j => .ok s j
  | p :: ps, s, j =>
    let r := pressDecide s w.core j.descA j.work.press
    let j := setPress j r.2
    if r.2.low == .skip then .ok r.1 j
    else match readKeep w (actRows j.descA r.2.cur p.1) r.1 j with
      | .wait s j x => .wait s j x
      | .fault s j b => .fault s j b
      | .ok s j =>
        runPasses w ps (onePass s w.core j p)
          { j with work := { j.work with buf := [], press := { j.work.press with pass := j.work.press.pass + 1 } } }

/-- The passes of a slice are done: in an exact-integer layer with a zero point its column sums are taken off (R106). The filling
and the draining set exchange roles (R60). -/
def endSlice (s : State) (c : Nat) (d : Nat) : State :=
  let s := if ldExact d && ldZp d != 0 then
      let r := (getCore s c).regs
      reckAll s c fun _ n => -(ldZp d : Int) * ((nth r.colSums r.planeSet []).map fun g => nth g n 0).sum
    else s
  modRegs s c fun r => { r with fillSet := 1 - r.fillSet }

/-- A slice of a stream-mode layer: L cycles of all cells, with lanes that run on (R126 to R129). -/
def streamSlice (s : State) (c : Nat) (j : Job) : State :=
  let d := j.descA
  let l := j.work.press.cur
  let bip := ldStreamPol d
  let co := getCore s c
  let set := nth co.regs.planes co.regs.planeSet []
  let aCodes := (List.range 32).map fun m => lineCodes bip (ldA d) l.n (l.acts.map fun p => lineBits p m)
  let wCodes := (List.range 32).map fun n => lineCodes bip (ldW d) l.n ((set.take (ldW d)).map fun p => lineBits p n)
  let r := streamRun bip (ldA d) (ldW d) l.n aCodes wCodes (ldCells d) (ldL d) co.lanesA co.lanesW (List.replicate 1024 0)
  modCore s c fun co =>
    { co with lanesA := r.2.1, lanesW := r.2.2,
              regs := { co.regs with
                acc := setNth co.regs.acc co.regs.fillSet
                  (setNth (nth co.regs.acc co.regs.fillSet []) 0 (r.1.map fun (x : Nat) => (x : Int))) } }

/-- A slice runs, while the next is loaded. A block with no position issues no pass (R211). -/
def pressSlice (s : State) (w : Who) (j : Job) : Mid :=
  match loadAhead s w j with
  | .wait s j x => .wait s j x
  | .fault s j b => .fault s j b
  | .ok s j =>
    let d := j.descA
    if j.work.press.cur.n = 0 then .ok s j
    else if ldMode d = 2 then .ok (endSlice (streamSlice s w.core j) w.core d) j
    else match runPasses w ((passOrder (ldA d) (ldW d)).drop j.work.press.pass) s j with
      | .ok s j => .ok (endSlice s w.core d) j
      | x => x

/-- The switches of the rail that the slice ordered: down (0), and back (1), whether or not the first was confirmed. Whether each is
confirmed in time is a free value; one that is not makes the layer wait for the monitor (R143, log 37). -/
def pressRail (s : State) (j : Job) (k : Nat) : Mid :=
  let pw := j.work.press
  if !pw.rail then .ok s j
  else
    let r := takeFree s
    let j := setPress j { pw with skimFailed := pw.skimFailed || (k == 0 && r.1 % 2 == 1), rail := k == 0 }
    if r.1 % 2 = 0 then .ok r.2 j
    else .wait r.2 j { kind := if k = 0 then .railDown else .railBack, addr := 0 }

/-! ## Promotion, spill, output -/

/-- F24 value of a cell after the promotion of a group value (R82). -/
def promoteCell (acc : Nat) (v : Int) (scale : Int) (wscale ascale : Nat) : Nat :=
  let x := toF32 (match FVal.ofInt v with
    | .fin n m e => .fin n m (e + scale)
    | y => y)
  let sigma := mulF32 (bf16ToF32 wscale) ascale
  toF24 ((f24 acc).add (f32 (mulF32 x sigma)))

/-- Value of group `g` of the draining set in each cell, in units of `2 ^ (.2)`: the group value of R65, or that of R130. -/
def drainValues (d : Nat) (l : PressLoad) (r : PressRegs) (g : Nat) : List Int × Int :=
  let accs := nth (nth r.acc (1 - r.fillSet) []) g []
  if ldMode d = 2 then
    if ldStreamPol d then (accs.map fun c => 2 * c - (l.n * ldL d : Nat), (ldA d + ldW d : Int) - 2 - (ldStreamLen d + 4))
    else (accs, (ldA d + ldW d : Int) - (ldStreamLen d + 4))
  else
    let sums := nth (nth r.colSums r.planeSet []) g []
    ((accs.zip (ldCells d)).map fun e => groupValue (ldZp d) e.1 (nth sums e.2.2 0), 0)

/-- Number of group `g` of a slice, counted from the start of the K range; every compact group takes the scale of group 0 (R198,
R208). -/
def groupNumber (d : Nat) (l : PressLoad) (g : Nat) : Nat :=
  match ldSparse d with
  | 0 => unitSlice d l.unit * (128 / ldG d) + g
  | 1 => unitSlice d l.unit * (256 / ldG d) + g
  | _ => 0

/-- A further in-range group of the tile is known to follow group `g` of the running slice (R72). -/
def moreGroups (d : Nat) (pw : PressWork) (g : Nat) : Bool :=
  (g + 1) * ldG d < pw.cur.n ||
  (if ldSparse d < 2 then unitSlice d pw.cur.unit + 1 < pressUnits d
   else pw.next.begun && pw.next.n != 0 && unitTile d pw.next.unit == pw.tile)

/-- Promote group `g` of the slice (R69, R82). A group wholly out of range is not promoted (R67). -/
def pressPromote (s : State) (w : Who) (j : Job) (g : Nat) : Mid :=
  let d := j.descA
  let l := j.work.press.cur
  if g * ldG d ≥ l.n then .ok s j
  else
    let t := j.work.press.tile
    let x := groupNumber d l g
    let q := t * wScalePerTile d + x / 8
    match pressScales s w j q t true with
    | .wait s j y => .wait s j y
    | .fault s j b => .fault s j b
    | .ok s j =>
      let pw := j.work.press
      let wr := tget pw.wScales (wScaleRow d q).1 []
      let ar := tget pw.aScales (aScaleRow d t).1 []
      let m0 := 32 * ldTileM d t
      let wsc := fun (n : Nat) => if ldWScaleSrc d then ldWScale d else numAt wr (64 * (x % 8) + 2 * n) 2
      let asc := fun (m : Nat) => if ldAScaleSrc d then ldAScale d else numAt ar (4 * ((m0 + m) % 128)) 4
      .ok (modRegs s w.core fun r =>
          let v := drainValues d l r g
          { r with f24 := ((r.f24.zip v.1).zip (ldCells d)).map fun e =>
              promoteCell e.1.1 e.1.2 v.2 (wsc e.2.2) (asc e.2.1) })
        (setPress j { pw with promoted := pw.promoted + 1, spillDue := (pw.promoted + 1) % ldS d = 0,
                              follows := moreGroups d pw g })

/-- FP32 value of cell (m, n) of a tile from its F24 values; +0 outside the extent (R68, R81). -/
def cellF32 (mext next : Nat) (f : List Nat) (m n : Nat) : Nat :=
  if m < mext && n < next then f24ToF32 (nth f (32 * m + n) 0) else 0

/-- The FP32 patterns of tile rows 4r to 4r + 3 (R87). -/
def blockRow (mext next : Nat) (f : List Nat) (r : Nat) : List Nat :=
  (List.range 128).map fun k => cellF32 mext next f (4 * r + k / 32) (k % 32)

def packWords (xs : List Nat) : List Byte := xs.flatMap (leBytes 4)
def packHalves (xs : List Nat) : List Byte := xs.flatMap (leBytes 2)
def unpackWords (bs : List Byte) : List Nat := (List.range 128).map fun k => numAt bs (4 * k) 4

/-- Words of spill block row `r` that an output uses (R601). -/
def backUsed (mext next r : Nat) : Nat := maskOf (idxs 8 fun x => 4 * r + x / 2 < mext && 16 * (x % 2) < next)

/-- The rows that the layer's last spill added stand in the conflict queues still: the output buffer is occupied (R73, R219). -/
def spillQueued (co : Core) (idx : Nat) : Option CqEntry := co.cq.find? fun e => e.owner == .press idx

/-- Does the queue of a row's bank have room (R217, R219)? -/
def queueRoom (co : Core) (row : Nat) : Bool := (co.cq.filter fun e => bankOf 2 e.row == bankOf 2 row).length < 8

/-- An output or spill event waits while the output buffer is occupied (R74). -/
def eventStall (s : State) (w : Who) (j : Job) (k : State → Mid) : Mid :=
  let co := getCore s w.core
  match spillQueued co w.idx with
  | some e => .wait s j { kind := .slot, addr := scratchAddr co.place 2 e.row }
  | none => k s

/-- A spill takes the F24 values into the output buffer and clears the accumulators (R72, R84). -/
def spillEvent (s : State) (w : Who) (j : Job) : Mid :=
  eventStall s w j fun s =>
    let d := j.descA
    let pw := j.work.press
    let f := (getCore s w.core).regs.f24
    let outs : Tbl OutRow := (List.range 8).map fun r =>
      (r, { loc := .own 2 (ldSpillRow d pw.tile r), data := packWords (blockRow (ldMExt d pw.tile) (ldNExt d pw.tile) f r),
            mask := wholeMask, first := true, last := true })
    .ok (modRegs s w.core fun r => { r with f24 := List.replicate 1024 0 })
      { j with work := { j.work with outs := outs, press := { pw with spillDue := false, spilling := true } } }

/-- Write row `r` of a spill: a plain write for the tile's first spill without `RESUME`, else an addition that enters the conflict
queue of the row's bank (R89, R100, R217). A row in an open hoop is not written (R102). -/
def spillRow (s : State) (w : Who) (j : Job) (r : Nat) : Mid :=
  let d := j.descA
  let pw := j.work.press
  let row := ldSpillRow d pw.tile r
  let phys := storeRow w.core 2 row
  let co := getCore s w.core
  let addr := scratchAddr co.place 2 row
  let data := match tget? j.work.outs r with
    | some o => o.data
    | none => []
  let j' := if r = 7 then setPress j { pw with spilling := false, spilled := true } else j
  if inOpenHoop co 2 row then .fault s j { code := cProt, unit := uPress, addr := addr, detail := 0 }
  else if pw.spilled || ldResume d then
    if !(queueRoom co row) then .wait s j { kind := .slot, addr := addr }
    else .ok (modCore s w.core fun co =>
      { co with cq := co.cq ++ [{ row := row, data := data, isInt := false, owner := .press w.idx }] }) j'
  else if heldByOther co phys w.unit w.idx then .wait s j { kind := .hold, addr := addr }
  else if isFull s phys && !(heldBySelf co phys w.unit w.idx) then .wait s j { kind := .tag, addr := addr }
  else .ok (modCore (putRow s phys data wholeMask).1 w.core fun co => addHold co phys w.unit w.idx) j'

/-- A spill, when one is due: 0 takes the values, k > 0 writes row k - 1 (R72, R89). -/
def pressSpill (s : State) (w : Who) (j : Job) (k : Nat) : Mid :=
  if k = 0 then if j.work.press.spillDue && j.work.press.follows then spillEvent s w j else .ok s j
  else if j.work.press.spilling then spillRow s w j (k - 1) else .ok s j

/-- The output combines spilled rows (R90). -/
def combines (d : Nat) (pw : PressWork) : Bool := pw.spilled || ldResume d

/-- Read back row `r` of the spill block for a combining output, once the additions into it have retired (R90, R100, R110). -/
def pressOutRead (s : State) (w : Who) (j : Job) (r : Nat) : Mid :=
  let d := j.descA
  let pw := j.work.press
  if !(combines d pw) then .ok s j
  else eventStall s w j fun s =>
    let t := pw.tile
    let row := ldSpillRow d t r
    let used := if ldExact d then maskOf (idxs 8 fun x => 4 * x < ldMExt d t) else backUsed (ldMExt d t) (ldNExt d t) r
    match readLoc s w (.own 2 row) .peek used with
    | .wait x => .wait s j x
    | .fault s b => .fault s j b
    | .ok s data =>
      .ok (modCore s w.core fun co => addHold co (storeRow w.core 2 row) w.unit w.idx)
        (setPress j { pw with back := pw.back ++ unpackWords data })

/-- Once the block has been read back its rows are released empty, when the output goes to the output rows (R100). -/
def pressRelease (s : State) (w : Who) (j : Job) (t : Nat) : Mid :=
  let d := j.descA
  if ldPartial d || !(combines d j.work.press) then .ok s j
  else
    .ok ((List.range (ldSpillRows d)).foldl (fun s r =>
      let phys := storeRow w.core 2 (ldSpillRow d t r)
      modCore (setTag s phys false) w.core fun co => dropHold co phys) s) j

/-- The FP32 sum of a cell at output (R90). A cell outside the extent is written as +0 whatever a foreign spill block held there, as
R68 requires of every output row; in the block itself its element had +0 added (R89; that the two differ where a block taken over
under `RESUME` holds another value than +0 is the model's reading, log 85). -/
def outCell (d : Nat) (pw : PressWork) (f : List Nat) (m n : Nat) : Nat :=
  let mext := ldMExt d pw.tile
  let next := ldNExt d pw.tile
  if m < mext && n < next then
    let v := f24ToF32 (nth f (32 * m + n) 0)
    if combines d pw then addF32 (nth pw.back (32 * m + n) 0) v else v
  else 0

/-- Code kind of the narrow output (R172, R173). -/
def outKind (d : Nat) : Nat := if ldOutFmt d = 3 then 1 else if ldOutSym d then 3 else 0

/-- A narrow output code: the product by `OUT_RSCALE` rounds once (R173). -/
def outCode (d y : Nat) : Coded :=
  let z : Int := if ldOutFmt d = 3 then ldOutZp d else 0
  let v := f32 y
  codeOf (outKind d) (ldOutW d) z (if v.isFin then v.mul (f32 (ldOutRscale d)) else v)

/-- Planes of narrow codes as output rows (R175). -/
def narrowRows (b : Nat) (codes : List Nat) : List (List Byte) :=
  (List.range (cdiv b 4)).map fun r =>
    (List.range 4).flatMap fun p =>
      let i := 4 * r + p
      (List.range 128).map fun k =>
        if i < b then
          BitVec.ofNat 8 (maskOf (idxs 8 fun x => bitAt (nth codes ((k / 4) * 32 + 8 * (k % 4) + x) 0) i))
        else 0

/-- Form the output rows of the tile (R91, R110, R173, R175). -/
def pressOut (s : State) (w : Who) (j : Job) (t : Nat) : Mid :=
  let d := j.descA
  let pw := j.work.press
  let r := (getCore s w.core).regs
  let emit := fun (s : State) (rows : List (List Byte)) =>
    let outs : Tbl OutRow := rows.zipIdx.map fun e =>
      (e.2, { loc := .own 2 (if ldPartial d then ldSpillRow d t e.2 else ldOutRowOf d t e.2), data := e.1,
              mask := wholeMask, first := true, last := true })
    Mid.ok s { j with work := { j.work with outs := outs } }
  if ldExact d then
    let mext := ldMExt d t
    let next := ldNExt d t
    let backs := fun (k : Nat) => signed 32 (nth pw.back k 0)
    let res := (r.reck.zip r.satBits).zipIdx.map fun e =>
      if ldResume d then reckAdd e.1.1 e.1.2 (backs e.2) else (e.1.1, e.1.2, false)
    let hits := fun (col : Nat) => (res.zipIdx.filter (fun r => r.1.2.2 && r.2 % 4 == col)).length
    let s := modStats s w.core fun st =>
      { st with satFlag := st.satFlag.zipIdx.map (fun e => e.1 || hits e.2 != 0),
                satCount := st.satCount.zipIdx.map (fun e => satAdd 16 e.1 (hits e.2)) }
    emit s [packWords (res.zipIdx.map fun e =>
      if e.2 / 4 < mext && e.2 % 4 < next then toPat 32 e.1.1 else 0)]
  else if ldPartial d || ldOutFmt d = 0 then
    emit s ((List.range 8).map fun x =>
      packWords ((List.range 128).map fun k => outCell d pw r.f24 (4 * x + k / 32) (k % 32)))
  else if ldOutFmt d = 1 then
    emit s ((List.range 4).map fun x =>
      packHalves ((List.range 256).map fun k => f32ToBf16 (outCell d pw r.f24 (8 * x + k / 32) (k % 32))))
  else
    let cs := (cellList 32 32).map fun e => outCode d (outCell d pw r.f24 e.1 e.2)
    let s := countCodes s w.core uPress j.idx j.tag true cs
    emit s (narrowRows (ldOutW d) (cs.map fun c => toPat (ldOutW d) c.code))

/-- `SAT_EXACT` once for the layer, after its last output row (R108). -/
def pressEnd (s : State) (w : Who) (j : Job) : Mid :=
  let st := (getCore s w.core).stats
  if ldExact j.descA && st.satFlag.any id then
    .ok (pushEvent s w.core (mkRec s w.core
      { code := cSatExact, unit := uPress, addr := 0, detail := maskOf (idxs 4 fun k => nth st.satFlag k false) }
      j.idx j.tag true)) j
  else .ok s j

end Sys2Proof.Machine
end

