-- ==== Sys2Proof/Machine/Hoops.lean ====
section
/-! DEFINITION. Hoops: the checks of an arrival, its application and its refusal (R247 to R258), signals, remote reads, and
the retirement of conflict entries (R217 to R221, R600). -/

namespace Sys2Proof.Machine

/-! ## Accounts of senders -/

/-- An entry completes: it leaves the list of issued entries. -/
def completeEntry (co : Core) (idx : Nat) : Core :=
  { co with seq := { co.seq with issued := co.seq.issued.filter (fun i => !(i.idx == idx)) } }

/-- The entry is issued and not completed on a core that a fault has not stopped. -/
def isIssued (co : Core) (idx : Nat) : Bool := !co.seq.stopped && co.seq.issued.any (fun i => i.idx == idx)

/-- A signal entry is applied: it completes (R327). -/
def completeSignal (co : Core) (idx : Nat) : Core :=
  completeEntry { co with signals := co.signals.filter (fun g => !(g.idx == idx)) } idx

/-- An arrival has been applied: its sender's operation counts it, or its packet's track does. -/
def answerApplied (s : State) (a : Arrival) : State :=
  match a.sender with
  | .local g u idx =>
    if u == .signal then modCore s g fun co => completeSignal co idx
    else modJob s g u idx fun j => { j with applied := j.applied + 1 }
  | .packet k => trackRow s k a.row none
  | .reduction _ => s

/-- Partition address of a hoop row, as its sender names it. -/
def arrivalAddr (s : State) (c : Nat) (a : Arrival) : Nat := hoopAddr (getCore s c).place a.hoop a.row

/-- `FR_UNIT` of a sender's operation: rows leave by CDMA-out (R219). -/
def senderUnit (co : Core) (u : CoreUnit) (idx : Nat) : Nat :=
  match findJob co u idx with
  | some j => unitCode u j.engines false
  | none => unitCode u .outOnly false

/-- An arrival is refused with a code: its sender's operation faults, or its packet is answered (R255, R402, R114). DESIGN CHOICE:
the fault of a refused result row names entry 0 in `FR_ENTRY`, which the spec does not give (log 86). -/
def answerRefused (s : State) (c : Nat) (a : Arrival) (code mask : Nat) : State :=
  let addr := arrivalAddr s c a
  match a.sender with
  | .local g u idx =>
    let co := getCore s g
    if isIssued co idx then
      raiseFault s g u idx { code := code, unit := senderUnit co u idx, addr := addr, detail := mask }
    else s
  | .packet k => trackRow s k a.row (some code)
  | .reduction g => raiseFault s g .sequencer 0 { code := code, unit := uReducer, addr := addr, detail := mask }

/-! ## Checks (R255) -/

/-- The hoop names this source (R249). -/
def sourceOk (h : Hoop) (a : ArrSource) : Bool :=
  match a with
  | .core g => h.srcKind == 0 && h.srcCore == some g
  | .module m => h.srcKind == 1 && h.src == m
  | .reducer d => h.srcKind == 2 && h.src == d

/-- Bit of `HOOP_OPS` that an arrival needs; a signal needs any (R250). -/
def opsOk (h : Hoop) (k : ArrKind) : Bool :=
  match k with
  | .write => bitAt h.ops 0
  | .addF32 => bitAt h.ops 1
  | .addI32 => bitAt h.ops 1
  | .read => bitAt h.ops 2
  | .signal _ => true

def inRows (h : Hoop) (k : ArrKind) (row n : Nat) : Bool :=
  match k with
  | .signal _ => true
  | _ => row + n ≤ h.rows

/-- What a hoop does with an arrival of `n` rows: accepts it, refuses it because the hoop is not open, or refuses it with
a code, or without one when the source is fenced. -/
inductive HoopCheck where
  | ok | closed | refused (code : Option Nat)
  deriving DecidableEq, Repr

def hoopCheck (co : Core) (hoop : Nat) (source : ArrSource) (k : ArrKind) (row n : Nat) : HoopCheck :=
  let h := tget co.hoops hoop Hoop.reset
  if !h.isOpen then .closed
  else if !(sourceOk h source) then .refused (some cProt)
  else if h.fenced then .refused none
  else if !(opsOk h k) then .refused (some cProt)
  else if !(inRows h k row n) then .refused (some cProt)
  else .ok

def modHoop (co : Core) (n : Nat) (f : Hoop → Hoop) : Core :=
  { co with hoops := tput co.hoops n (f (tget co.hoops n Hoop.reset)) }

/-- The owner counts a refused arrival (R255). -/
def countRefused (s : State) (c : Nat) (hoop : Nat) (k : HoopCheck) : State :=
  match k with
  | .ok => s
  | .closed => modCore s c fun co => { co with hoopRefused := satInc 16 co.hoopRefused }
  | .refused _ => modCore s c fun co => modHoop co hoop fun h => { h with refused := satInc 16 h.refused }

/-- The code that a failing check answers with. -/
def checkCode : HoopCheck → Option Nat
  | .ok => none
  | .closed => some cHoopClosed
  | .refused c => c

/-! ## Arrivals -/

/-- Remove the arrival at position `k`; the remote port is free again. -/
def dropArrival (co : Core) (k : Nat) : Core :=
  { co with inbound := co.inbound.take k ++ co.inbound.drop (k + 1), portBusy := false }

/-- The arrival at position `k`, when it may reach the port next: nothing waits in the port before it, and no earlier
arrival comes from its source (R251, R405). -/
def nextArrival (co : Core) (k : Nat) : Option Arrival :=
  if co.portBusy && k != 0 then none
  else match co.inbound[k]? with
    | some a => if (co.inbound.take k).any (fun b => b.source == a.source) then none else some a
    | none => none

/-- The arrival at position `k` waits in the remote port, and later arrivals behind it. -/
def waitAtPort (co : Core) (k : Nat) (a : Arrival) : Core :=
  { co with inbound := a :: (co.inbound.take k ++ co.inbound.drop (k + 1)), portBusy := true }

/-- A refused arrival is discarded whole (R255). -/
def refuseArrival (s : State) (c k : Nat) (a : Arrival) (chk : HoopCheck) : State :=
  let s := countRefused (modCore s c fun co => dropArrival co k) c a.hoop chk
  match checkCode chk with
  | some code => answerRefused s c a code 0
  | none => s

/-- Store row of an arrival. -/
def arrivalRow (co : Core) (a : Arrival) : Nat × Nat :=
  let h := tget co.hoops a.hoop Hoop.reset
  (h.store, h.base + a.row)

/-- The row is held by an operation of the core (R99). -/
def heldAny (co : Core) (row : Nat) : Bool := co.holds.any (fun h => h.1 == row)

/-- A remote write row reaches its hoop (R250, R251). -/
def arriveWrite (s : State) (c k : Nat) (a : Arrival) : State :=
  let co := getCore s c
  match hoopCheck co a.hoop a.source a.kind a.row 1 with
  | .ok =>
    let h := tget co.hoops a.hoop Hoop.reset
    let row := storeRow c (arrivalRow co a).1 (arrivalRow co a).2
    if heldAny co row || (!h.wrOver && isFull s row) then modCore s c fun co => waitAtPort co k a
    else
      let s := setTag (putRow s row a.data wholeMask).1 row true
      answerApplied (modCore s c fun co => modHoop (dropArrival co k) a.hoop fun h => { h with counter := h.counter + 1 }) a
  | chk => refuseArrival s c k a chk

/-- A reduce-add row enters the conflict queue of its row's bank (R217, R219, R250). -/
def arriveAdd (s : State) (c k : Nat) (a : Arrival) : State :=
  let co := getCore s c
  match hoopCheck co a.hoop a.source a.kind a.row 1 with
  | .ok =>
    let row := (arrivalRow co a).2
    if !(queueRoom co row) then modCore s c fun co => waitAtPort co k a
    else
      modCore s c fun co =>
        let co := dropArrival co k
        { co with cq := co.cq ++ [{ row := row, data := a.data, isInt := a.kind == .addI32,
                                    owner := .arrival a.hoop a.sender }] }
  | chk => refuseArrival s c k a chk

/-- A signal adds its value to the arrival counter (R250, R252). -/
def arriveSignal (s : State) (c k : Nat) (a : Arrival) (v : Nat) : State :=
  let co := getCore s c
  match hoopCheck co a.hoop a.source a.kind a.row 1 with
  | .ok =>
    answerApplied (modCore s c fun co =>
      modHoop (dropArrival co k) a.hoop fun h => { h with counter := h.counter + BitVec.ofNat 32 v }) a
  | chk => refuseArrival s c k a chk

/-- The answer to a remote read (R254, R406): a row, not ready, or a refusal. -/
inductive ReadAnswer where
  | row (data : List Byte) | notReady | refused (code mask : Nat)
  deriving DecidableEq, Repr

def answerRead (s : State) (c : Nat) (a : Arrival) (r : ReadAnswer) : State :=
  match a.sender with
  | .local g u idx =>
    match r with
    | .row data => modJob s g u idx fun j => { j with remote := .row data }
    | .notReady => modJob s g u idx fun j => { j with remote := .notReady }
    | .refused code mask => answerRefused s c a code mask
  | .packet k =>
    match tget? s.rxTracks k with
    | none => s
    | some t =>
      sendAnswer s k { t with left := 0 } (match r with
        | .row data => responseTo s t.packet opData 0 [data]
        | .notReady => responseTo s t.packet opNotReady 0 []
        | .refused code _ => responseTo s t.packet opRefused code [])
  | .reduction _ => s

/-- A remote read (R254): a full row is read whole under `HOOP_RD_TAG` and counted; an empty row is answered not ready. -/
def arriveRead (s : State) (c k : Nat) (a : Arrival) : State :=
  let co := getCore s c
  match hoopCheck co a.hoop a.source a.kind a.row 1 with
  | .ok =>
    let h := tget co.hoops a.hoop Hoop.reset
    let row := storeRow c h.store (h.base + a.row)
    let s := modCore s c fun co => dropArrival co k
    if !(isFull s row) || heldAny co row then answerRead s c a .notReady
    else
      let v := readVerdict s row 255
      let data := rdBytes s (row * 512) 512
      let s := checkRead s row 255
      match v with
      | some (code, mask) => answerRead s c a (.refused code mask)
      | none =>
        let s := if h.rdTake then setTag s row false else s
        answerRead (modCore s c fun co => modHoop co a.hoop fun h => { h with counter := h.counter + 1 }) c a (.row data)
  | chk =>
    let s := countRefused (modCore s c fun co => dropArrival co k) c a.hoop chk
    match checkCode chk with
    | some code => answerRead s c a (.refused code 0)
    | none => s

/-! ## Retirement of conflict entries (R218, R220, R600) -/

/-- Element sums of two rows (R119): the new row and whether an INT32 sum saturated. -/
def addRows (isInt : Bool) (old new : List Byte) : List Byte × Bool :=
  let xs := (unpackWords old).zip (unpackWords new)
  if isInt then
    let rs := xs.map fun e => satInt32 (signed 32 e.1 + signed 32 e.2)
    (packWords (rs.map fun r => toPat 32 r.1), rs.any (·.2))
  else (packWords (xs.map fun e => addF32 e.1 e.2), false)

/-- The entry may retire: at the head of its bank's queue, its row not held by another operation, and full, or held by the entry's
own layer (R99, R218, R220, R251). -/
def mayRetire (s : State) (c : Nat) (co : Core) (k : Nat) (e : CqEntry) : Bool :=
  let row := storeRow c 2 e.row
  let own := match e.owner with
    | .press idx => !(heldByOther co row .press idx)
    | .scatter idx => !(heldByOther co row .cdma idx)
    | .arrival _ _ => !(heldAny co row)
  let ready := match e.owner with
    | .press idx => isFull s row || heldBySelf co row .press idx
    | _ => isFull s row
  !((co.cq.take k).any fun d => bankOf 2 d.row == bankOf 2 e.row) && own && ready

/-- Position of the entry that retires: of those that may, the one that entered first (R218). -/
def retireIndex (s : State) (c : Nat) (co : Core) : Option Nat :=
  (List.range co.cq.length).find? fun k => match co.cq[k]? with
    | some e => mayRetire s c co k e
    | none => false

/-- The arrival that a queued reduce-add came from, to answer its sender. -/
def entryArrival (co : Core) (e : CqEntry) (hoop : Nat) (sender : Sender) : Arrival :=
  { kind := if e.isInt then .addI32 else .addF32, hoop := hoop, row := queuedRow co hoop e,
    data := [], source := .core 0, sender := sender }

/-- `SAT_EXACT` of a saturated INT32 reduction on the destination core (R115, R371). -/
def reductionSat (s : State) (c entry tag unit : Nat) : State :=
  pushEvent s c (mkRec s c { code := cSatExact, unit := unit, addr := 0, detail := 16 } entry tag true)

/-- The entry belongs to an operation of this core: a layer or a scatter-add. -/
def ownEntry : CqOwner → Bool
  | .arrival _ _ => false
  | _ => true

/-- An entry is not applied: its own operation faults, or its sender is answered (R600). -/
def refuseEntry (s : State) (c : Nat) (co : Core) (e : CqEntry) (code mask : Nat) : State :=
  match e.owner with
  | .arrival hoop sender => answerRefused s c (entryArrival co e hoop sender) code mask
  | .press idx =>
    raiseFault s c .press idx { code := code, unit := uPress, addr := scratchAddr co.place 2 e.row, detail := mask }
  | .scatter idx =>
    raiseFault s c .cdma idx
      { code := code, unit := senderUnit co .cdma idx, addr := scratchAddr co.place 2 e.row, detail := mask }

/-- One entry retires: it reads its row, adds and writes it back (R218), or is refused (R600). A row that lies in a hoop opened
since is written by arrivals only (R102). -/
def retireOne (s : State) (c k : Nat) (e : CqEntry) : State :=
  let co := getCore s c
  let row := storeRow c 2 e.row
  let out := fun (co : Core) => { co with cq := co.cq.take k ++ co.cq.drop (k + 1) }
  if ownEntry e.owner && inOpenHoop co 2 e.row then refuseEntry (modCore s c out) c co e cProt 0
  else
    let old := rdBytes s (row * 512) 512
    let s1 := modCore (checkRead s row 255) c out
    match readVerdict s row 255 with
    | some (code, mask) => refuseEntry s1 c co e code mask
    | none =>
      let sum := addRows e.isInt old e.data
      let s := (putRow s1 row sum.1 wholeMask).1
      match e.owner with
      | .press idx => modCore s c fun co => addHold co row .press idx
      | .scatter idx =>
        let s := modCore s c fun co => addHold co row .cdma idx
        let s := if sum.2 then reductionSat s c idx (jobTag co .cdma idx) (senderUnit co .cdma idx) else s
        modJob s c .cdma idx fun j => { j with applied := j.applied + 1 }
      | .arrival hoop sender =>
        let s := if sum.2 then reductionSat s c 0 0 uRemote else s
        answerApplied (modCore s c fun co => modHoop co hoop fun h => { h with counter := h.counter + 1 })
          (entryArrival co e hoop sender)

/-! ## The commands -/

/-- REMOTE_WRITE_ARRIVAL (R250): arrival `k` of the core reaches its hoop. -/
def execRemoteWriteArrival (core k : Nat) (s : State) : Out :=
  onCore core (match nextArrival (getCore s core) k with
    | some a => if a.kind = .write then .next (arriveWrite s core k a) else .next s
    | none => .next s)

/-- REDUCE_ADD_ARRIVAL (R250). -/
def execReduceAddArrival (core k : Nat) (s : State) : Out :=
  onCore core (match nextArrival (getCore s core) k with
    | some a => if a.kind = .addF32 ∨ a.kind = .addI32 then .next (arriveAdd s core k a) else .next s
    | none => .next s)

/-- SIGNAL_ARRIVAL (R252). -/
def execSignalArrival (core k : Nat) (s : State) : Out :=
  onCore core (match nextArrival (getCore s core) k with
    | some a => match a.kind with
      | .signal v => .next (arriveSignal s core k a v)
      | _ => .next s
    | none => .next s)

/-- REMOTE_READ (R254). -/
def execRemoteRead (core k : Nat) (s : State) : Out :=
  onCore core (match nextArrival (getCore s core) k with
    | some a => if a.kind = .read then .next (arriveRead s core k a) else .next s
    | none => .next s)

/-- CONFLICT_QUEUE_RETIRE (R218). -/
def execConflictQueueRetire (core : Nat) (s : State) : Out :=
  onCore core (match retireIndex s core (getCore s core) with
    | some k => match (getCore s core).cq[k]? with
      | some e => .next (retireOne s core k e)
      | none => .next s
    | none => .next s)

end Sys2Proof.Machine
end

