-- ==== Sys2Proof/Machine/Layout.lean ====
section
/-! DEFINITION. Tensor layouts: where an element of a side lies (R281 to R291), the checks of a move's descriptors (R280,
R284, R292 to R297, R306) and the ranges of its sides (R300). -/

namespace Sys2Proof.Machine

/-- Where part of an element lies: row, counted from the row of the base before any ring wraps it, bit in the row, and
number of bits. -/
structure Span where
  row : Int
  bit : Nat
  bits : Nat
  deriving DecidableEq, Repr

/-- Units per store row side of the diagonal layout: elements of one unit row (R288). -/
def diagU (d : Nat) : Nat :=
  match tdEfmt d with
  | 2 => 16
  | 3 => 32
  | _ => 8

/-- A run of `n` bytes at byte `x` from the row of the base, cut at the row boundary. -/
def byteSpans (x : Int) (n : Nat) : List Span :=
  let r := x / 512
  let b := (x % 512).toNat
  if b + n ≤ 512 then [{ row := r, bit := 8 * b, bits := 8 * n }]
  else [{ row := r, bit := 8 * b, bits := 8 * (512 - b) }, { row := r + 1, bit := 0, bits := 8 * (n - (512 - b)) }]

/-- Plane positions of code element (r, k) (R288): one span a plane. -/
def codeSpan (d r k i : Nat) : Span :=
  let b := tdPlanes d
  let kp := tdPitch d / 128
  match tdLayout d with
  | 1 => { row := ((r / 32) * kp + k / 128) * b + i, bit := 8 * (16 * (r % 32)) + k % 128, bits := 1 }
  | 2 =>
    let j := (k / 128) * b + i
    { row := r * cdiv (kp * b) 32 + j / 32, bit := 8 * (16 * (j % 32)) + k % 128, bits := 1 }
  | _ =>
    let t := (k / 32) * cdiv (tdRows d) 32 + r / 32
    { row := t * cdiv b 4 + i / 4, bit := 8 * (128 * (i % 4) + 4 * (r % 32)) + k % 32, bits := 1 }

/-- Row of unit (i, j) of block `blk` of a diagonal side, counted from the row of the base (R288, R290). -/
def diagRow (nb blk i j : Nat) : Nat := nb * ((i + j) % 16) + 16 * blk + i

/-- Spans of the element at offset `o`, one list a part that converts as one value: the whole element, or each plane. -/
def elemSpans (d nb : Nat) (o : Int) : List (List Span) :=
  match tdLayout d with
  | 0 => let n := tdElemBits d / 8
         [byteSpans ((tdBase d % 512 : Nat) + n * o) n]
  | 3 =>
    let n := tdElemBits d / 8
    let u := diagU d
    let r := o.toNat / tdPitch d
    let k := o.toNat % tdPitch d
    let blk := (r / 256) * (tdPitch d / (16 * u)) + k / (16 * u)
    let row := diagRow nb blk (r % 256 / 16) ((k / u) % 16)
    [[{ row := row, bit := 8 * (32 * (r % 16) + n * (k % u)), bits := 8 * n }]]
  | _ =>
    let r := o.toNat / tdPitch d
    let k := o.toNat % tdPitch d
    (List.range (tdPlanes d)).map fun i => [codeSpan d r k i]

/-- Where a row of a side lies: a row of a store of the core, a row within a hoop, or a row of the partition's addresses; the
ring of R291 wraps the rows of a store, the core's or another's. -/
def sideLoc (co : Core) (d : Nat) (row : Int) : Loc :=
  if region (tdBase d) = 3 then
    .hoop (if tdRemote d then some (tdModule d) else none) (hoopCore (tdBase d)) (hoopNum (tdBase d))
      ((hoopRowOf (tdBase d) : Int) + row).toNat
  else
    let a := ((tdBase d / 512 : Nat) : Int) + row
    let ring := fun (r0 : Nat) => tdRingFirst d + (((r0 : Int) + row - tdRingFirst d) % (tdRingLen d : Int)).toNat
    match ownScratch co (tdBase d) with
    | some (st, r0) =>
      if tdRingLen d != 0 then .own st (ring r0)
      else match ownScratch co (a.toNat * 512) with
        | some (st', r) => .own st' r
        | none => .addr a.toNat
    | none =>
      match (if tdRingLen d != 0 && region (tdBase d) == 1 then scratchOf (tdBase d) else none) with
      | some (pl, st, r0) => .addr (scratchAddr pl st (ring r0) / 512)
      | none => .addr (a % (2 ^ 39 : Int)).toNat

/-! ## Iteration (R282) -/

/-- Index of dimension `k` at step `n` of the order of R282: dimension 0 fastest. -/
def idxAt (d n : Nat) : Nat → Nat
  | 0 => n % tdExt d 0
  | k + 1 => n / ((List.range (k + 1)).foldl (fun p j => p * tdExt d j) 1) % tdExt d (k + 1)

def elemCount (d : Nat) : Nat := (List.range (tdNdim d)).foldl (fun p k => p * tdExt d k) 1

/-- Offset of the destination, and of the source, at step `n` (R282). -/
def dstOff (dst n : Nat) : Int := (List.range (tdNdim dst)).foldl (fun o k => o + idxAt dst n k * tdStride dst k) 0
def srcOff (src dst n : Nat) : Int :=
  (List.range (tdNdim dst)).foldl (fun o k => o + idxAt dst n k * tdStride src (tdPerm dst k)) 0

/-- Extreme offsets of a side over its own extents (R287, R300). -/
def minOff (d : Nat) : Int := (List.range (tdNdim d)).foldl (fun o k => o + min 0 ((tdExt d k - 1 : Int) * tdStride d k)) 0
def maxOff (d : Nat) : Int := (List.range (tdNdim d)).foldl (fun o k => o + max 0 ((tdExt d k - 1 : Int) * tdStride d k)) 0

/-! ## Checks (R280) -/

/-- The tag modes of a side in a store: 3 is refused (R240). HBM, host memory and hoop sides ignore both fields (R298). -/
def tdTags (d : Nat) : List Nat :=
  badIf (region (tdBase d) == 1 && tdTagRd d == 3) 340 ++ badIf (region (tdBase d) == 1 && tdTagWr d == 3) 342

/-- Refused encodings of a descriptor by itself; their positions. -/
def tdEncodings (d : Nat) : List Nat :=
  let bad := fun (b : Bool) (p : Nat) => if b then [p] else []
  let rowLay := tdLayout d ≥ 1
  bad (tdLayout d > 5) 331 ++ bad (tdEfmt d > 4) 334 ++ bad (tdNdim d == 0 || tdNdim d > 5) 328 ++
  tdTags d ++ bad (tdRingLen d == 1 || tdRingLen d > 1024) 387 ++
  bad (rowLay && tdPitch d == 0) 461 ++ bad (rowLay && tdRows d == 0) 485 ++
  (lowBit 3 509 (d >>> 509)).toList

/-- Layout kind against element format, base and place (R286, R287, R290); position of the field named (R602). -/
def tdKinds (co : Core) (d : Nat) : List Nat :=
  let bad := fun (b : Bool) (p : Nat) => if b then [p] else []
  let lay := tdLayout d
  let code := lay == 1 || lay == 2 || lay == 4 || lay == 5
  let pitchUnit := if lay == 5 then 32 else if lay == 3 then 16 * diagU d else 128
  bad (code != (tdEfmt d == 4)) 331 ++
  bad ((lay == 3 || lay == 5) && tdNdim d > 2) 328 ++
  bad (lay ≥ 1 && tdBase d % 512 != 0) 0 ++
  bad (lay ≥ 1 && region (tdBase d) == 2) 0 ++
  bad ((lay == 4 || lay == 5) && region (tdBase d) == 3) 0 ++
  bad (lay == 3 && (match tdOwn co d with
    | some (st, r) => r ≥ bankRows st ||
        r + 16 * (cdiv (tdRows d) 256 * cdiv (tdPitch d) (16 * diagU d)) > bankRows st
    | none => true)) 0 ++
  bad (lay ≥ 1 && tdPitch d % pitchUnit != 0) 331

/-- Ring tests of a side that are not about its layout (R291). -/
def tdRingPlace (co : Core) (d : Nat) : List Nat :=
  if tdRingLen d = 0 then []
  else
    let bad := fun (b : Bool) (p : Nat) => if b then [p] else []
    match ownScratch co (tdBase d) with
     | some (st, r) =>
       bad (tdRingFirst d + tdRingLen d > storeRows st) 0 ++
       bad (r < tdRingFirst d || r ≥ tdRingFirst d + tdRingLen d) 0
     | none => match region (tdBase d), scratchOf (tdBase d) with
       | 1, some (_, st, r) =>
         bad (tdRingFirst d + tdRingLen d > storeRows st) 0 ++
         bad (r < tdRingFirst d || r ≥ tdRingFirst d + tdRingLen d) 0
       | _, _ => [0]

/-- Ring tests (R291). -/
def tdRing (co : Core) (d : Nat) : List Nat :=
  tdRingPlace co d ++ (if tdRingLen d != 0 && tdLayout d ≥ 3 then [331] else [])

/-- Refused encodings of a descriptor of a selective fetch, which ignores the extent, stride and layout fields (R348). -/
def sfEncodings (d : Nat) : List Nat :=
  let bad := fun (b : Bool) (p : Nat) => if b then [p] else []
  tdTags d ++ bad (tdRingLen d == 1 || tdRingLen d > 1024) 387 ++
  (lowBit 3 509 (d >>> 509)).toList

/-- Offsets within the matrix of a row layout (R287). -/
def tdBounds (d : Nat) : List Nat :=
  if tdLayout d ≥ 1 && tdLayout d != 4 && (minOff d < 0 || maxOff d ≥ (tdPitch d * tdRows d : Nat)) then [48] else []

/-- A check of a move: the structure (0 entry, 1 source, 2 destination) and the position of the field named. -/
abbrev Named := Nat × Nat

def firstIn (which : Nat) (l : List Nat) : Option Named := (minPos l).map fun p => (which, p)

def orElse {α : Type} (a : Option α) (b : Unit → Option α) : Option α :=
  match a with
  | some x => some x
  | none => b ()

/-- The `FN_MODE` bits that a function does not define (R292). -/
def fnModeBad (fn m : Nat) : Bool := if fn = 0 then m > 1 else if fn = 1 then m > 3 else m != 0

/-- Function against layouts, formats and engine (R286, R292 to R297, R346, R348): the structure and field named. -/
def fnCheck (co : Core) (fn eng src dst : Nat) : Option Named :=
  let bad := fun (b : Bool) (n : Named) => if b then some n else none
  let sl := tdLayout src
  let dl := tdLayout dst
  let se := tdEfmt src
  let de := tdEfmt dst
  orElse (bad (fn > 6) (0, 96)) fun _ =>
  orElse (bad ((fn = 6) != (eng = 1) && fn != 0) (0, 96)) fun _ =>
  orElse (bad (fn != 6 && eng = 1 && (sl == 3 || dl == 3)) (0, 100)) fun _ =>
  orElse (bad (fnModeBad fn (tdFnMode dst)) (2, 457)) fun _ =>
  match fn with
  | 0 =>
    let plainish := fun (l : Nat) => l == 0 || l == 3
    let okPair := (plainish sl && plainish dl && (se == de || (se == 0 && de == 2) || (se == 2 && de == 0))) ||
      ((sl == 1 || sl == 2 || sl == 5) && (dl == 1 || dl == 2) && tdPlanes src == tdPlanes dst) ||
      (sl == 4 && dl == 4 && tdRows src == tdRows dst && tdPlanes src == tdPlanes dst && tdZrExt src == tdZrExt dst)
    orElse (bad (!okPair) (0, 96)) fun _ =>
    bad (bitAt (tdFnMode dst) 0 && !(region (tdBase dst) == 3 && dl == 0 && de < 2)) (2, 0)
  | 1 =>
    if bitAt (tdFnMode dst) 1 then
      orElse (bad (!(sl == 0 && dl == 0 && se == de && (se == 0 || se == 2) && tdNdim src == 2)) (0, 96)) fun _ =>
      orElse (bad (tdExt src 0 % 4 != 0 || 2 * tdExt dst 0 != tdExt src 0) (1, 48)) fun _ =>
      bad (tdExt dst 1 != tdExt src 1) (1, 72)
    else
      orElse (bad (!(sl == 1 && dl == 1 && tdPlanes src == tdPlanes dst)) (0, 96)) fun _ =>
      orElse (bad (tdExt src 0 % 4 != 0 || tdExt src 0 > tdPitch src) (1, 48)) fun _ =>
      bad (2 * tdPitch dst != tdPitch src) (1, 461)
  | 2 =>
    orElse (bad (!((sl == 1 || sl == 2) && dl == 4 && tdRows src == tdRows dst && tdPlanes src == tdPlanes dst)) (0, 96))
      fun _ => bad (tdExt src 0 > tdPitch src) (1, 48)
  | 3 =>
    orElse (bad (!(sl == 0 && dl == 0 && se == de && (se == 0 || se == 2) && tdNdim src == 2)) (0, 96)) fun _ =>
    orElse (bad (tdExt src 1 % 4 != 0 || 2 * tdExt dst 0 != tdExt src 1) (1, 72)) fun _ =>
    bad (tdExt src 0 % 2 != 0 || tdExt dst 1 != 2 * tdExt src 0) (1, 48)
  | 4 =>
    orElse (bad (!(sl == 0 && dl == 0 && se == de && se < 2)) (0, 96)) fun _ =>
    orElse (bad (tdNdim src != 2) (1, 328)) fun _ =>
    orElse (bad (tdExt src 0 != 128) (1, 48)) fun _ =>
    orElse (bad (tdExt dst 0 != 128) (2, 48)) fun _ =>
    orElse (bad (tdStride dst 1 != 128) (2, 200)) fun _ =>
    bad (match tdOwn co dst with
      | some (st, _) => st != 2 || tdBase dst % 512 != 0
      | none => true) (2, 0)
  | 5 =>
    orElse (bad (!(sl == 0 && dl == 0 && se == de && se < 2)) (0, 96)) fun _ =>
    orElse (bad ((tdOwn co src).isNone) (1, 0)) fun _ =>
    bad (!(region (tdBase dst) == 3 || region (tdBase dst) == 0)) (2, 0)
  | _ => bad (region (tdBase src) != 0) (1, 0)

/-- Do the low `n` `PERM` fields form a permutation (R282)? -/
def permOk (d : Nat) : Bool :=
  let l := (List.range (tdNdim d)).map (tdPerm d)
  l.all (fun p => p < tdNdim d) && allDistinct l

/-- Extents paired by `PERM` (R282); the lowest source extent that differs from its pair. -/
def extPairs (src dst : Nat) (skip1 : Bool) : List Nat :=
  (List.range (tdNdim dst)).filterMap fun k =>
    if skip1 && k = 1 then none
    else if tdExt dst k != tdExt src (tdPerm dst k) then some (48 + 24 * tdPerm dst k) else none

/-- A compress in code form, which ignores the extents and strides of both sides but the source's `EXT0` (R294). -/
def codeCompress (fn dst : Nat) : Bool := fn == 1 && !(bitAt (tdFnMode dst) 1)

/-- Extents below `NDIM` that are 0, of a side whose first `n` extents count. -/
def zeroExts (n d : Nat) : List Nat :=
  (List.range (min n (tdNdim d))).filterMap fun k => if tdExt d k = 0 then some (48 + 24 * k) else none

/-- The descriptor checks of R280 in order. A zero-run side's extents are ignored (R289), and those of a compress or mask transpose
are compared by the function's own rule (R294, R296). -/
def moveCheck (co : Core) (fn eng src dst : Nat) : Option Named :=
  let code := codeCompress fn dst
  let free := fn == 1 || fn == 3 || tdLayout dst == 4
  orElse (firstIn 1 (if fn = 6 then sfEncodings src else tdEncodings src)) fun _ =>
  orElse (firstIn 2 (if fn = 6 then sfEncodings dst else tdEncodings dst)) fun _ =>
  if fn = 6 then
    orElse (fnCheck co fn eng src dst) fun _ =>
    orElse (firstIn 1 (tdRingPlace co src)) fun _ => firstIn 2 (tdRingPlace co dst)
  else
  orElse (firstIn 1 (zeroExts (if tdLayout src = 4 then 0 else if code then 1 else 5) src)) fun _ =>
  orElse (firstIn 2 (zeroExts (if tdLayout dst = 4 || code then 0 else 5) dst)) fun _ =>
  orElse (if tdNdim src != tdNdim dst then some (1, 328) else none) fun _ =>
  orElse (firstIn 1 (tdKinds co src)) fun _ =>
  orElse (firstIn 2 (tdKinds co dst)) fun _ =>
  orElse (fnCheck co fn eng src dst) fun _ =>
  orElse (if permOk dst then none else some (2, 344)) fun _ =>
  orElse (if free then none else firstIn 1 (extPairs src dst (fn == 4))) fun _ =>
  orElse (if code then none else firstIn 1 (tdBounds src)) fun _ =>
  orElse (if code then none else firstIn 2 (tdBounds dst)) fun _ =>
  orElse (firstIn 1 (tdRing co src)) fun _ => firstIn 2 (tdRing co dst)

/-- A zero stride in a write dimension whose extent exceeds 1 (R284), of a destination whose strides count (R289, R294, R348). -/
def aliasWrite (fn dst : Nat) : Bool :=
  fn != 6 && !(codeCompress fn dst) && tdLayout dst != 4 &&
  (List.range (tdNdim dst)).any fun k => tdStride dst k == 0 && tdExt dst k > 1

/-! ## Ranges (R300) -/

/-- A range of byte addresses, half open. -/
abbrev Range := Nat × Nat

/-- A byte range widened to rows in a store or a hoop, where ranges are compared by row (R300). -/
def rowRange (d : Nat) (r : Range) : Range :=
  if region (tdBase d) = 1 || region (tdBase d) = 3 then (r.1 / 512 * 512, cdiv r.2 512 * 512) else r

/-- Ranges of a side within partition addresses; a hoop side's are rows within its hoop. -/
def sideRanges (co : Core) (d : Nat) : List Range :=
  let base := tdBase d
  let rowBase := base / 512
  let kp := tdPitch d / 128
  let b := tdPlanes d
  let rlo := (minOff d).toNat / tdPitch d
  let rhi := (maxOff d).toNat / tdPitch d
  let rows := fun (lo hi : Nat) => [((rowBase + lo) * 512, (rowBase + hi + 1) * 512)]
  if tdRingLen d != 0 then
    match ownScratch co base, scratchOf base with
    | some (st, _), some (pl, _, _) =>
      [(scratchAddr pl st (tdRingFirst d), scratchAddr pl st (tdRingFirst d) + 512 * tdRingLen d)]
    | _, some (pl, st, _) =>
      [(scratchAddr pl st (tdRingFirst d), scratchAddr pl st (tdRingFirst d) + 512 * tdRingLen d)]
    | _, none => []
  else match tdLayout d with
    | 0 =>
      let n := tdElemBits d / 8
      [rowRange d (((base : Int) + n * minOff d).toNat, ((base : Int) + n * maxOff d).toNat + n)]
    | 1 => rows ((rlo / 32) * kp * b) (((rhi / 32) * kp + (kp - 1)) * b + (b - 1))
    | 2 => rows (rlo * cdiv (kp * b) 32) (rhi * cdiv (kp * b) 32 + (kp * b - 1) / 32)
    | 3 =>
      match ownScratch co base with
      | some (st, r) =>
        let across := tdPitch d / (16 * diagU d)
        let first := 16 * (rlo / 256 * across)
        let past := 16 * ((rhi / 256 + 1) * across)
        (List.range 16).map fun k =>
          (scratchAddr co.place st (bankRows st * k + r) + 512 * first, scratchAddr co.place st (bankRows st * k + r) + 512 * past)
      | none => []
    | 4 => rows 0 (cdiv (tdRows d) 32 * tdZrExt d - 1)
    | _ =>
      let cb := cdiv b 4
      let tr := cdiv (tdRows d) 32
      rows ((rlo / 32) * cb) (((tdPitch d / 32 - 1) * tr + rhi / 32) * cb + (cb - 1))

def rangesMeet (a b : List Range) : Bool := a.any fun x => b.any fun y => x.1 < y.2 && y.1 < x.2

/-- Ranges of a side whose extents a function ignores: every row of its matrix (R294, R295). -/
def wholeRanges (co : Core) (d : Nat) : List Range :=
  let kp := tdPitch d / 128
  let b := tdPlanes d
  let rows := fun (n : Nat) => [(tdBase d / 512 * 512, (tdBase d / 512 + n) * 512)]
  if tdRingLen d != 0 then sideRanges co d
  else match tdLayout d with
    | 1 => rows (cdiv (tdRows d) 32 * kp * b)
    | 2 => rows (tdRows d * cdiv (kp * b) 32)
    | _ => sideRanges co d

/-- The other module that a hoop side names; this module's own ID names none (R312, R408). -/
def sideModule (own : Option Half) (d : Nat) : Option Nat :=
  if tdRemote d && own.map (·.toNat) != some (tdModule d) then some (tdModule d) else none

/-- The ranges of the two sides of a move overlap (R300). A hoop side is compared only with a hoop side of the same module,
core and hoop. `own` is this module's ID, and `whole` says that the function ignores the extents of the code layouts. -/
def sidesOverlap (co : Core) (own : Option Half) (whole : Bool) (src dst : Nat) : Bool :=
  let ranges := fun (d : Nat) => if whole then wholeRanges co d else sideRanges co d
  let hs := region (tdBase src) == 3
  let hd := region (tdBase dst) == 3
  if hs != hd then false
  else if hs && (sideModule own src != sideModule own dst || hoopCore (tdBase src) != hoopCore (tdBase dst) ||
      hoopNum (tdBase src) != hoopNum (tdBase dst)) then false
  else rangesMeet (ranges src) (ranges dst)

/-- An in-place transpose (R301). -/
def isInPlace (co : Core) (fn src dst : Nat) : Bool :=
  fn == 0 && tdLayout src == 3 && tdLayout dst == 3 && tdEfmt src == 2 && tdEfmt dst == 2 &&
  (tdOwn co src).isSome && tdBase src == tdBase dst && tdPitch src == tdPitch dst && tdRows src == tdRows dst &&
  tdNdim src == 2 && tdNdim dst == 2 && tdExt src 0 == tdPitch src && tdExt src 1 == tdPitch src &&
  tdExt dst 0 == tdPitch src && tdExt dst 1 == tdPitch src && tdRows src == tdPitch src && tdPitch src % 256 == 0 &&
  tdStride src 0 == 1 && tdStride src 1 == tdPitch src && tdStride dst 0 == 1 && tdStride dst 1 == tdPitch dst &&
  tdPerm dst 0 == 1 && tdPerm dst 1 == 0

end Sys2Proof.Machine
end

