-- ==== Sys2Proof/Machine/Moves.lean ====
section
/-! DEFINITION. What moves do: the plan of a copy (R282, R293, R299, R301, R302), and the computing steps of compress,
zero-run store, mask transpose, scatter-add and selective fetch (R201, R202, R207, R216, R223 to R227, R294 to R297). -/

namespace Sys2Proof.Machine

/-! ## Plans -/

/-- A row that a plan reads or writes: one of the side, or one of the metadata rows or index rows that lie from an `AUX` on. -/
inductive PlanRow where
  | side (row : Int)
  | aux (row : Nat)
  deriving DecidableEq, Repr

/-- A span of a row that a plan reads: row, bit and number of bits. -/
abbrev Need := PlanRow × Nat × Nat

/-- A span of a buffered row: read number, bit and number of bits. -/
abbrev Taken := Nat × Nat × Nat

/-- A step of a plan before its rows are turned into accesses: the read of a row, the write of a row from pieces, the check of a mask
of metadata row `row` (R213), the entry of a scatter-add row (R216), or the tile of a zero-run store from the bits it takes. -/
inductive PlanStep where
  | rd (n : Nat) (row : PlanRow)
  | wr (row : PlanRow) (pieces : List Piece)
  | check (mask : Piece) (row detail : Nat)
  | enter (r : Nat) (index : Piece) (pieces : List Piece)
  | tile (t : Nat) (bits : List Taken)
  deriving DecidableEq, Repr

/-- What the plan carries from element to element: buffered rows with their read numbers, newest first (R302); the rows being
assembled (R299); the metadata rows of the tile; the steps so far, newest first; the next read number. -/
structure PlanAcc where
  buf : List (PlanRow × Nat)
  asm : List (Int × List Piece)
  masks : List (Int × List Piece)
  out : List PlanStep
  next : Nat

def PlanAcc.start : PlanAcc := { buf := [], asm := [], masks := [], out := [], next := 0 }

/-- Add a piece to a row, newest first; it extends the newest piece where it follows it without a gap on both sides. -/
def addPiece (ps : List Piece) (p : Piece) : List Piece :=
  match ps with
  | q :: t =>
    match q.srcs, p.srcs with
    | [(n, b, l)], [(n', b', l')] =>
      if q.conv == .same && p.conv == .same && n == n' && b + l == b' && q.dst + q.bits == p.dst && q.lo == 0 && p.lo == 0
          && q.bits == l && p.bits == l'
      then { q with bits := q.bits + p.bits, srcs := [(n, b, l + l')] } :: t else p :: ps
    | _, _ => p :: ps
  | [] => [p]

def asmAdd : List (Int × List Piece) → Int → Piece → List (Int × List Piece)
  | [], r, p => [(r, [p])]
  | (q, ps) :: t, r, p => if q = r then (q, addPiece ps p) :: t else (q, ps) :: asmAdd t r p

def flushAsm (a : PlanAcc) : PlanAcc :=
  { a with out := (a.asm.map fun e => PlanStep.wr (.side e.1) e.2.reverse).reverse ++ a.out, asm := [] }

def pushStep (a : PlanAcc) (st : PlanStep) : PlanAcc := { a with out := st :: a.out }

/-- The read number of a row, reading it when it is not buffered (R302); `cap` rows are kept. -/
def planRead (cap : Nat) (a : PlanAcc) (row : PlanRow) : PlanAcc × Nat :=
  match a.buf.find? (fun e => e.1 == row) with
  | some e => (a, e.2)
  | none => ({ a with buf := ((row, a.next) :: a.buf).take cap, out := PlanStep.rd a.next row :: a.out,
                      next := a.next + 1 }, a.next)

def planReads (cap : Nat) : PlanAcc → List Need → PlanAcc × List Taken
  | a, [] => (a, [])
  | a, s :: ss =>
    match planRead cap a s.1 with
    | (a, n) => match planReads cap a ss with
      | (a, l) => (a, (n, s.2.1, s.2.2) :: l)

def sideNeeds (ss : List Span) : List Need := ss.map fun s => (.side s.row, s.bit, s.bits)

/-- Place one part of an element: what it takes into its destination spans. -/
def placeParts (conv : Conv) (srcs : List Taken) : List Span → Nat → List (Int × List Piece) → List (Int × List Piece)
  | [], _, asm => asm
  | s :: ss, lo, asm =>
    let whole := conv == .same && lo == 0 && ss.isEmpty
    let p : Piece := { dst := s.bit, bits := s.bits, lo := if whole then 0 else lo, srcs := srcs, conv := conv }
    placeParts conv srcs ss (lo + s.bits) (asmAdd asm s.row p)

/-- The next element falls in the given rows: the rows being assembled are written when it is outside every one of them (R299). -/
def leaveRows (a : PlanAcc) (rows : List Int) : PlanAcc :=
  if !a.asm.isEmpty && rows.all (fun r => !(a.asm.any fun e => e.1 == r)) then flushAsm a else a

/-- One element of a copy, part by part. -/
def planElem (cap : Nat) (conv : Conv) (a : PlanAcc) (parts : List (List Span × List Span)) : PlanAcc :=
  parts.foldl (fun a p =>
    match planReads cap a (sideNeeds p.1) with
    | (a, srcs) => { a with asm := placeParts conv srcs p.2 0 a.asm })
    (leaveRows a (parts.flatMap fun p => p.2.map (·.row)))

/-- One element formed from what has been read. -/
def planValue (a : PlanAcc) (conv : Conv) (srcs : List Taken) (dst : List Span) : PlanAcc :=
  let a := leaveRows a (dst.map (·.row))
  { a with asm := placeParts conv srcs dst 0 a.asm }

def convOf (src dst : Nat) : Conv :=
  if tdEfmt src = tdEfmt dst then .same else if tdEfmt src = 0 then .f32ToBf16 else .bf16ToF32

/-- Steps of a copy over its elements in the order of R282. -/
def copySteps (src dst nbS nbD cap : Nat) : List PlanStep :=
  if tdLayout dst = 4 then
    (List.range (cdiv (tdRows dst) 32 * tdZrExt dst)).flatMap fun r =>
      [.rd r (.side r), .wr (.side r) [{ dst := 0, bits := 4096, lo := 0, srcs := [(r, 0, 4096)], conv := .same }]]
  else
    let step := fun (a : PlanAcc) (n : Nat) =>
      planElem cap (convOf src dst) a
        ((elemSpans src nbS (srcOff src dst n)).zip (elemSpans dst nbD (dstOff dst n)))
    (flushAsm ((List.range (elemCount dst)).foldl step .start)).out.reverse

/-- The spans of a plain element at indexes (i0, i1). -/
def plainSpans (d i0 i1 : Nat) : List Span :=
  byteSpans (((tdBase d % 512 : Nat) : Int) + (tdElemBits d / 8 : Nat) * (i0 * tdStride d 0 + i1 * tdStride d 1))
    (tdElemBits d / 8)

/-! ### Metadata rows (R195) -/

/-- Row of the metadata, counted from `AUX`, that holds the masks of column `n` in paired slice `h` of `np`. -/
def maskRow (np n h : Nat) : Nat := 2 * (n / 32 * np + h) + n % 32 / 16

/-- Bit at which a metadata row holds the mask of quad `y` (0 to 63) of column `n`. -/
def maskPos (n y : Nat) : Nat := 256 * (n % 16) + 4 * y

/-- The mask of quad `q` (of the K range) of column `n`, as what a plan reads. -/
def maskNeed (np n q : Nat) : Need := (.aux (maskRow np n (q / 64)), maskPos n (q % 64), 4)

/-- A mask of column `n` and quad `q` goes to its metadata row. -/
def placeMask (a : PlanAcc) (np n q : Nat) (conv : Conv) (srcs : List Taken) : PlanAcc :=
  let p : Piece := { dst := maskPos n (q % 64), bits := 4, lo := 0, srcs := srcs, conv := conv }
  { a with masks := asmAdd a.masks (maskRow np n (q / 64)) p }

def emptyRow : Piece := { dst := 0, bits := 4096, lo := 0, srcs := [], conv := .same }

/-- After the last column of a tile, its metadata rows are written, whole: masks that no column gives are 0. -/
def leaveTile (np n cols : Nat) (a : PlanAcc) : PlanAcc :=
  if n % 32 = 31 || n + 1 = cols then
    let rows := (List.range (2 * np)).map fun x => 2 * (n / 32 * np) + x
    { a with masks := [],
             out := (rows.map fun (i : Nat) => PlanStep.wr (.aux i) (emptyRow ::
               (match a.masks.find? fun e => e.1 == (i : Int) with
                | some e => e.2.reverse
                | none => []))).reverse ++ a.out }
  else a

/-! ### Compress, value form (R201, R294) -/

/-- One quad of one column: its four elements, and under fixed masks its mask, are read; the two kept values are placed. -/
def compressQuad (src dst cap n : Nat) (a : PlanAcc) (q : Nat) : PlanAcc :=
  let np := cdiv (tdExt src 0) 256
  let bits := tdElemBits src
  let fixed := bitAt (tdFnMode dst) 0
  match planReads cap a (((List.range 4).flatMap fun u => sideNeeds (plainSpans src (4 * q + u) n)) ++
      (if fixed then [maskNeed np n q] else [])) with
  | (a, srcs) =>
    let named := srcs.drop (srcs.length - 1)
    let mask : Piece := { dst := 0, bits := 4, lo := 0, srcs := if fixed then named else srcs,
                          conv := if fixed then .same else .nonzero bits }
    let a := pushStep a (.check mask (maskRow np n (q / 64)) 8)
    let a := (List.range 2).foldl (fun a sl =>
      planValue a (if fixed then .keepNamed bits sl else .keepNonzero bits sl) srcs (plainSpans dst (2 * q + sl) n)) a
    if fixed then a else placeMask a np n q (.nonzero bits) srcs

def compressSteps (src dst cap : Nat) : List PlanStep :=
  let np := cdiv (tdExt src 0) 256
  let cols := tdExt src 1
  let column := fun (a : PlanAcc) (n : Nat) =>
    let a := (List.range (tdExt src 0 / 4)).foldl (compressQuad src dst cap n) a
    if bitAt (tdFnMode dst) 0 then a else leaveTile np n cols a
  (flushAsm ((List.range cols).foldl column .start)).out.reverse

/-! ### Mask transpose (R202, R296) -/

/-- One quad of four columns at K position `k`: the masks and slots of the columns are read; the two kept values of Wᵀ and its mask
are placed. -/
def turnQuad (src dst cap k : Nat) (a : PlanAcc) (y : Nat) : PlanAcc :=
  let np := cdiv (2 * tdExt src 0) 256
  let npT := cdiv (tdExt src 1) 256
  let bits := tdElemBits src
  let cols := (List.range 4).map (4 * y + ·)
  match planReads cap a (cols.map fun n => maskNeed np n (k / 4)) with
  | (a, masks) =>
    let a := pushStep a (.check { dst := 0, bits := 4, lo := 0, srcs := masks, conv := .turnedMask (k % 4) }
      (maskRow np (4 * y) (k / 256)) 9)
    match (cols.zip masks).foldl (fun x e =>
        match planReads cap x.1 ((List.range 2).flatMap fun sl => sideNeeds (plainSpans src (2 * (k / 4) + sl) e.1)) with
        | (a, l) => (a, x.2 ++ l ++ [e.2])) (a, ([] : List Taken)) with
    | (a, srcs) =>
      let a := (List.range 2).foldl (fun a sl =>
        planValue a (.turned bits (k % 4) sl) srcs (plainSpans dst (2 * y + sl) k)) a
      placeMask a npT k y (.turnedMask (k % 4)) masks

def transposeSteps (src dst cap : Nat) : List PlanStep :=
  let kk := 2 * tdExt src 0
  let row := fun (a : PlanAcc) (k : Nat) =>
    leaveTile (cdiv (tdExt src 1) 256) k kk ((List.range (tdExt src 1 / 4)).foldl (turnQuad src dst cap k) a)
  (flushAsm ((List.range kk).foldl row .start)).out.reverse

/-! ### Zero-run store (R207, R295) and scatter-add (R216, R297) -/

/-- The tiles of a zero-run store: the codes of each are read matrix row by matrix row, with K fastest, as R282 has dimension 0. -/
def zeroRunSteps (src cap : Nat) : List PlanStep :=
  let tile := fun (a : PlanAcc) (t : Nat) =>
    match planReads cap a ((List.range (min 32 (tdRows src - 32 * t))).flatMap fun m =>
        (List.range (tdExt src 0)).flatMap fun x => (List.range (tdPlanes src)).flatMap fun i =>
          sideNeeds [codeSpan src (32 * t + m) x i]) with
    | (a, l) => pushStep a (.tile t l)
  ((List.range (cdiv (tdRows src) 32)).foldl tile .start).out.reverse

/-- The bits that tile `t` of a zero-run store takes, in order of matrix row, K position and plane. -/
def tileBits (src cap t : Nat) : List Taken :=
  ((zeroRunSteps src cap).findSome? fun st => match st with
    | .tile t' l => if t' = t then some l else none
    | _ => none).getD []

/-- Rows of a scatter-add: the index and the 128 elements of each. -/
def scatterSteps (src dst cap : Nat) : List PlanStep :=
  let row := fun (a : PlanAcc) (r : Nat) =>
    match planReads cap a ((byteSpans ((tdAux dst % 512 + 4 * r : Nat) : Int) 4).map fun s => (.aux s.row.toNat, s.bit, s.bits)) with
    | (a, idx) =>
      match (List.range 128).foldl (fun (x : PlanAcc × List Piece) k =>
          match planReads cap x.1 (sideNeeds (plainSpans src k r)) with
          | (a, l) => (a, x.2 ++ [{ dst := 32 * k, bits := 32, lo := 0, srcs := l, conv := .same }])) (a, []) with
      | (a, ps) => pushStep a (.enter r { dst := 0, bits := 32, lo := 0, srcs := idx, conv := .same } ps)
  ((List.range (tdExt src 1)).foldl row .start).out.reverse

/-! ### Accesses of a plan -/

/-- Mask of the 64-byte words that a bit span touches. -/
def spanWords (bit bits : Nat) : Nat := maskOf (idxs 8 fun x => bit < 512 * (x + 1) && 512 * x < bit + bits)

/-- What a step takes from buffered rows. -/
def takenBy : PlanStep → List Taken
  | .rd _ _ => []
  | .wr _ ps => ps.flatMap (·.srcs)
  | .check p _ _ => p.srcs
  | .enter _ p ps => p.srcs ++ ps.flatMap (·.srcs)
  | .tile _ l => l

/-- Words of read number `n` that the plan's steps draw on (R601). -/
def usedOf (steps : List PlanStep) (n : Nat) : Nat :=
  steps.foldl (fun m st => (takenBy st).foldl (fun m x => if x.1 = n then m ||| spanWords x.2.1 x.2.2 else m) m) 0

def writesRow (r : PlanRow) : PlanStep → Bool
  | .wr q _ => q == r
  | _ => false

/-- The row of a store of the core, or of a partition address. -/
def locOfAddr (co : Core) (a : Nat) : Loc :=
  match ownScratch co a with
  | some (st, r) => .own st r
  | none => .addr (a / 512)

/-- Location of metadata row or index row `i` from an `AUX`. -/
def metaLoc (co : Core) (aux i : Nat) : Loc := locOfAddr co (aux + 512 * i)

/-- Where a row of a plan lies on side `d`, its metadata or index rows from `aux` on. -/
def planLoc (co : Core) (d aux : Nat) : PlanRow → Loc
  | .side r => sideLoc co d r
  | .aux i => metaLoc co aux i

/-- Accesses of a plan: `before` holds the steps already turned, for the first part of a row (R272). Metadata and index rows are read
raw from `auxRd` on (log 15) and written from the destination's `AUX` on. -/
def stepsToMicros (co : Core) (src dst auxRd : Nat) (all : List PlanStep) : List PlanStep → List PlanStep → List Micro
  | _, [] => []
  | before, st :: rest =>
    (match st with
     | .rd n row => [Micro.rd n (planLoc co src auxRd row) (match row with
         | .side _ => rdModeOf (tdTagRd src)
         | .aux _ => .raw) (usedOf all n) false]
     | .wr row ps => [Micro.wr (planLoc co dst (tdAux dst) row) (wrModeOf (tdTagWr dst)) ps
         (!(before.any (writesRow row))) (!(rest.any (writesRow row)))]
     | .check p row detail => [.check p (auxRd / 512 * 512 + 512 * row) detail]
     | .enter r p ps => [.enter r p ps]
     | .tile t _ => .calc .zrStore t :: ((List.range (tdZrExt dst)).map fun r => Micro.wrOut r (wrModeOf (tdTagWr dst))) ++
         [.calc .zrStore (cdiv (tdRows src) 32 + t)]) ++
    stepsToMicros co src dst auxRd all (st :: before) rest

/-- Pieces that transpose the 16 × 16 BF16 elements of a unit (R301). -/
def transposePieces (n : Nat) : List Piece :=
  (List.range 256).map fun k =>
    { dst := 16 * k, bits := 16, lo := 0, srcs := [(n, 16 * ((k % 16) * 16 + k / 16), 16)], conv := .same }

/-- The plan of an in-place transpose: unit pairs in ascending block, i and j, each pair once, read under the source's `TAG_RD` and
left as the destination's `TAG_WR` has it (R298, R301). -/
def inPlacePlan (co : Core) (src dst nb : Nat) : List Micro :=
  let nblk := tdPitch src / 256
  let rdm := rdModeOf (tdTagRd src)
  let wrm := if tdTagWr dst = 2 then WrMode.heldRaw else WrMode.held
  (List.range (nblk * nblk)).flatMap fun blk =>
    let bi := blk / nblk
    let bj := blk % nblk
    let mirror := bj * nblk + bi
    (List.range 256).flatMap fun u =>
      let i := u / 16
      let j := u % 16
      let a := sideLoc co src (diagRow nb blk i j)
      let b := sideLoc co src (diagRow nb mirror j i)
      let n := 2 * (blk * 256 + u)
      if blk < mirror || (blk = mirror && i < j) then
        [.rd n a rdm 255 true, .rd (n + 1) b rdm 255 true, .wr b wrm (transposePieces n) true true,
         .wr a wrm (transposePieces (n + 1)) true true, .calc .inPlace n]
      else if blk = mirror && i = j then
        [.rd n a rdm 255 true, .wr a wrm (transposePieces n) true true, .calc .inPlace n]
      else []

/-! ## Rows fetched by computing steps -/

/-- A number for a place, as a key of the operation's buffer. -/
def locKey (co : Core) : Loc → Nat
  | .own st r => scratchAddr co.place st r / 512
  | .addr r => r
  | .hoop _ c h r => hoopAddr c h r / 512

/-- The physical row of a place that is no hoop. -/
def physOf (s : State) (c : Nat) : Loc → Option Nat
  | .own st r => some (storeRow c st r)
  | .addr r => match translate s c (r * 512) false with
    | .ok row => some row
    | _ => none
  | .hoop _ _ _ _ => none

/-- The bad words of a place as a read of it finds them: those with a new uncorrectable error, and all (R321). -/
def badWords (s : State) (c : Nat) (loc : Loc) : Nat × Nat :=
  match physOf s c loc with
  | some row => (manyOf s row, manyOf s row ||| poisonOf s row)
  | none => (0, 0)

inductive Got where
  | ok (s : State) (j : Job) (rows : List Nat)
  | wait (s : State) (j : Job) (w : Wait)
  | fault (s : State) (j : Job) (b : Bad)

/-- Fetch rows, each from the operation's buffer or by a read; rows already fetched stay buffered across a wait. A word that failed
when its row was read faults the operation when it is first used (R321, R601). At the die DMA engine each row read takes its turn
(R307). -/
def fetch (w : Who) : State → Job → List (Loc × RdMode × Nat) → Got
  | s, j, [] => .ok s j []
  | s, j, (loc, mode, used) :: rest =>
    let co := getCore s w.core
    let key := locKey co loc
    match j.work.buf.find? (fun e => e.1 == key) with
    | some e =>
      let bad := tget j.work.bad key (0, 0)
      if bad.2 &&& used != 0 then
        .fault (match physOf s w.core loc with
          | some row => logWords s row (bad.2 &&& used)
          | none => s) j
          { code := if bad.1 &&& used != 0 then cEcc else cPoison, unit := unitCode w.unit w.eng false, addr := locAddr co loc,
            detail := bad.2 &&& used }
      else match fetch w s j rest with
        | .ok s j ds => .ok s j (leNat e.2 :: ds)
        | x => x
    | none =>
      match readLoc s w loc mode used with
      | .wait x => .wait s j x
      | .fault s b => .fault s j b
      | .ok s1 data =>
        let j := { j with work := { j.work with buf := (key, data) :: j.work.buf,
                                                bad := tput j.work.bad key (badWords s w.core loc) } }
        if w.unit == .dieDma then .wait s1 j { kind := .turn, addr := 0 }
        else match fetch w s1 j rest with
          | .ok s j ds => .ok s j (leNat data :: ds)
          | x => x

/-- The end of a unit of work: the newest 32 rows stay in the buffer (R302), 512 at the die DMA engine (R307). -/
def trimBuf (w : Who) (j : Job) : Job :=
  { j with work := { j.work with buf := j.work.buf.take (if w.unit == .dieDma then 512 else 32) } }

def setOuts (j : Job) (outs : List OutRow) : Job :=
  { j with work := { j.work with outs := outs.zipIdx.map fun e => (e.2, e.1) } }

/-- A value placed in a row: data and byte mask of rows, in the order first touched; a later value wins. -/
def placeVal : List (Int × Nat × Nat) → Int → Nat → Nat → Nat → List (Int × Nat × Nat)
  | [], r, bit, bits, v => [(r, (v % 2 ^ bits) <<< bit, (2 ^ (bits / 8) - 1) <<< (bit / 8))]
  | (q, d, m) :: t, r, bit, bits, v =>
    if q = r then
      (q, (d ^^^ (d &&& ((2 ^ bits - 1) <<< bit))) ||| ((v % 2 ^ bits) <<< bit), m ||| ((2 ^ (bits / 8) - 1) <<< (bit / 8))) :: t
    else (q, d, m) :: placeVal t r bit bits v

def placeSpans : List (Int × Nat × Nat) → List Span → Nat → List (Int × Nat × Nat)
  | rows, [], _ => rows
  | rows, s :: ss, v => placeSpans (placeVal rows s.row s.bit s.bits v) ss (v >>> s.bits)

/-- An element read from fetched rows. -/
def elemFrom (rows : List (Int × Nat)) : List Span → Nat
  | [] => 0
  | s :: ss =>
    (match rows.find? (fun e => e.1 == s.row) with
     | some e => fld e.2 s.bit s.bits
     | none => 0) + (elemFrom rows ss <<< s.bits)

/-- Rows that a list of spans touches, each once, with the words used. -/
def spanRows (ss : List Span) : List (Int × Nat) :=
  ss.foldl (fun acc s =>
    if acc.any (fun e => e.1 == s.row) then
      acc.map fun e => if e.1 == s.row then (e.1, e.2 ||| spanWords s.bit s.bits) else e
    else acc ++ [(s.row, spanWords s.bit s.bits)]) []

/-- The buffered row of a read number, as a number. -/
def boughtRow (j : Job) (n : Nat) : Nat := leNat (tget j.work.buf n [])

/-- What a plan has taken from buffered rows, low bits first. -/
def takenValue (buf : Tbl (List Byte)) (l : List Taken) : Nat :=
  (l.foldl (fun (acc : Nat × Nat) x => (acc.1 + (fld (leNat (tget buf x.1 [])) x.2.1 x.2.2 <<< acc.2), acc.2 + x.2.2)) (0, 0)).1

/-! ## Compress, code form (R201, R294) -/

/-- The two metadata rows of 32 columns from their masks: `mask n y` for column n and quad y. -/
def metaRow (r : Nat) (mask : Nat → Nat → Nat) : List Byte :=
  (List.range 512).map fun x =>
    let n := 16 * r + x / 32
    let y := 2 * (x % 32)
    BitVec.ofNat 8 (mask n y + 16 * mask n (y + 1))

def outRow (loc : Loc) (data : List Byte) : OutRow :=
  { loc := loc, data := data, mask := wholeMask, first := true, last := true }

/-- A plane row from the bits of its 32 lines. -/
def planeRow (line : Nat → Nat) : List Byte := (List.range 32).flatMap fun n => leBytes 16 (line n)

/-- The bits at the named positions, packed. -/
def gatherAt (ps : List Nat) (bit : Nat → Bool) : Nat :=
  ps.zipIdx.foldl (fun acc e => if bit e.1 then acc ||| (1 <<< e.2) else acc) 0

/-- Words of a row that columns `lo` to `hi - 1` use, at `bytes` bytes a column from the row's first byte. -/
def colWords (bytes lo hi : Nat) : Nat := maskOf (idxs 8 fun x => bytes * lo < 64 * (x + 1) && 64 * x < bytes * hi)

/-- Paired slices of a code-form compress, and columns of its tile `t`. -/
def codeSlices (src : Nat) : Nat := cdiv (tdExt src 0) 256
def codeCols (src t : Nat) : Nat := min 32 (tdRows src - 32 * t)

/-- The rows that code-form compress reads for tile t and paired slice h, as `k = t × slices + h`: the planes of both slices, and
under fixed masks the metadata rows. Read `32 k + i` brings row i of the list. -/
def compressReads (co : Core) (src dst k : Nat) : List Micro :=
  let t := k / codeSlices src
  let h := k % codeSlices src
  let b := tdPlanes src
  let row := fun (sl i : Nat) => sideLoc co src ((t * (tdPitch src / 128) + sl) * b + i : Nat)
  let plane := fun (sl : Nat) => (List.range b).map fun i => (row sl i, rdModeOf (tdTagRd src), colWords 16 0 (codeCols src t))
  let rows := plane (2 * h) ++ (if tdExt src 0 ≤ 256 * h + 128 then [] else plane (2 * h + 1)) ++
    (if bitAt (tdFnMode dst) 0 then (List.range 2).map fun r =>
      (metaLoc co (tdAux dst) (2 * k + r), RdMode.raw, colWords 32 0 (codeCols src t - 16 * r)) else [])
  rows.zipIdx.map fun e => .rd (32 * k + e.2) e.1.1 e.1.2.1 e.1.2.2 false

/-- Code form, tile t and paired slice h, as `k = t × slices + h`. -/
def compressCode (s : State) (w : Who) (j : Job) (k : Nat) : Mid :=
  let src := j.descA
  let dst := j.descB
  let co := getCore s w.core
  let kk := tdExt src 0
  let np := codeSlices src
  let t := k / np
  let h := k % np
  let b := tdPlanes src
  let fixed := bitAt (tdFnMode dst) 0
  let in0 := min 128 (kk - 256 * h)
  let in1 := min 128 (kk - (256 * h + 128))
  let quads := (in0 + in1) / 4
  let cols := codeCols src t
  let row := fun (i : Nat) => boughtRow j (32 * k + i)
  let bits := fun (i n : Nat) =>
    (fld (row i) (128 * n) 128 + (if in1 = 0 then 0 else fld (row (b + i)) (128 * n) 128 <<< 128)) &&& posMask 0 (in0 + in1)
  let nz := fun (n : Nat) => (List.range b).foldl (fun m i => m ||| bits i n) 0
  let metas := (List.range 2).map fun r => leBytes 512 (row ((if in1 = 0 then b else 2 * b) + r))
  let mask := fun (n y : Nat) =>
    if n ≥ cols || y ≥ quads then 0 else if fixed then quadMask metas n y else fld (nz n) (4 * y) 4
  match (List.range cols).find? fun n => (List.range quads).any fun y => badMask (mask n y) with
  | some n =>
    .fault s j { code := cSparse, unit := unitCode w.unit w.eng false, detail := 8,
                 addr := locAddr co (metaLoc co (tdAux dst) (2 * k + n / 16)) }
  | none =>
    let slots := fun (n : Nat) => (List.range quads).flatMap fun y =>
      ((maskBits (mask n y)).take 2).zipIdx.map fun e => (2 * y + e.2, 4 * y + e.1)
    let outs := (List.range b).map fun i =>
      outRow (sideLoc co dst ((t * (tdPitch dst / 128) + h) * b + i : Nat))
        (planeRow fun n => if n < cols then gatherBits (slots n) (bits i n) else 0)
    let mouts := if fixed then [] else
      (List.range 2).map fun r => outRow (metaLoc co (tdAux dst) (2 * k + r)) (metaRow r mask)
    .ok s (setOuts j (outs ++ mouts))

/-! ## Zero-run store (R207, R295) -/

/-- A run block under construction: where it begins, its codes and kept positions, newest first, and its cursor. -/
structure RunAcc where
  base : Nat
  codes : List Nat
  kept : List Nat
  cur : Nat

abbrev RunOut := Nat × List Nat × List Nat × Bool

def runClose (a : RunAcc) (last : Bool) : RunOut := (a.base, a.codes.reverse, a.kept.reverse, last)

/-- Emit one code; a block that holds 672 codes closes first (R207). -/
def runCode (a : RunAcc) (out : List RunOut) (c : Nat) (keep : Option Nat) (adv : Nat) : RunAcc × List RunOut :=
  let full := a.codes.length ≥ 672
  let a' := if full then { base := a.cur, codes := [], kept := [], cur := a.cur } else a
  let out' := if full then runClose a false :: out else out
  ({ a' with codes := c :: a'.codes, kept := keep.toList ++ a'.kept, cur := a'.cur + adv }, out')

/-- Codes of a gap of `n` zero positions before kept position `p`, `fuel` continuation codes at most. -/
def runGap : Nat → RunAcc → List RunOut → Nat → Nat → RunAcc × List RunOut
  | 0, a, out, _, _ => (a, out)
  | fuel + 1, a, out, n, p =>
    if n ≤ 62 then runCode a out n (some p) (n + 1)
    else
      match runCode a out 63 none 63 with
      | (a, out) => runGap fuel a out (n - 63) p

/-- Blocks of a tile from its kept positions (R203, R207): a block closes when it holds 128 kept positions, and at the end
of the K range with `LAST`. Newest first. -/
def runBlocks (k : Nat) : List Nat → RunAcc → List RunOut → List RunOut
  | [], a, out => runClose a true :: out
  | p :: ps, a, out =>
    match runGap (k / 63 + 1) a out (p - a.cur) p with
    | (a, out) =>
      if a.kept.length ≥ 128 && a.cur < k then
        runBlocks k ps { base := a.cur, codes := [], kept := [], cur := a.cur } (runClose a false :: out)
      else runBlocks k ps a out

/-- The code row of a block (R204). -/
def codeRow (b : RunOut) : List Byte :=
  let bits := b.2.1.zipIdx.foldl (fun acc e => acc + (e.1 <<< (6 * e.2))) 0
  leBytes 504 bits ++ leBytes 2 b.2.1.length ++ leBytes 1 b.2.2.1.length ++ leBytes 1 (if b.2.2.2 then 1 else 0) ++
    leBytes 4 b.1

/-- One tile of a zero-run store; the second call for the tile, `k ≥ tiles`, faults when its blocks did not fit. -/
def zrStore (s : State) (w : Who) (j : Job) (k : Nat) : Mid :=
  let src := j.descA
  let dst := j.descB
  let co := getCore s w.core
  let tiles := cdiv (tdRows src) 32
  if k ≥ tiles then
    if nth j.work.nums 0 0 = 1 then
      .fault s j { code := cSparse, unit := unitCode w.unit w.eng false, detail := 7,
                   addr := locAddr co (sideLoc co dst ((k - tiles) * tdZrExt dst : Nat)) }
    else .ok s j
  else
    let b := tdPlanes src
    let kk := tdExt src 0
    let mrows := min 32 (tdRows src - 32 * k)
    let l := tileBits src (if w.unit == .dieDma then 512 else 32) k
    let bit := fun (m x i : Nat) => takenValue j.work.buf [nth l ((m * kk + x) * b + i) (0, 0, 0)] == 1
    let kept := (List.range kk).filter fun x => (List.range mrows).any fun m => (List.range b).any fun i => bit m x i
    let blocks := (runBlocks kk kept { base := 0, codes := [], kept := [], cur := 0 } []).reverse
    let fit := tdZrExt dst / (1 + b)
    let outs := ((blocks.take fit).map fun blk =>
      codeRow blk :: (List.range b).map fun i =>
        planeRow fun m => if m < mrows then gatherAt blk.2.2.1 (fun x => bit m x i) else 0).flatten
    let outRows := outs.zipIdx.map fun e => outRow (sideLoc co dst (k * tdZrExt dst + e.2 : Nat)) e.1
    let j := setOuts j outRows
    .ok s { j with work := { j.work with nums := [if blocks.length > fit then 1 else 0] } }

/-! ## Scatter-add (R216, R219, R220, R297) -/

/-- Enter source row `r`, with data `data`, into the conflict queue of its destination row, that of index `v`. An index outside the
range faults once the rows with earlier indices are applied (R216). -/
def scatterRow (s : State) (w : Who) (j : Job) (r v : Nat) (data : List Byte) : Mid :=
  let dst := j.descB
  let co := getCore s w.core
  let ia := tdAux dst + 4 * r
  let idx := signed 32 v
  if idx < 0 || idx ≥ (tdExt dst 1 : Nat) then
    if co.cq.any fun e => e.owner == .scatter w.idx then .wait s j { kind := .slot, addr := ia }
    else .fault s j { code := cSparse, unit := unitCode w.unit w.eng false, addr := ia, detail := 10 }
  else
    match sideLoc co dst idx with
    | .own 2 row =>
      match ownMiss s w 2 row with
      | some key => .wait s j { kind := .translation, addr := key }
      | none =>
        if !(queueRoom co row) then .wait s j { kind := .slot, addr := scratchAddr co.place 2 row }
        else
          let phys := storeRow w.core 2 row
          let s := modCore s w.core fun co =>
            { (if heldByOther co phys w.unit w.idx then co else addHold co phys w.unit w.idx) with
              cq := co.cq ++ [{ row := row, data := data, isInt := tdEfmt dst == 1, owner := .scatter w.idx }] }
          .ok s { j with sent := j.sent + 1 }
    | l => .fault s j { code := cXlate, unit := unitCode w.unit w.eng true, addr := locAddr co l, detail := 0 }

/-! ## Selective fetch (R223 to R227, R348) -/

def sfStride (b : Nat) : Nat := fld b 0 32
def sfLen (b : Nat) : Nat := fld b 32 24
def sfRows (b : Nat) : Nat := fld b 56 24
def sfIdx (b : Nat) : Nat := fld b 80 48
def sfForm (b : Nat) : Bool := bitAt b 128
def sfCount (b : Nat) : Nat := fld b 129 16
def sfShape (b : Nat) : Nat := fld b 145 2
def sfPlanes (b : Nat) : Nat := fld b 147 3 + 1

/-- The tests of R223 and R224 on the block; position of the field named. -/
def sfCheck (co : Core) (b : Nat) : Option Nat :=
  let bad := fun (c : Bool) (p : Nat) => if c then [p] else []
  minPos (bad (sfStride b % 512 != 0 || sfStride b < sfLen b) 0 ++
    bad (sfLen b < 512 || sfLen b > 16776704 || sfLen b % 512 != 0 || (sfShape b == 1 && sfLen b > 8192) ||
      (sfShape b == 2 && sfLen b > 2048)) 32 ++
    bad (sfRows b == 0) 56 ++ bad (sfCount b == 0) 129 ++ bad (sfShape b == 3) 145 ++
    bad (!(structAddrOk co 1 (sfIdx b))) 80 ++ (lowBit 106 150 (b >>> 150)).toList)

/-- Position of index `q` of the list (R223). -/
def sfIdxAddr (b q : Nat) : Nat := sfIdx b + (if sfForm b then 8 * q + 4 else 4 * q)

/-- Fetch index `q`; the index, checked under R213. -/
inductive IdxGot where
  | ok (s : State) (j : Job) (i : Nat)
  | wait (s : State) (j : Job) (w : Wait)
  | fault (s : State) (j : Job) (b : Bad)

def sfIndex (s : State) (w : Who) (j : Job) (b q : Nat) : IdxGot :=
  let a := sfIdxAddr b q
  match fetch w s j [(locOfAddr (getCore s w.core) a, RdMode.raw, 1 <<< (a % 512 / 64))] with
  | .wait s j x => .wait s j x
  | .fault s j b => .fault s j b
  | .ok s j ds =>
    let i := signed 32 (fld (nth ds 0 0) (8 * (a % 512)) 32)
    if i < 0 || i ≥ (sfRows b : Nat) then
      .fault s j { code := cSparse, unit := unitCode w.unit w.eng false, addr := a, detail := 11 }
    else .ok s j i.toNat

def sfIndexes (w : Who) (b : Nat) : State → Job → List Nat → Got
  | s, j, [] => .ok s j []
  | s, j, q :: qs =>
    match sfIndex s w j b q with
    | .wait s j x => .wait s j x
    | .fault s j b => .fault s j b
    | .ok s j i => match sfIndexes w b s j qs with
      | .ok s j is => .ok s j (i :: is)
      | x => x

/-- Rows that hold `n` bytes of the table from an address, with the words that the bytes lie in (R601). -/
def addrRows (co : Core) (a n : Nat) : List (Loc × RdMode × Nat) :=
  (List.range ((a + n - 1) / 512 - a / 512 + 1)).map fun k =>
    (locOfAddr co ((a / 512 + k) * 512), RdMode.raw, colWords 1 (a - (a / 512 + k) * 512) (a + n - (a / 512 + k) * 512))

def bytesOf (a n : Nat) (rows : List Nat) : Nat :=
  fld (rows.zipIdx.foldl (fun acc e => acc + (e.1 <<< (4096 * e.2))) 0) (8 * (a % 512)) (8 * n)

/-- Destination rows that chunk `x` of a run of 512-byte chunks completes, the last chunk when `final`, and what it leaves of its row
for the next: the rows are assembled from the row of the base on (R299). `tail` is what the chunk before left. -/
def chunkOuts (co : Core) (dst x v tail : Nat) (final : Bool) : List OutRow × Nat :=
  let o := tdBase dst % 512
  let left := v >>> (8 * (512 - o))
  let row := fun (k data mask : Nat) =>
    ({ loc := sideLoc co dst (k : Nat), data := leBytes 512 data, mask := mask, first := true, last := true } : OutRow)
  (row x (tail + (v <<< (8 * o)) % 2 ^ 4096) (if x = 0 then wholeMask ^^^ (2 ^ o - 1) else wholeMask) ::
    (if final && o != 0 then [row (x + 1) left (2 ^ o - 1)] else []), left)

/-- One unit of a selective fetch: shape 0, 512 bytes of one selected row; shapes 1 and 2, a block of selected rows. -/
def selective (s : State) (w : Who) (j : Job) (k : Nat) : Mid :=
  let co := getCore s w.core
  let dst := j.descB
  let table := tdBase j.descA
  let blk := nth j.work.nums 0 0
  let len := sfLen blk
  let b := sfPlanes blk
  if sfShape blk = 0 then
    let per := len / 512
    let q := k / per
    let c := k % per
    match sfIndex s w j blk q with
    | .wait s j x => .wait s j x
    | .fault s j bad => .fault s j bad
    | .ok s j i =>
      let a := table + i * sfStride blk + 512 * c
      match fetch w s j (addrRows co a 512) with
      | .wait s j x => .wait s j x
      | .fault s j bad => .fault s j bad
      | .ok s j ds =>
        match chunkOuts co dst k (bytesOf a 512 ds) (nth j.work.nums 1 0) (k + 1 == sfCount blk * per) with
        | (outs, left) =>
          let j := trimBuf w (setOuts j outs)
          .ok s { j with work := { j.work with nums := [blk, left] } }
  else
    let size := if sfShape blk = 1 then 32 else 128
    let qs := (List.range size).filterMap fun x => if size * k + x < sfCount blk then some (size * k + x) else none
    match sfIndexes w blk s j qs with
    | .wait s j x => .wait s j x
    | .fault s j bad => .fault s j bad
    | .ok s j is =>
      let addrs := is.map fun i => table + i * sfStride blk
      match fetch w s j (addrs.flatMap fun a => addrRows co a len) with
      | .wait s j x => .wait s j x
      | .fault s j bad => .fault s j bad
      | .ok s j ds =>
        let span := fun (x : Nat) =>
          (addrs.take x).foldl (fun n a => n + ((a + len - 1) / 512 - a / 512 + 1)) 0
        let row := fun (x : Nat) => bytesOf (nth addrs x 0) len (ds.drop (span x))
        let rows := (List.range is.length).map row
        if sfShape blk = 1 then
          let ns := len / (16 * b)
          let outs := (List.range (ns * b)).map fun m =>
            outRow (sideLoc co dst (k * ns * b + m : Nat)) (planeRow fun n => fld (nth rows n 0) (128 * m) 128)
          .ok s (trimBuf w (setOuts j outs))
        else
          let nt := len / (4 * b)
          let ns := cdiv (sfCount blk) 128
          let outs := (List.range nt).flatMap fun t => (List.range b).map fun i =>
            outRow (sideLoc co dst ((t * ns + k) * b + i : Nat))
              (planeRow fun n => gatherAt (List.range rows.length) fun q => bitAt (nth rows q 0) (8 * 4 * (t * b + i) + n))
          .ok s (trimBuf w (setOuts j outs))

/-! ## Start of a move -/

/-- Rows of the issuing core's stores that a plan writes (R102). -/
def writtenOwn (ms : List Micro) : List (Nat × Nat) :=
  ms.filterMap fun m => match m with
    | .wr (.own st r) _ _ _ _ => some (st, r)
    | _ => none

/-- Dies that hold a core of the partition. -/
def partDies (s : State) (part : Nat) : List Nat :=
  match getPart s part with
  | some p => (p.places.map fun e => dieOf e.2).dedup
  | none => []

/-- The tests of a reduce contribution's destination (R113, R346, R347): code and position within the destination descriptor. DEDUCED:
a hoop of another module is refused, since a die reducer is no sending engine of R396 and no remote source of R249 (log 86). -/
def redCheck (s : State) (part dst : Nat) : Option (Nat × Nat) :=
  let aux := tdAux dst
  let op := fld aux 8 2
  let dies := fld aux 17 16
  let held := partDies s part
  let field := fun (p : Nat) => some (cLayerField, 409 + p)
  if (sideModule s.moduleId dst).isSome then some (cLayerField, 359)
  else match minPos ((if op = 3 then [8] else []) ++ (if fld aux 11 6 = 0 || fld aux 11 6 > 56 then [11] else []) ++
      (lowBit 15 33 (aux >>> 33)).toList) with
  | some p => field p
  | none =>
    if (op = 1 || op = 2) && dies != 0 then field 8
    else if (op = 1 || op = 2) && held.length > 1 then some (cProt, 0)
    else if (idxs 16 (bitAt dies)).any (fun d => !(held.contains d)) then some (cProt, 0)
    else none

/-- Micro-operations of a move function. -/
def movePlan (co : Core) (w : Who) (fn src dst blk : Nat) : List Micro :=
  let cap := if w.unit == .dieDma then 512 else 32
  let nb := fun (d : Nat) => match tdOwn co d with
    | some (st, _) => bankRows st
    | none => 128
  let run := fun (auxRd : Nat) (steps : List PlanStep) => stepsToMicros co src dst auxRd steps [] steps
  match fn with
  | 1 =>
    if codeCompress fn dst then
      (List.range (cdiv (tdRows src) 32 * codeSlices src)).flatMap fun k => compressReads co src dst k ++ .calc .compress k ::
        (List.range (tdPlanes src + 2)).map fun r => .wrOut r (wrModeOf (tdTagWr dst))
    else run (tdAux dst) (compressSteps src dst cap)
  | 2 => run 0 (zeroRunSteps src cap)
  | 3 => run (tdAux src) (transposeSteps src dst cap)
  | 4 => run (tdAux dst) (scatterSteps src dst cap)
  | 6 =>
    let units := if sfShape blk = 0 then sfCount blk * (sfLen blk / 512)
      else if sfShape blk = 1 then cdiv (sfCount blk) 32 else cdiv (sfCount blk) 128
    let outs := if sfShape blk = 0 then 2
      else if sfShape blk = 1 then sfLen blk / 16 else sfLen blk / 4
    (List.range units).flatMap fun k => .calc .selective k ::
      (List.range outs).map fun r => .wrOut r (wrModeOf (tdTagWr dst))
  | _ =>
    if isInPlace co fn src dst then inPlacePlan co src dst (nb src)
    else run 0 (copySteps src dst (nb src) (nb dst) cap)

/-- A side named by a scratchpad address that is not the issuing core's, or metadata rows that lie there: the code and the address. A
store of another core of the partition is `PROT_FAULT` (R306); an address in no store of the partition is `XLATE_FAULT` (R314). -/
def foreignSide (s : State) (co : Core) (fn src dst : Nat) : Option (Nat × Nat) :=
  let other := fun (a : Nat) =>
    if region a == 1 && (ownScratch co a).isNone then
      some (match tableLookup s co.part a false with
        | .bad code => code
        | _ => cProt, a)
    else none
  [some (tdBase src), some (tdBase dst), (if fn = 3 then some (tdAux src) else none),
   (if fn = 1 || fn = 3 then some (tdAux dst) else none)].findSome? fun a => a.bind other

/-- Destination rows of a function other than a copy: where its computing steps write (R294 to R297, R225). -/
def moveDests (co : Core) (fn src dst blk : Nat) : List Loc :=
  let side := fun (r : Nat) => sideLoc co dst (r : Int)
  let metas := fun (n : Nat) => (List.range n).map (metaLoc co (tdAux dst))
  let plain := fun (n0 n1 : Nat) => (List.range n1).flatMap fun y => (List.range n0).flatMap fun x =>
    (plainSpans dst x y).map fun e => sideLoc co dst e.row
  match fn with
  | 1 =>
    let np := cdiv (tdExt src 0) 256
    if bitAt (tdFnMode dst) 1 then
      plain (tdExt src 0 / 2) (tdExt src 1) ++
        (if bitAt (tdFnMode dst) 0 then [] else metas (2 * np * cdiv (tdExt src 1) 32))
    else
      (List.range (cdiv (tdRows src) 32)).flatMap (fun t => (List.range (np * tdPlanes src)).map fun x =>
        side (t * (tdPitch dst / 128) * tdPlanes src + x)) ++
        (if bitAt (tdFnMode dst) 0 then [] else metas (2 * np * cdiv (tdRows src) 32))
  | 2 => (List.range (cdiv (tdRows src) 32 * tdZrExt dst)).map side
  | 3 => plain (tdExt src 1 / 2) (2 * tdExt src 0) ++ metas (2 * cdiv (tdExt src 1) 256 * cdiv (2 * tdExt src 0) 32)
  | 4 => (List.range (tdExt dst 1)).map side
  | 6 =>
    let n := if sfShape blk = 0 then cdiv (tdBase dst % 512 + sfCount blk * sfLen blk) 512
      else if sfShape blk = 1 then cdiv (sfCount blk) 32 * (sfLen blk / (16 * sfPlanes blk) * sfPlanes blk)
      else sfLen blk / (4 * sfPlanes blk) * cdiv (sfCount blk) 128 * sfPlanes blk
    (List.range n).map side
  | _ => []

/-- First row of an open hoop among the rows of the core's stores that a move names as destination (R102). -/
def moveClash (co : Core) (ms : List Micro) (fn src dst blk : Nat) : Option Nat :=
  if !(co.hoops.any fun e => e.2.isOpen) then none
  else
    let own := (moveDests co fn src dst blk).filterMap fun l => match l with
      | .own st r => some (st, r)
      | _ => none
    match (writtenOwn ms ++ own).find? (fun e => inOpenHoop co e.1 e.2) with
    | some (st, r) => some (scratchAddr co.place st r)
    | none => none

/-- A move starts: its descriptors are checked (R280, R284, R300, R306, R113, R102), then its work is laid out. -/
def moveStart (s : State) (w : Who) (j : Job) : Mid :=
  let co := getCore s w.core
  let fn := fld j.entry 96 4
  let eng := fld j.entry 100 1
  let src := j.descA
  let dst := j.descB
  let sa := fld j.entry 0 48
  let da := fld j.entry 48 48
  let unit := unitCode w.unit w.eng false
  let addrAt := fun (n : Nat) => if n = 0 then co.seq.base + 16 * (j.idx % 2 ^ 24) else if n = 1 then sa else da
  let bad := fun (code addr detail : Nat) => Mid.fault s j { code := code, unit := unit, addr := addr, detail := detail }
  match moveCheck co fn eng src dst with
  | some (n, p) => bad cLayerField (addrAt n) p
  | none =>
    if (fn = 4 && !(structAddrOk co 1 (tdAux dst))) || (fn = 6 && !(structAddrOk co 32 (tdAux dst))) then
      bad cLayerField da 409
    else if aliasWrite fn dst then bad cDescAlias da 0
    else match (if eng = 0 then foreignSide s co fn src dst else none) with
    | some (code, a) => bad code a 0
    | none =>
      match (if fn = 5 then redCheck s co.part dst else none) with
      | some (code, p) => if code = cProt then bad cProt (tdBase dst) 0 else bad cLayerField da p
      | none =>
        let inPlace := isInPlace co fn src dst
        let whole := fn = 2 || codeCompress fn dst
        if !inPlace && fn != 6 && sidesOverlap co s.moduleId whole src dst then bad cOverlap (tdBase dst) 0
        else
          match (if fn = 6 then readBlock s w (tdAux dst) 32 else .ok s []) with
          | .wait x => .wait s j x
          | .fault s b => .fault s j b
          | .ok s bytes =>
            let blk := leNat bytes
            match (if fn = 6 then sfCheck co blk else none) with
            | some p => bad cLayerField (tdAux dst) p
            | none =>
              let ms := movePlan co w fn src dst blk
              match moveClash co ms fn src dst blk with
              | some a => bad cProt a 0
              | none => .ok s { j with micros := ms, work := { j.work with nums := if fn = 6 then [blk, 0] else [0] } }

end Sys2Proof.Machine
end

