-- ==== Sys2Proof/Machine/Vector.lean ====
section
/-! DEFINITION. The vector unit, the Turner and the Tally: quantise (R160 to R165), rotation (R167, R168), scale-gradient
(R176 to R178), optimiser update (R179 to R182), top-k (R354), row operation (R355, R356) and histograms (R184 to R186). -/

namespace Sys2Proof.Machine

/-! ## Tally (R184 to R186) -/

/-- Bin of an FP32 pattern (R185). -/
def tallyBin (eBase x : Nat) : Nat :=
  let e := fld x 23 8
  let f := fld x 0 23
  let eb := min eBase 224
  if e = 255 then (if f = 0 then 3 else 4)
  else if e = 0 && f = 0 then 0
  else if e < eb then 1
  else if e > eb + 30 then 2
  else 8 + 8 * (e - eb) + f / 2 ^ 20

def tallyOne (t : TallyEngine) (x : Nat) : TallyEngine :=
  { t with bins := tput t.bins (tallyBin t.eBase x) (satInc 32 (tget t.bins (tallyBin t.eBase x) 0)) }

/-- Values pass a tap: every engine armed on it counts them (R184). -/
def tapValues (s : State) (c tap : Nat) (xs : List Nat) : State :=
  modCore s c fun co =>
    { co with tally := co.tally.map fun e =>
        if e.2.armed && e.2.tap == tap then (e.1, xs.foldl tallyOne e.2) else e }

/-- The two rows of a dump (R186). -/
def dumpRows (t : TallyEngine) : List (List Byte) :=
  (List.range 2).map fun r => packWords ((List.range 128).map fun k => tget t.bins (128 * r + k) 0)

/-! ## Turner (R167, R168) -/

def kappa (p : Nat) : Nat :=
  match p with
  | 5 => 0x3E3504F3
  | 6 => 0x3E000000
  | 7 => 0x3DB504F3
  | 8 => 0x3D800000
  | 9 => 0x3D3504F3
  | 10 => 0x3D000000
  | 11 => 0x3CB504F3
  | _ => 0x3C800000

/-- One stage: pairs of indices that differ in bit `t`. -/
def turnStage (xs : List Nat) (t : Nat) : List Nat :=
  (List.range xs.length).map fun e =>
    if bitAt e t then subF32 (nth xs (e - 2 ^ t) 0) (nth xs e 0) else addF32 (nth xs e 0) (nth xs (e + 2 ^ t) 0)

/-- A block of `2 ^ p` elements. -/
def turnBlock (p : Nat) (xs : List Nat) : List Nat :=
  ((List.range p).foldl turnStage xs).map fun x => mulF32 x (kappa p)

def rotate (p : Nat) (xs : List Nat) : List Nat :=
  if p = 0 then xs else (chunks (xs.length / 2 ^ p) (2 ^ p) xs).flatMap (turnBlock p)

/-! ## Operands (R349) -/

/-- Store rows that one source row of `n` elements of `size` bytes takes. -/
def rowsPer (n size : Nat) : Nat := cdiv (n * size) 512

/-- Words used of store row `i` of a source row of `n` bytes. -/
def tailWords (n i : Nat) : Nat := maskOf (idxs 8 fun x => 512 * i + 64 * x < n)

/-- The rows that hold source row `t` of a row operand. -/
def operandRows (co : Core) (base n size t : Nat) (mode : RdMode) : List (Loc × RdMode × Nat) :=
  let rp := rowsPer n size
  (List.range rp).map fun i => (locOfAddr co (base + 512 * (t * rp + i)), mode, tailWords (n * size) i)

/-- Words of a row operand as stored. -/
def operandWords (n : Nat) (rows : List Nat) : List Nat :=
  let bs := rows.flatMap (leBytes 512)
  (List.range n).map fun e => numAt bs (4 * e) 4

/-- Elements of a row operand as FP32 patterns, a subnormal as zero of its sign (R83, R152). -/
def operandVals (bf : Bool) (n : Nat) (rows : List Nat) : List Nat :=
  let bs := rows.flatMap (leBytes 512)
  (List.range n).map fun e => if bf then bf16ToF32 (numAt bs (2 * e) 2) else readF32 (numAt bs (4 * e) 4)

/-- FP32 patterns in an output format, as whole rows. -/
def formatRows (bf : Bool) (xs : List Nat) : List (List Byte) :=
  let bs := if bf then packHalves (xs.map f32ToBf16) else packWords xs
  (chunks (bs.length + 1) 512 bs).map (padTo 512)

/-- Output rows from the row of the core's stores at an address. -/
def ownOuts (co : Core) (base first : Nat) (rows : List (List Byte)) : List OutRow :=
  rows.zipIdx.map fun e => outRow (locOfAddr co (base + 512 * (first + e.2))) e.1

def pOuts (first : Nat) (rows : List (List Byte)) : List OutRow :=
  rows.zipIdx.map fun e => outRow (.own 2 (first + e.2)) e.1

/-- Keep buffered only the rows that the next unit of work may read again. -/
def keepRows (co : Core) (j : Job) (keep : List Loc) : Job :=
  { j with work := { j.work with buf := j.work.buf.filter fun e => keep.any fun l => locKey co l == e.1 } }

def setNums (j : Job) (ns : List Nat) : Job := { j with work := { j.work with nums := ns } }

/-! ## Checks -/

/-- The first failing check, by the lowest field that it refuses (R602). -/
def firstBad : List (List Nat) → Option Nat
  | [] => none
  | l :: ls => match minPos l with
    | some p => some p
    | none => firstBad ls


/-- A named range of rows lies in the core's stores, row-aligned (R349). -/
def rowsOk (co : Core) (a n : Nat) : Bool := ownRows co a n

def reservedFrom (d lo : Nat) : List Nat := (lowBit (512 - lo) lo (d >>> lo)).toList

/-! ## Quantise (R160 to R165, R350) -/

def qSrc (d : Nat) : Nat := fld d 0 48
def qDst (d : Nat) : Nat := fld d 48 48
def qTagRd (d : Nat) : Nat := fld d 96 2
def qTagWr (d : Nat) : Nat := fld d 98 2
def qBf (d : Nat) : Bool := bitAt d 100
def qKind (d : Nat) : Nat := fld d 101 3
def qWidth (d : Nat) : Nat := fld d 104 3 + 1
def qSym (d : Nat) : Bool := bitAt d 107
def qZp (d : Nat) : Nat := fld d 108 8
def qScaleSrc (d : Nat) : Nat := fld d 116 2
def qScale (d : Nat) : Nat := fld d 118 32
def qGroup (d : Nat) : Nat := fld d 150 2
def qScaleIn (d : Nat) : Nat := fld d 152 11
def qScaleOut (d : Nat) : Nat := fld d 163 11
def qRot (d : Nat) : Nat := fld d 174 4
def qRows (d : Nat) : Nat := fld d 178 16
def qLen (d : Nat) : Nat := fld d 194 16
def qDriftK (d : Nat) : Nat := fld d 210 5
def qDriftThr (d : Nat) : Nat := fld d 215 16

/-- Elements of a group; the whole row in row form. -/
def groupLen (form len : Nat) : Nat := if form = 0 then len else 16 <<< form
/-- Scales of one source row. -/
def scalesPer (form len : Nat) : Nat := if form = 0 then 1 else cdiv len (groupLen form len)
/-- Source rows whose scales share scale rows (R165). -/
def scaleBlock (form : Nat) : Nat := if form = 0 then 128 else 32
/-- Scale rows of a block. -/
def scaleRowsPer (form len : Nat) : Nat := if form = 0 then 1 else cdiv (scalesPer form len) 8
/-- Scale rows of an operation. -/
def scaleRows (form len rows : Nat) : Nat := cdiv rows (scaleBlock form) * scaleRowsPer form len

/-- Codes are formed: neither FP32 nor BF16 output. -/
def qCodes (d : Nat) : Bool := qKind d < 3

/-- Destination rows of one source row. -/
def qRho (d : Nat) : Nat :=
  if qCodes d then cdiv (cdiv (qLen d) 128 * qWidth d) 32 else rowsPer (qLen d) (if qKind d = 4 then 2 else 4)

/-- The checks of R161 and R162, and the places of R349. -/
def quantCheck (co : Core) (d : Nat) : Option Nat :=
  let k := qKind d
  let b := qWidth d
  let form := qGroup d
  let src := if qBf d then 2 else 4
  firstBad [
    badIf (!(rowsOk co (qSrc d) 1)) 0 ++ badIf (!(rowsOk co (qDst d) 1)) 48 ++ badIf (qTagRd d == 3) 96 ++
      badIf (qTagWr d == 3) 98 ++ badIf (k > 4) 101 ++ badIf (qScaleSrc d == 3) 116 ++
      badIf (qRot d != 0 && (qRot d < 5 || qRot d > 12)) 174 ++ badIf (qRows d == 0) 178 ++ badIf (qLen d == 0) 194 ++
      badIf (qDriftK d != 0 && qDriftK d < 10) 210 ++ reservedFrom d 231,
    badIf (qRot d != 0 && qLen d % 2 ^ qRot d != 0) 174,
    badIf (qZp d != 0 && k != 1) 101 ++ badIf (qZp d ≥ 2 ^ b) 104,
    badIf (qSym d && b == 1) 104 ++ badIf (k == 2 && b != 1) 101,
    badIf (k < 3 && qScaleSrc d == 1 && badScale 23 (qScale d)) 118,
    badIf (form != 0 && ((k == 1 && b > 1) || k ≥ 3)) 101,
    badIf (k == 0 && b == 1 && qScaleSrc d == 0) 101,
    badIf (!(rowsOk co (qSrc d) (qRows d * rowsPer (qLen d) src))) 0 ++
      badIf (!(rowsOk co (qDst d) (qRows d * qRho d))) 48 ++
      badIf (k < 3 && qScaleSrc d == 2 && qScaleIn d + scaleRows form (qLen d) (qRows d) > 2048) 150 ++
      badIf (k < 3 && qScaleOut d + scaleRows form (qLen d) (qRows d) > 2048) 150]

/-- Number of output rows a source row can bring, scale rows included. -/
def qOuts (d : Nat) : Nat := qRho d + scaleRowsPer (qGroup d) (qLen d)

/-- Code kind of a conversion: signed codes are symmetric when dynamic or named so (R154, R160). -/
def codeKind (kind : Nat) (sym : Bool) : Nat := if kind = 0 then (if sym then 3 else 0) else kind

/-- The place of a scale: row offset from the first scale row and byte (R165). -/
def scalePlace (form len t g : Nat) : Nat × Nat :=
  if form = 0 then (t / 128, 4 * (t % 128))
  else (t / 32 * scaleRowsPer form len + g / 8, 64 * (g % 8) + 2 * (t % 32))

/-- Words of scale row `r` of an operation that it uses. -/
def scaleWords (form len rows r : Nat) : Nat :=
  if form = 0 then tailWords (4 * (rows - 128 * r)) 0
  else maskOf (idxs 8 fun x => 8 * (r % scaleRowsPer form len) + x < scalesPer form len)

/-- The supplied scale rows that source row `t` reads. -/
def scaleIns (form len rows first t : Nat) (mode : RdMode) : List (Loc × RdMode × Nat) :=
  (List.range (scaleRowsPer form len)).map fun i =>
    let r := t / scaleBlock form * scaleRowsPer form len + i
    (.own 2 (first + r), mode, scaleWords form len rows r)

/-- A scale taken from supplied rows. -/
def scaleFrom (form len t g : Nat) (rows : List Nat) : FVal :=
  let p := scalePlace form len t g
  let row := nth rows (p.1 - t / scaleBlock form * scaleRowsPer form len) 0
  if form = 0 then f32 (fld row (8 * p.2) 32) else bf16 (fld row (8 * p.2) 16)

/-- Scale rows of the block that ends with source row `t`, from the patterns of its scales in order (R165). -/
def scaleOuts (form len first t : Nat) (ns : List Nat) : List OutRow :=
  let per := scalesPer form len
  let t0 := t / scaleBlock form * scaleBlock form
  (List.range (scaleRowsPer form len)).map fun i =>
    let bits := ns.zipIdx.foldl (fun acc e =>
      let p := scalePlace form len (t0 + e.2 / per) (e.2 % per)
      if p.1 = t0 / scaleBlock form * scaleRowsPer form len + i then acc + (e.1 <<< (8 * p.2)) else acc) 0
    outRow (.own 2 (first + t0 / scaleBlock form * scaleRowsPer form len + i)) (leBytes 512 bits)

/-- The block of scale rows ends with source row `t`. -/
def blockEnds (form rows t : Nat) : Bool := (t + 1) % scaleBlock form == 0 || t + 1 == rows

/-- Strips of a source row as store rows (R164). -/
def stripRows (b len rho : Nat) (codes : List Nat) : List (List Byte) :=
  (List.range rho).map fun r =>
    (List.range 32).flatMap fun q =>
      let strip := 32 * r + q
      let sl := strip / b
      leBytes 16 (maskOf ((List.range 128).filter fun k => 128 * sl + k < len && bitAt (nth codes (128 * sl + k) 0) (strip % b)))

/-- A row longer than the vector unit holds, under a dynamic row scale, is read twice (R166). -/
def quantTwice (d : Nat) : Bool := qCodes d && qGroup d == 0 && qScaleSrc d == 0 && qLen d > 4096

/-- A quantise operation starts: the counters clear, the block is checked, the drift setting is made (R161, R187, R188). -/
def quantStart (s : State) (w : Who) (j : Job) (a d : Nat) : Mid :=
  let co := getCore s w.core
  let s := modStats s w.core fun st => { st with conv := 0, clip := 0, nan := 0 }
  match quantCheck co d with
  | some p => .fault s j { code := cLayerField, unit := uVector, addr := a, detail := p }
  | none =>
    let s := modCore s w.core fun co =>
      if qDriftK d != 0 && (qDriftK d != co.drift.k || qDriftThr d != co.drift.thr) then
        { co with drift := { k := qDriftK d, thr := qDriftThr d, conv := 0, clip := 0 } }
      else co
    let ms : List Micro := (List.range (qRows d)).flatMap fun t =>
      (if quantTwice d then [.calc .quantScale t] else []) ++
      .calc .quantRow t :: (List.range (qOuts d)).map fun k => .wrOut k (wrModeOf (qTagWr d))
    .ok s { j with descA := d, micros := ms }

/-- Rows and format of source row `t` of a quantise. -/
def quantSrc (co : Core) (d t : Nat) : List (Loc × RdMode × Nat) :=
  operandRows co (qSrc d) (qLen d) (if qBf d then 2 else 4) t (rdModeOf (qTagRd d))

/-- The first reading of a row that is read twice: its dynamic scale (R154, R166). Nothing of the row stays buffered. -/
def quantScale (s : State) (w : Who) (j : Job) (t : Nat) : Mid :=
  let d := j.descA
  let co := getCore s w.core
  match fetch w s j (quantSrc co d t) with
  | .wait s j x => .wait s j x
  | .fault s j b => .fault s j b
  | .ok s j ds =>
    let ys := rotate (qRot d) (operandVals (qBf d) (qLen d) ds)
    .ok s (setNums (keepRows co j []) (j.work.nums ++ [storeScale 23 (dynScale (qKind d) (qWidth d) (qZp d) ys)]))

/-- One source row of a quantise operation (R163). DESIGN CHOICE: a supplied scale goes to the `Q_SCALE_OUT` rows re-encoded, a
subnormal as zero and a NaN in the canonical pattern (R165, log 87). -/
def quantRow (s : State) (w : Who) (j : Job) (t : Nat) : Mid :=
  let d := j.descA
  let co := getCore s w.core
  let len := qLen d
  let form := qGroup d
  let mode := rdModeOf (qTagRd d)
  let src := quantSrc co d t
  let ins := if qCodes d && qScaleSrc d = 2 then scaleIns form len (qRows d) (qScaleIn d) t mode else []
  match fetch w s j (src ++ ins) with
  | .wait s j x => .wait s j x
  | .fault s j b => .fault s j b
  | .ok s j ds =>
    let xs := operandVals (qBf d) len (ds.take src.length)
    let ys := rotate (qRot d) xs
    let s := tapValues (tapValues s w.core 0 xs) w.core 1 ys
    let j := keepRows co j (if blockEnds form (qRows d) t then [] else ins.map (·.1))
    if !(qCodes d) then
      .ok s (setOuts j (ownOuts co (qDst d) (t * qRho d) (formatRows (qKind d == 4) ys)))
    else
      let b := qWidth d
      let z := qZp d
      let p := if form = 0 then 23 else 7
      let g := groupLen form len
      let per := scalesPer form len
      let scale := fun (k : Nat) =>
        if qScaleSrc d = 0 then storeScale p (dynScale (qKind d) b z ((ys.drop (k * g)).take g))
        else if qScaleSrc d = 1 then (if form = 0 then qScale d else toBf16 (f32 (qScale d)))
        else fenc p (scaleFrom form len t k (ds.drop src.length))
      let known := if quantTwice d then j.work.nums.drop (j.work.nums.length - 1) else []
      let scales := if quantTwice d then known else (List.range per).map scale
      let kind := codeKind (qKind d) (qSym d || qScaleSrc d == 0)
      let cs := ys.zipIdx.map fun e => quantCode kind b z (f32 e.1) (fdec p (nth scales (e.2 / g) 0))
      let s := countCodes s w.core uVector j.idx 0 (qDriftK d != 0) cs
      let ns := if quantTwice d then j.work.nums else j.work.nums ++ scales
      let ends := blockEnds form (qRows d) t
      let outs := ownOuts co (qDst d) (t * qRho d) (stripRows b len (qRho d) (cs.map fun c => codePat b c.code)) ++
        (if ends then scaleOuts form len (qScaleOut d) t ns else [])
      .ok s (setNums (setOuts j outs) (if ends then [] else ns))

/-! ## Scale-gradient (R176 to R178, R351) -/

def sgSrc (d : Nat) : Nat := fld d 0 48
def sgSrc2 (d : Nat) : Nat := fld d 48 48
def sgDst (d : Nat) : Nat := fld d 96 48
def sgTagRd (d : Nat) : Nat := fld d 144 2
def sgTagWr (d : Nat) : Nat := fld d 146 2
def sgYBf (d : Nat) : Bool := bitAt d 148
def sgGBf (d : Nat) : Bool := bitAt d 149
def sgKind (d : Nat) : Nat := fld d 150 1
def sgSym (d : Nat) : Bool := bitAt d 151
def sgWidth (d : Nat) : Nat := fld d 152 3 + 1
def sgZp (d : Nat) : Nat := fld d 155 8
def sgRowsSrc (d : Nat) : Bool := bitAt d 163
def sgScale (d : Nat) : Nat := fld d 164 32
def sgGroup (d : Nat) : Nat := fld d 196 2
def sgScaleIn (d : Nat) : Nat := fld d 198 11
def sgDsOut (d : Nat) : Nat := fld d 209 11
def sgMul (d : Nat) : Nat := fld d 220 32
def sgRows (d : Nat) : Nat := fld d 252 16
def sgLen (d : Nat) : Nat := fld d 268 16

/-- Rows of dL/ds values of one block of source rows (R178, R351). -/
def dsRowsPer (form len : Nat) : Nat := if form = 0 then 1 else cdiv (scalesPer form len) 4

def gradCheck (co : Core) (d : Nat) : Option Nat :=
  let form := sgGroup d
  let b := sgWidth d
  let len := sgLen d
  firstBad [
    badIf (!(rowsOk co (sgSrc d) 1)) 0 ++ badIf (!(rowsOk co (sgSrc2 d) 1)) 48 ++ badIf (!(rowsOk co (sgDst d) 1)) 96 ++
      badIf (sgTagRd d == 3) 144 ++ badIf (sgTagWr d == 3) 146 ++ badIf (sgRows d == 0) 252 ++ badIf (len == 0) 268 ++
      reservedFrom d 284,
    badIf (sgZp d != 0 && sgKind d != 1) 150 ++ badIf (sgZp d ≥ 2 ^ b) 152,
    badIf (sgSym d && b == 1) 151,
    badIf (!(sgRowsSrc d) && badScale 23 (sgScale d)) 164,
    badIf (form != 0 && sgKind d == 1 && b > 1) 150,
    badIf (!(rowsOk co (sgSrc d) (sgRows d * rowsPer len (if sgYBf d then 2 else 4)))) 0 ++
      badIf (!(rowsOk co (sgSrc2 d) (sgRows d * rowsPer len (if sgGBf d then 2 else 4)))) 48 ++
      badIf (!(rowsOk co (sgDst d) (sgRows d * rowsPer len 4))) 96 ++
      badIf (sgRowsSrc d && sgScaleIn d + scaleRows form len (sgRows d) > 2048) 163 ++
      badIf (sgDsOut d + (if sgRowsSrc d then cdiv (sgRows d) (scaleBlock form) * dsRowsPer form len else 1) > 2048) 163]

def gradStart (s : State) (w : Who) (j : Job) (a d : Nat) : Mid :=
  let s' := modStats s w.core fun st => { st with conv := 0, clip := 0, nan := 0 }
  match gradCheck (getCore s w.core) d with
  | some p => .fault s' j { code := cLayerField, unit := uVector, addr := a, detail := p }
  | none =>
    let mode := wrModeOf (sgTagWr d)
    let ms : List Micro := (List.range (sgRows d)).flatMap fun t =>
      .calc .gradRow t :: ((List.range (rowsPer (sgLen d) 4 + dsRowsPer (sgGroup d) (sgLen d))).map fun k =>
        .wrOut k mode) ++ (if t + 1 = sgRows d then [.calc .gradScale 0, .wrOut 0 mode] else [])
    .ok s' (setNums { j with descA := d, micros := ms } (if sgRowsSrc d then [] else List.replicate 65 0))

/-- dL/dy and the contribution of one element, and whether it was refused (R176). -/
def gradElem (kind b z : Nat) (scale : FVal) (y g : Nat) : Nat × Nat × Bool :=
  let yv := f32 y
  let gv := f32 g
  if !yv.isFin || !gv.isFin then (0, 0, true)
  else
    let c := quantCode kind b z yv scale
    let qz := FVal.ofInt (c.code - z)
    if c.clipped then (0, toF32 (gv.mul qz), false)
    else (g, toF32 (match scale with
      | .inf _ => gv.mul (qz.add (yv.div scale).neg)
      | _ => (((qz.mul scale).add yv.neg).mul gv).div scale), false)

/-- Add a row's contributions into 64 lanes; the 65th number counts the elements (R177). -/
def laneAdd (lanes : List Nat) (x : Nat) : List Nat :=
  let e := nth lanes 64 0
  setNth (setNth lanes (e % 64) (addF32 (nth lanes (e % 64) 0) x)) 64 (e + 1)

/-- Rows of dL/ds values of the block that ends with source row `t` (R178, R351). -/
def dsOuts (form len first t : Nat) (ns : List Nat) : List OutRow :=
  let per := scalesPer form len
  let blk := t / scaleBlock form
  (List.range (dsRowsPer form len)).map fun i =>
    let bits := ns.zipIdx.foldl (fun acc e =>
      let n := e.2 / per
      let g := e.2 % per
      let row := if form = 0 then 0 else g / 4
      let byte := if form = 0 then 4 * n else 128 * (g % 4) + 4 * n
      if row = i then acc + (e.1 <<< (8 * byte)) else acc) 0
    outRow (.own 2 (first + blk * dsRowsPer form len + i)) (leBytes 512 bits)

def gradRow (s : State) (w : Who) (j : Job) (t : Nat) : Mid :=
  let d := j.descA
  let co := getCore s w.core
  let len := sgLen d
  let form := sgGroup d
  let mode := rdModeOf (sgTagRd d)
  let ry := operandRows co (sgSrc d) len (if sgYBf d then 2 else 4) t mode
  let rg := operandRows co (sgSrc2 d) len (if sgGBf d then 2 else 4) t mode
  let ins := if sgRowsSrc d then scaleIns form len (sgRows d) (sgScaleIn d) t mode else []
  match fetch w s j (ry ++ rg ++ ins) with
  | .wait s j x => .wait s j x
  | .fault s j b => .fault s j b
  | .ok s j ds =>
    let ys := operandVals (sgYBf d) len (ds.take ry.length)
    let gs := operandVals (sgGBf d) len ((ds.drop ry.length).take rg.length)
    let sc := ds.drop (ry.length + rg.length)
    let s := tapValues s w.core 2 gs
    let g := groupLen form len
    let kind := codeKind (sgKind d) (sgSym d)
    let scale := fun (e : Nat) => if sgRowsSrc d then scaleFrom form len t (e / g) sc else f32 (sgScale d)
    let rs := (ys.zip gs).zipIdx.map fun e => gradElem kind (sgWidth d) (sgZp d) (scale e.2) e.1.1 e.1.2
    let s := modStats s w.core fun st => { st with nan := satAdd 32 st.nan (rs.filter (·.2.2)).length }
    let cs := rs.map (·.2.1)
    let ends := blockEnds form (sgRows d) t
    let sums := (List.range (scalesPer form len)).map fun k => mulF32 (laneSum ((cs.drop (k * g)).take g)) (sgMul d)
    let ns := if sgRowsSrc d then j.work.nums ++ sums else cs.foldl laneAdd j.work.nums
    let outs := ownOuts co (sgDst d) (t * rowsPer len 4) (formatRows false (rs.map (·.1))) ++
      (if sgRowsSrc d && ends then dsOuts form len (sgDsOut d) t ns else [])
    let j := keepRows co j (if ends then [] else ins.map (·.1))
    .ok s (setNums (setOuts j outs) (if sgRowsSrc d && ends then [] else ns))

/-- The one dL/ds value of a constant scale (R178). -/
def gradScale (s : State) (j : Job) : Mid :=
  let d := j.descA
  if sgRowsSrc d then .ok s (setOuts j [])
  else
    let v := mulF32 (treeSum addF32 0 (j.work.nums.take 64)) (sgMul d)
    .ok s (setOuts j (pOuts (sgDsOut d) [leBytes 512 v]))

/-! ## Optimiser update (R179 to R182, R352) -/

def uG (d : Nat) : Nat := fld d 0 48
def uW (d : Nat) : Nat := fld d 48 48
def uCodes (d : Nat) : Nat := fld d 96 48
def uScales (d : Nat) : Nat := fld d 144 48
def uGBf (d : Nat) : Bool := bitAt d 192
def uWBf (d : Nat) : Bool := bitAt d 193
def uTagRd (d : Nat) : Nat := fld d 194 2
def uTagWr (d : Nat) : Nat := fld d 196 2
def uLen (d : Nat) : Nat := fld d 198 24
def uLr (d : Nat) : Nat := fld d 222 32
def uBeta1 (d : Nat) : Nat := fld d 254 32
def uBeta2 (d : Nat) : Nat := fld d 286 32
def uEps (d : Nat) : Nat := fld d 318 32
def uDecay (d : Nat) : Nat := fld d 350 32
def uC1 (d : Nat) : Nat := fld d 382 32
def uC2h (d : Nat) : Nat := fld d 414 32
def uGscale (d : Nat) : Nat := fld d 446 32

def oneF32 : Nat := 0x3F800000

def updCheck (co : Core) (d : Nat) : Option Nat :=
  let n := uLen d
  let groups := cdiv n 128
  firstBad [
    badIf (!(rowsOk co (uG d) 1)) 0 ++ badIf (!(rowsOk co (uW d) 1)) 48 ++ badIf (!(rowsOk co (uCodes d) 1)) 96 ++
      badIf (!(rowsOk co (uScales d) 1)) 144 ++ badIf (uTagRd d == 3) 194 ++ badIf (uTagWr d == 3) 196 ++
      badIf (n == 0) 198 ++ reservedFrom d 478,
    badIf (!(rowsOk co (uG d) (rowsPer n (if uGBf d then 2 else 4)))) 0 ++
      badIf (!(rowsOk co (uW d) (rowsPer n (if uWBf d then 2 else 4)))) 48 ++
      badIf (!(rowsOk co (uCodes d) (cdiv groups 2))) 96 ++ badIf (!(rowsOk co (uScales d) (cdiv groups 64))) 144]

def updStart (s : State) (w : Who) (j : Job) (a d : Nat) : Mid :=
  let s' := modStats s w.core fun st => { st with updRefused := 0 }
  match updCheck (getCore s w.core) d with
  | some p => .fault s' j { code := cLayerField, unit := uVector, addr := a, detail := p }
  | none =>
    let ms : List Micro := (List.range (cdiv (cdiv (uLen d) 128) 2)).flatMap fun h =>
      .calc .update h :: (List.range 4).map fun k => .wrOut k (wrModeOf (uTagWr d))
    .ok s' { j with descA := d, micros := ms }

/-- One element of the update (R181): g, m1, v1, r1, w1. -/
def updElem (d : Nat) (mscale rscale : Nat) (g0 w0 : Nat) (mcode : Int) (rcode : Nat) : List Nat :=
  let g := mulF32 (uGscale d) g0
  let m := mulF32 mscale (toF32 (FVal.ofInt mcode))
  let r := mulF32 rscale (toF32 (FVal.ofInt rcode))
  let m1 := fmaF32 (uBeta1 d) m (mulF32 (subF32 oneF32 (uBeta1 d)) g)
  let v1 := fmaF32 (uBeta2 d) (mulF32 r r) (mulF32 (mulF32 (subF32 oneF32 (uBeta2 d)) g) g)
  let r1 := sqrtF32 v1
  let dd := mulF32 (mulF32 (uC1 d) m1) (divF32 oneF32 (fmaF32 (uC2h d) r1 (uEps d)))
  let w1 := fmaF32 (negF32 (uLr d)) (fmaF32 (uDecay d) w0 dd) w0
  [g, m1, v1, r1, w1]

/-- What the update of one group gives: its elements' results, the bytes of its codes and scales, and whether it is
refused (R182). -/
structure UpdGroup where
  res : List (List Nat)
  m : List Byte
  r : List Byte
  scales : List Byte
  refused : Bool

def updGroup (d : Nat) (gs ws : List Nat) (mold rold : List Byte) (sold : List Byte) : UpdGroup :=
  let mscale := numAt sold 0 4
  let rscale := numAt sold 4 4
  let res := (gs.zip ws).zipIdx.map fun e =>
    updElem d mscale rscale e.1.1 e.1.2 (signed 8 (nth mold e.2 0).toNat) (nth rold e.2 0).toNat
  let col := fun (k : Nat) => res.map fun l => nth l k 0
  let bad := res.any fun l => [0, 1, 2, 4].any fun k => !(f32 (nth l k 0)).isFin
  let ms := storeScale 23 (dynScale 0 8 0 (col 1))
  let rs := storeScale 23 (dynScale 1 8 0 (col 3))
  let codes := fun (kind : Nat) (sc : Nat) (xs : List Nat) =>
    xs.map fun x => BitVec.ofNat 8 (codePat 8 (quantCode kind 8 0 (f32 x) (f32 sc)).code)
  if bad then { res := res, m := mold, r := rold, scales := sold, refused := true }
  else { res := res, m := codes 3 ms (col 1), r := codes 1 rs (col 3), scales := leBytes 4 ms ++ leBytes 4 rs,
         refused := false }

/-- Groups 2h and 2h + 1: the weight rows, the code row and, with its last group, the scale row are rewritten. -/
def update (s : State) (w : Who) (j : Job) (h : Nat) : Mid :=
  let d := j.descA
  let co := getCore s w.core
  let mode := rdModeOf (uTagRd d)
  let n := uLen d
  let e0 := 256 * h
  let cnt := min 256 (n - e0)
  let rowAt := fun (base size e : Nat) => base / 512 + e * size / 512
  let rowsOf := fun (base size used : Nat) =>
    (List.range (cdiv (cnt * size) 512)).map fun i => (locOfAddr co ((rowAt base size e0 + i) * 512), mode,
      if used = 0 then tailWords (cnt * size) i else 255)
  let gsz := if uGBf d then 2 else 4
  let wsz := if uWBf d then 2 else 4
  let rg := rowsOf (uG d) gsz 0
  let rw := rowsOf (uW d) wsz 1
  let rc := [(locOfAddr co (uCodes d + 512 * h), mode, 255)]
  let rs := [(locOfAddr co (uScales d + 512 * (h / 32)), mode, 255)]
  match fetch w s j (rg ++ rw ++ rc ++ rs) with
  | .wait s j x => .wait s j x
  | .fault s j b => .fault s j b
  | .ok s j ds =>
    let gAll := operandVals (uGBf d) cnt (ds.take rg.length)
    let wRows := (ds.drop rg.length).take rw.length
    let wAll := operandVals (uWBf d) cnt wRows
    let code := leBytes 512 (nth ds (rg.length + rw.length) 0)
    -- the scale row as the earlier pairs of its block left it
    let srow := if j.work.nums = [] then leBytes 512 (nth ds (rg.length + rw.length + 1) 0)
      else leBytes 512 (nth j.work.nums 0 0)
    let one := fun (k : Nat) =>
      updGroup d ((gAll.drop (128 * k)).take 128) ((wAll.drop (128 * k)).take 128)
        ((code.drop (256 * k)).take 128) ((code.drop (256 * k + 128)).take 128)
        ((srow.drop (8 * ((2 * h + k) % 64))).take 8)
    let g0 := one 0
    let two := cnt > 128
    let g1 := one 1
    let groups := if two then [g0, g1] else [g0]
    let s := groups.foldl (fun (s : State) (g : UpdGroup) =>
      let col := fun (k : Nat) => g.res.map fun l => nth l k 0
      let s := tapValues (tapValues (tapValues (tapValues s w.core 3 (col 0)) w.core 4 (col 1)) w.core 5 (col 2)) w.core 6 (col 4)
      if g.refused then modStats s w.core fun st => { st with updRefused := satInc 32 st.updRefused } else s) s
    let newW := fun (g : UpdGroup) => g.res.map fun l =>
      if uWBf d then leBytes 2 (f32ToBf16 (nth l 4 0)) else leBytes 4 (nth l 4 0)
    let wOld := wRows.flatMap (leBytes 512)
    let wNew := groups.zipIdx.foldl (fun bs e =>
      if e.1.refused then bs else patchAt bs (128 * e.2 * wsz) (newW e.1).flatten) wOld
    let cNew := groups.zipIdx.foldl (fun bs e =>
      if e.1.refused then bs else patchAt (patchAt bs (256 * e.2) e.1.m) (256 * e.2 + 128) e.1.r) code
    let sNew := groups.zipIdx.foldl (fun bs e => patchAt bs (8 * ((2 * h + e.2) % 64)) e.1.scales) srow
    let last := h % 32 = 31 || e0 + 256 ≥ n
    let outs := ((chunks 3 512 wNew).zipIdx.map fun e => outRow (locOfAddr co ((rowAt (uW d) wsz e0 + e.2) * 512)) e.1) ++
      [outRow (locOfAddr co (uCodes d + 512 * h)) cNew] ++
      (if last then [outRow (locOfAddr co (uScales d + 512 * (h / 32))) sNew] else [])
    let j := keepRows co j (if last then [] else rs.map (·.1))
    .ok s (setNums (setOuts j outs) (if last then [] else [leNat sNew]))

/-! ## Maximum and minimum with index (R116) -/

/-- Does pair (v, i) win over pair (v', i')? -/
def pairWins (maximum : Bool) (v i v' i' : Nat) : Bool :=
  let x := f32 v
  let y := f32 v'
  let lower := signed 32 i < signed 32 i'
  if x.isNan then (if y.isNan then lower else true)
  else if y.isNan then false
  else if (if maximum then y.lt x else x.lt y) then true
  else if (if maximum then x.lt y else y.lt x) then false
  else lower

/-- The winning pair of a list. DESIGN CHOICE: of pairs equal in value and index the first leaf's is copied, bit patterns and all, on
which the spec is silent (log 86). -/
def pairBest (maximum : Bool) : List (Nat × Nat) → Option (Nat × Nat)
  | [] => none
  | p :: ps => match pairBest maximum ps with
    | none => some p
    | some q => if pairWins maximum q.1 q.2 p.1 p.2 then some q else some p

/-! ## Top-k (R353, R354) -/

def tkSrc (d : Nat) : Nat := fld d 0 48
def tkDst (d : Nat) : Nat := fld d 48 48
def tkTagRd (d : Nat) : Nat := fld d 96 2
def tkTagWr (d : Nat) : Nat := fld d 98 2
def tkN (d : Nat) : Nat := fld d 100 13
def tkK (d : Nat) : Nat := fld d 113 5
def tkRows (d : Nat) : Nat := fld d 118 16
def tkBase (d : Nat) : Nat := fld d 134 32

def topCheck (co : Core) (d : Nat) : Option Nat :=
  firstBad [
    badIf (!(rowsOk co (tkSrc d) 1)) 0 ++ badIf (!(rowsOk co (tkDst d) 1)) 48 ++ badIf (tkTagRd d == 3) 96 ++
      badIf (tkTagWr d == 3) 98 ++ badIf (tkN d == 0 || tkN d > 4096) 100 ++ badIf (tkK d == 0 || tkK d > 16) 113 ++
      badIf (tkRows d == 0) 118 ++ reservedFrom d 166,
    badIf (!(rowsOk co (tkSrc d) (tkRows d * rowsPer (tkN d) 4))) 0 ++
      badIf (!(rowsOk co (tkDst d) (cdiv (tkRows d * tkK d) 64))) 48]

def topStart (s : State) (w : Who) (j : Job) (a d : Nat) : Mid :=
  match topCheck (getCore s w.core) d with
  | some p => .fault s j { code := cLayerField, unit := uVector, addr := a, detail := p }
  | none =>
    let ms : List Micro := (List.range (tkRows d)).flatMap fun t => [.calc .topK t, .wrOut 0 (wrModeOf (tkTagWr d)), .wrOut 1 (wrModeOf (tkTagWr d))]
    .ok s { j with descA := d, micros := ms }

/-- `k` rounds over the pairs not yet chosen; the choice when none is left is a free value of the operands (log 6). -/
def topRounds (vals : List Nat) (base : Nat) : Nat → List (Nat × Nat) → List (Nat × Nat)
  | 0, _ => []
  | k + 1, ps =>
    match pairBest true ps with
    | some p => p :: topRounds vals base k (ps.filter fun q => !(q.2 == p.2))
    | none =>
      let p := Config.topPick vals base k
      (p.1 % 2 ^ 32, p.2 % 2 ^ 32) :: topRounds vals base k ps

/-- One token. `nums` holds the pairs of the destination row being filled. A winner's value is copied as stored (R116). -/
def topK (s : State) (w : Who) (j : Job) (t : Nat) : Mid :=
  let d := j.descA
  let co := getCore s w.core
  match fetch w s j (operandRows co (tkSrc d) (tkN d) 4 t (rdModeOf (tkTagRd d))) with
  | .wait s j x => .wait s j x
  | .fault s j b => .fault s j b
  | .ok s j ds =>
    let vals := operandWords (tkN d) ds
    let ps := topRounds vals (tkBase d) (tkK d) (vals.zipIdx.map fun e => (e.1, (tkBase d + e.2) % 2 ^ 32))
    let ns := j.work.nums ++ ps.flatMap fun p => [p.1, p.2]
    let row := (t * tkK d) / 64
    let out := fun (r : Nat) (l : List Nat) => outRow (locOfAddr co (tkDst d + 512 * r)) (padTo 512 (packWords l))
    let full := if ns.length ≥ 128 then [out row (ns.take 128)] else []
    let rest := ns.drop (128 * full.length)
    let ends := t + 1 = tkRows d && !rest.isEmpty
    .ok s (setNums (setOuts (keepRows co j []) (full ++ (if ends then [out (row + full.length) rest] else [])))
      (if ends then [] else rest))

/-! ## Row operation (R355, R356) -/

def rSrc (d : Nat) : Nat := fld d 0 48
def rDst (d : Nat) : Nat := fld d 48 48
def rTagRd (d : Nat) : Nat := fld d 96 2
def rTagWr (d : Nat) : Nat := fld d 98 2
def rInBf (d : Nat) : Bool := bitAt d 100
def rOutBf (d : Nat) : Bool := bitAt d 101
def rFn (d : Nat) : Nat := fld d 102 3
def rAcc (d : Nat) : Bool := bitAt d 105
def rRed (d : Nat) : Nat := fld d 106 2
def rARows (d : Nat) : Bool := bitAt d 108
def rARecip (d : Nat) : Bool := bitAt d 109
def rBRows (d : Nat) : Bool := bitAt d 110
def rARow (d : Nat) : Nat := fld d 111 11
def rBRow (d : Nat) : Nat := fld d 122 11
def rRedRow (d : Nat) : Nat := fld d 133 11
def rTblRow (d : Nat) : Nat := fld d 144 11
def rAlpha (d : Nat) : Nat := fld d 155 32
def rBeta (d : Nat) : Nat := fld d 187 32
def rTblLo (d : Nat) : Nat := fld d 219 32
def rTblStep (d : Nat) : Nat := fld d 251 32
def rRows (d : Nat) : Nat := fld d 283 16
def rLen (d : Nat) : Nat := fld d 299 16

def rowCheck (co : Core) (d : Nat) : Option Nat :=
  let blocks := cdiv (rRows d) 128
  firstBad [
    badIf (!(rowsOk co (rSrc d) 1)) 0 ++ badIf (!(rowsOk co (rDst d) 1)) 48 ++ badIf (rTagRd d == 3) 96 ++
      badIf (rTagWr d == 3) 98 ++ badIf (rFn d > 4) 102 ++ badIf (rRed d == 3) 106 ++ badIf (rRows d == 0) 283 ++
      badIf (rLen d == 0) 299 ++ reservedFrom d 315,
    badIf (!(rowsOk co (rSrc d) (rRows d * rowsPer (rLen d) (if rInBf d then 2 else 4)))) 0 ++
      badIf (!(rowsOk co (rDst d) (rRows d * rowsPer (rLen d) (if rOutBf d then 2 else 4)))) 48 ++
      badIf (rARows d && rARow d + blocks > 2048) 108 ++ badIf (rBRows d && rBRow d + blocks > 2048) 110 ++
      badIf (rRed d != 0 && rRedRow d + blocks > 2048) 106]

def rowStart (s : State) (w : Who) (j : Job) (a d : Nat) : Mid :=
  match rowCheck (getCore s w.core) d with
  | some p => .fault s j { code := cLayerField, unit := uVector, addr := a, detail := p }
  | none =>
    let ms : List Micro := (List.range (rRows d)).flatMap fun t =>
      .calc .rowOp t :: (List.range (rowsPer (rLen d) (if rOutBf d then 2 else 4) + 1)).map fun k =>
        .wrOut k (wrModeOf (rTagWr d))
    .ok s { j with descA := d, micros := ms }

/-- An FP32 value within 1 unit in the last place of a positive number in `[m, m + 1) × 2^e`, `exact` when it is `m × 2^e`;
`pick` chooses among the two or three candidates (log 18). -/
def nearUlp (m : Nat) (e : Int) (exact : Bool) (pick : Nat) : Nat :=
  let l := Nat.log2 m
  let sh := l - 23
  let q := if l < 23 then m <<< (23 - l) else m >>> sh
  let ex : Int := if l < 23 then e - ((23 - l : Nat) : Int) else e + (sh : Int)
  let whole := exact && (l ≤ 23 || m % 2 ^ sh == 0)
  let c := if whole then q + pick % 3 - 1 else q + pick % 2
  toF32 (.fin false c ex)

/-- Mantissa and exponent cut to 192 bits. -/
def cutBits (m : Nat) (e : Int) : Nat × Int :=
  let l := Nat.log2 m
  if l ≤ 191 then (m, e) else (m >>> (l - 191), e + ((l - 191 : Nat) : Int))

def squares : Nat → Nat × Int → Nat × Int
  | 0, x => x
  | n + 1, x => squares n (cutBits (x.1 * x.1) (2 * x.2))

/-- The exponential series of a fixed-point number `x / 2^256`, `n` terms from term `k` with value `term`. -/
def expSeries (x : Int) : Nat → Nat → Int → Int → Int
  | 0, _, _, acc => acc
  | n + 1, k, term, acc =>
    let t := term * x / ((k : Int) * (2 ^ 256 : Nat))
    expSeries x n (k + 1) t (acc + t)

/-- The exponential (R356, R93). -/
def expF32 (u : Nat) : Nat :=
  match f32 u with
  | .nan => fnan 23
  | .inf neg => if neg then 0 else finf 23 false
  | .fin neg m e =>
    if m = 0 then nearUlp 1 0 true (Config.expPick u)
    else if (f32 u).ilog2 ≥ 7 then (if neg then 0 else finf 23 false)
    else
      -- the argument over 2^8, in units of 2^-256
      let x := alignTo (-248) neg m e
      let one : Int := (2 ^ 256 : Nat)
      let y := one + expSeries x 60 1 one 0
      let r := squares 8 (cutBits y.toNat (-256))
      nearUlp r.1 r.2 false (Config.expPick u)

/-- The reciprocal square root (R356, R93). -/
def rsqrtF32 (u : Nat) : Nat :=
  match f32 u with
  | .nan => fnan 23
  | .inf neg => if neg then fnan 23 else 0
  | .fin neg m e =>
    if m = 0 then finf 23 neg
    else if neg then fnan 23
    else
      let odd := e % 2 ≠ 0
      let m2 := if odd then 2 * m else m
      let e2 := if odd then e - 1 else e
      let n := 2 ^ 256 / m2
      let r := isqrtBits 128 n 0
      nearUlp r (-128 - e2 / 2) (r * r * m2 == 2 ^ 256) (Config.rsqrtPick u)

/-- The table function (R356), its entries read as operands (R83); the value when the position is not a number is a free value of the
operands (log 6). -/
def tableF32 (d tbl u : Nat) : Nat :=
  if (f32 u).isNan then fnan 23
  else
    let p := f32 (mulF32 (subF32 u (rTblLo d)) (rTblStep d))
    if p.isNan then Config.tablePick u (rTblLo d) (rTblStep d) tbl % 2 ^ 32
    else
      let q := if p.lt (natV 0) then natV 0 else if (natV 127).lt p then natV 127 else p
      let i := q.floor.toNat
      let t := fun (k : Nat) => readF32 (fld tbl (32 * k) 32)
      if i ≥ 127 then t 127 else fmaF32 (toF32 (q.add (natV i).neg)) (subF32 (t (i + 1)) (t i)) (t i)

/-- The function of a row operation on one value. -/
def rowFn (d tbl u : Nat) : Nat :=
  match rFn d with
  | 0 => u
  | 1 => expF32 u
  | 2 => divF32 oneF32 u
  | 3 => rsqrtF32 u
  | _ => tableF32 d tbl u

/-- One row of a row operation. `nums` holds the row results of the block (R53). -/
def rowOp (s : State) (w : Who) (j : Job) (t : Nat) : Mid :=
  let d := j.descA
  let co := getCore s w.core
  let len := rLen d
  let mode := rdModeOf (rTagRd d)
  let osz := if rOutBf d then 2 else 4
  let src := operandRows co (rSrc d) len (if rInBf d then 2 else 4) t mode
  let old := if rAcc d then operandRows co (rDst d) len osz t mode else []
  let words := tailWords (4 * (rRows d - 128 * (t / 128))) 0
  let ra := if rARows d then [(Loc.own 2 (rARow d + t / 128), mode, words)] else []
  let rb := if rBRows d then [(Loc.own 2 (rBRow d + t / 128), mode, words)] else []
  let rt := if rFn d = 4 then [(Loc.own 0 (rTblRow d), mode, 255)] else []
  match fetch w s j (src ++ old ++ ra ++ rb ++ rt) with
  | .wait s j x => .wait s j x
  | .fault s j b => .fault s j b
  | .ok s j ds =>
    let xs := operandVals (rInBf d) len (ds.take src.length)
    let ys := operandVals (rOutBf d) len ((ds.drop src.length).take old.length)
    let rest := ds.drop (src.length + old.length)
    let at32 := fun (row : Nat) => fld row (32 * (t % 128)) 32
    let a := at32 (nth rest 0 0)
    let b := at32 (nth rest ra.length 0)
    let tbl := nth rest (ra.length + rb.length) 0
    let alpha := if !(rARows d) then rAlpha d else if rARecip d then divF32 (rAlpha d) a else mulF32 (rAlpha d) a
    let beta := if rBRows d then mulF32 (rBeta d) b else rBeta d
    let v := xs.map fun x => rowFn d tbl (fmaF32 alpha x beta)
    let outs := if rAcc d then (ys.zip v).map fun e => addF32 e.1 e.2 else v
    let red := if rRed d = 1 then ((pairBest true (v.zipIdx.map fun e => (e.1, e.2))).getD (0, 0)).1 else laneSum v
    let ns := if rRed d = 0 then [] else j.work.nums ++ [red]
    let ends := (t + 1) % 128 = 0 || t + 1 = rRows d
    let redOut := if rRed d != 0 && ends then [outRow (.own 2 (rRedRow d + t / 128)) (padTo 512 (packWords ns))] else []
    let keep := rt.map (·.1) ++ (if ends then [] else (ra ++ rb).map (·.1))
    let j := keepRows co j keep
    .ok s (setNums (setOuts j (ownOuts co (rDst d) (t * rowsPer len osz) (formatRows (rOutBf d) outs) ++ redOut))
      (if ends then [] else ns))

/-! ## Start of a vector operation -/

/-- Read the parameter block and start the operation that `VOP` names. -/
def vectorStart (s : State) (w : Who) (j : Job) : Mid :=
  let a := fld j.entry 0 48
  match readBlock s w a 64 with
  | .wait x => .wait s j x
  | .fault s b => .fault s j b
  | .ok s bs =>
    match fld j.entry 48 3 with
    | 0 => quantStart s w j a (leNat bs)
    | 1 => gradStart s w j a (leNat bs)
    | 2 => updStart s w j a (leNat bs)
    | 3 => topStart s w j a (leNat bs)
    | _ => rowStart s w j a (leNat bs)

end Sys2Proof.Machine
end

