-- ==== Sys2Proof/Machine/Fsu.lean ====
section
/-! DEFINITION. The float side-unit: matrix jobs over plain row-major operands (R358 to R360). -/

namespace Sys2Proof.Machine

def fA (d : Nat) : Nat := fld d 0 48
def fW (d : Nat) : Nat := fld d 48 48
def fC (d : Nat) : Nat := fld d 96 48
def fM (d : Nat) : Nat := fld d 144 16
def fN (d : Nat) : Nat := fld d 160 16
def fK (d : Nat) : Nat := fld d 176 20
def fLda (d : Nat) : Nat := fld d 196 24
def fLdw (d : Nat) : Nat := fld d 220 24
def fLdc (d : Nat) : Nat := fld d 244 24
/-- Inputs are BF16 when the field is 0 (R358). -/
def fInBf (d : Nat) : Bool := !(bitAt d 268)
def fOutBf (d : Nat) : Bool := bitAt d 269
def fAcc (d : Nat) : Bool := bitAt d 270
def fTagRd (d : Nat) : Nat := fld d 271 2
def fTagWr (d : Nat) : Nat := fld d 273 2
def fInSize (d : Nat) : Nat := if fInBf d then 2 else 4
def fOutSize (d : Nat) : Nat := if fOutBf d then 2 else 4

/-- Byte addresses of a row-major operand, half open (R300). -/
def matRange (base ld rows cols size : Nat) : Range := (base, base + size * ((rows - 1) * ld + cols))

def fsuCheck (d : Nat) : Option Nat :=
  minPos (badIf (fM d == 0) 144 ++ badIf (fN d == 0) 160 ++ badIf (fK d == 0) 176 ++ badIf (fTagRd d == 3) 271 ++
    badIf (fTagWr d == 3) 273 ++ reservedFrom d 275)

/-- The range of C meets that of A or W (R359). -/
def fsuOverlap (d : Nat) : Bool :=
  rangesMeet [matRange (fC d) (fLdc d) (fM d) (fN d) (fOutSize d)]
    [matRange (fA d) (fLda d) (fM d) (fK d) (fInSize d), matRange (fW d) (fLdw d) (fK d) (fN d) (fInSize d)]

/-- Rows (address / 512) of `n` bytes at an address. -/
def rowsOfBytes (a n : Nat) : List Nat := (List.range ((a + n - 1) / 512 - a / 512 + 1)).map (a / 512 + ·)

/-- Rows of lines `lo` to `hi - 1` of an operand, each once. -/
def lineRows (base ld cols size lo hi : Nat) : List Nat :=
  (((List.range hi).filter (· ≥ lo)).flatMap fun r => rowsOfBytes (base + size * r * ld) (size * cols)).dedup

/-- Words of row `r` that lines `lo` to `hi - 1` of an operand draw on (R601). -/
def lineWords (base ld cols size lo hi r : Nat) : Nat :=
  maskOf (idxs 8 fun x => ((List.range hi).filter (· ≥ lo)).any fun m =>
    base + size * m * ld < 512 * r + 64 * (x + 1) && 512 * r + 64 * x < base + size * (m * ld + cols))

/-- Bands of 32 rows of C. -/
def fsuBands (d : Nat) : Nat := cdiv (fM d) 32

def fsuStart (s : State) (w : Who) (j : Job) : Mid :=
  let a := fld j.entry 0 48
  match readBlock s w a 64 with
  | .wait x => .wait s j x
  | .fault s b => .fault s j b
  | .ok s bs =>
    let d := leNat bs
    match fsuCheck d with
    | some p => .fault s j { code := cLayerField, unit := uFsu, addr := a, detail := p }
    | none =>
      if fsuOverlap d then .fault s j { code := cOverlap, unit := uFsu, addr := fC d, detail := 0 }
      else
        let mode := wrModeOf (fTagWr d)
        let outs := fun (k : Nat) =>
          (lineRows (fC d) (fLdc d) (fN d) (fOutSize d) (32 * k) (min (fM d) (32 * k + 32))).length
        let ms : List Micro := (List.range (fsuBands d)).flatMap fun k =>
          .calc .fsuTile k :: (List.range (outs k)).map fun r => .wrOut r mode
        .ok s { j with descA := d, micros := ms }

/-- An element read from fetched rows, listed with their addresses. -/
def byteElem (rows : List (Nat × Nat)) (a size : Nat) : Nat :=
  (List.range size).foldl (fun acc i =>
    acc + (match rows.find? (fun e => e.1 == (a + i) / 512) with
      | some e => fld e.2 (8 * ((a + i) % 512)) 8
      | none => 0) * 256 ^ i) 0

/-- One band of 32 rows of C, its 32 × 32 tiles in turn (R359): fused multiply-adds over ascending K. -/
def fsuTile (s : State) (w : Who) (j : Job) (k : Nat) : Mid :=
  let d := j.descA
  let co := getCore s w.core
  let mode := rdModeOf (fTagRd d)
  let lo := 32 * k
  let hi := min (fM d) (32 * k + 32)
  let ra := lineRows (fA d) (fLda d) (fK d) (fInSize d) lo hi
  let rw := lineRows (fW d) (fLdw d) (fN d) (fInSize d) 0 (fK d)
  let rc := lineRows (fC d) (fLdc d) (fN d) (fOutSize d) lo hi
  let need := (ra ++ rw ++ (if fAcc d then rc else [])).dedup
  let used := fun (r : Nat) =>
    lineWords (fA d) (fLda d) (fK d) (fInSize d) lo hi r ||| lineWords (fW d) (fLdw d) (fN d) (fInSize d) 0 (fK d) r |||
      (if fAcc d then lineWords (fC d) (fLdc d) (fN d) (fOutSize d) lo hi r else 0)
  let get := fun (r : Nat) => (locOfAddr co (512 * r), mode, used r)
  match fetch w s j (need.map get) with
  | .wait s j x => .wait s j x
  | .fault s j b => .fault s j b
  | .ok s j ds =>
    let rows := need.zip ds
    let num := fun (bf : Bool) (a : Nat) => if bf then bf16ToF32 (byteElem rows a 2) else byteElem rows a 4
    let aEl := fun (m q : Nat) => num (fInBf d) (fA d + fInSize d * (m * fLda d + q))
    let wEl := fun (q n : Nat) => num (fInBf d) (fW d + fInSize d * (q * fLdw d + n))
    let cAddr := fun (m n : Nat) => fC d + fOutSize d * (m * fLdc d + n)
    let cell := fun (m n : Nat) =>
      (List.range (fK d)).foldl (fun acc q => fmaF32 (aEl m q) (wEl q n) acc)
        (if fAcc d then num (fOutBf d) (cAddr m n) else 0)
    let vals := ((List.range hi).filter (· ≥ lo)).flatMap fun m => (List.range (fN d)).map fun n =>
      (byteSpans (cAddr m n) (fOutSize d), if fOutBf d then f32ToBf16 (cell m n) else cell m n)
    let placed := vals.foldl (fun rs e => placeSpans rs e.1 e.2) []
    let earlier := lineRows (fC d) (fLdc d) (fN d) (fOutSize d) 0 lo
    let later := lineRows (fC d) (fLdc d) (fN d) (fOutSize d) hi (fM d)
    let outs := placed.map fun r =>
      ({ loc := locOfAddr co (512 * r.1.toNat), data := leBytes 512 r.2.1, mask := r.2.2,
         first := !(earlier.contains r.1.toNat), last := !(later.contains r.1.toNat) } : OutRow)
    .ok s (setOuts j outs)

end Sys2Proof.Machine
end

