-- ==== Sys2Proof/Machine/Jobs.lean ====
section
/-! DEFINITION. Operations of the units of a core: how one runs through its steps until it ends, waits or faults (R242,
R327, R367), and where its rows go (R299, R346, R399). -/

namespace Sys2Proof.Machine

/-! ## Rows bound for hoops and for the reducer -/

def jobFn (j : Job) : Nat := fld j.entry 96 4

/-- A move of a core DMA engine or of the die DMA. -/
def isMove (u : CoreUnit) : Bool := u == .cdma || u == .dieDma

/-- What a row sent to a hoop by a move is (R292, R397): a reduce-add for a copy with `FN_MODE` bit 0. -/
def hoopKind (j : Job) : ArrKind :=
  if jobFn j = 0 && bitAt (tdFnMode j.descB) 0 then (if tdEfmt j.descB = 1 then .addI32 else .addF32) else .write

/-- `PK_SENG` of a unit (R396). -/
def sendEng (u : CoreUnit) : Nat := if u == .dieDma then 1 else if u == .signal then 2 else 0

def packetOp : ArrKind → Nat
  | .write => opWrite
  | .addF32 => opAddF32
  | .addI32 => opAddI32
  | .signal _ => opSignal
  | .read => opRead

/-- Where an address of a hoop leads (R312, R314, R407, R408): a core of this module, another module, a wait for the
translation, or a fault. -/
inductive HoopDest where
  | here (g : Nat) | module (m : Nat) | miss (key : Nat) | bad
  deriving DecidableEq, Repr

def hoopDest (s : State) (c : Nat) (remote : Option Nat) (core hoop reserved : Nat) : HoopDest :=
  let co := getCore s c
  let inside :=
    if reserved != 0 || core > 895 then HoopDest.bad
    else
      let a := hoopAddr core hoop 0
      if !(cached co a) then .miss (ctuKey a)
      else match (getPart s co.part).bind fun p => tget? p.places core with
        | some g => .here g
        | none => .bad
  match remote with
  | none => inside
  | some m =>
    match s.moduleId with
    | none => .bad
    | some own => if own.toNat = m then inside else if reserved != 0 then .bad else .module m

/-- The next row joins the packet open at the engine: same operation, hoop and module, the next row, fewer than 8 (R399). -/
def joins (o : OutPacket) (u : CoreUnit) (idx : Nat) (p : Packet) : Bool :=
  !o.closed && o.unit == u && o.idx == idx && o.packet.op == p.op && o.packet.dest == p.dest && o.packet.core == p.core &&
  o.packet.hoop == p.hoop && o.packet.row + o.packet.rows.length == p.row && o.packet.rows.length < 8

def joinLast (u : CoreUnit) (idx : Nat) (p : Packet) : List OutPacket → List OutPacket
  | [] => [{ packet := p, unit := u, idx := idx, closed := p.rows.isEmpty }]
  | [o] =>
    if joins o u idx p then
      let rows := o.packet.rows ++ p.rows
      [{ o with packet := { o.packet with rows := rows }, closed := rows.length ≥ 8 }]
    else [{ o with closed := true }, { packet := p, unit := u, idx := idx, closed := p.rows.isEmpty }]
  | o :: os => o :: joinLast u idx p os

/-- Every packet of an operation is closed: the move has ended (R399). -/
def closePackets (co : Core) (u : CoreUnit) (idx : Nat) : Core :=
  { co with outPackets := co.outPackets.map fun o => if o.unit == u && o.idx == idx then { o with closed := true } else o }

/-- The move tag of an issue (R399). -/
def tagOf (co : Core) (idx : Nat) : Nat :=
  match co.seq.issued.find? fun i => i.idx == idx with
  | some i => i.mtag
  | none => 0

def packetFor (s : State) (c : Nat) (u : CoreUnit) (mtag : Nat) (k : ArrKind) (m core hoop row : Nat)
    (rows : List (List Byte)) : Packet :=
  { hops := 0, score := c, seng := sendEng u, mtag := mtag, op := packetOp k, dest := m, src := ownId s, core := core,
    value := match k with
      | .signal v => v
      | _ => 0,
    hoop := hoop, row := row, rows := rows, via := 0 }

/-- Send one row, signal or read request to a hoop. -/
def sendHoop (s : State) (w : Who) (k : ArrKind) (dest : HoopDest) (core hoop row : Nat) (data : List Byte) :
    State :=
  match dest with
  | .here g => modCore s g fun co =>
      { co with inbound := co.inbound ++ [{ kind := k, hoop := hoop, row := row, data := data, source := .core w.core,
                                            sender := .local w.core w.unit w.idx }] }
  | .module m =>
    let p := packetFor s w.core w.unit (tagOf (getCore s w.core) w.idx) k m core hoop row (if data.isEmpty then [] else [data])
    modCore (markRemote s w.core m) w.core fun co => { co with outPackets := joinLast w.unit w.idx p co.outPackets }
  | _ => s

/-- Write a row, or the bits of `bits` of it, to where it goes: a contribution of a reduce move (R346), an arrival at a
hoop with zeros where nothing was placed (R299), or a row of a store, HBM or host memory. -/
def emitRow (s : State) (w : Who) (j : Job) (loc : Loc) (mode : WrMode) (value bits : Nat) (first last : Bool) : Mid :=
  let data := leBytes 512 value
  let co := getCore s w.core
  if isMove w.unit && jobFn j = 5 then
    let con : Contribution :=
      { core := w.core, part := co.part, idx := j.idx, aux := tdAux j.descB, desc := j.descB, dest := loc, k := j.sent,
        data := data, mask := byteMask bits, dieResult := none }
    .ok (modDie s (dieOf w.core) fun d => { d with transit := d.transit ++ [con] }) { j with sent := j.sent + 1 }
  else match loc with
  | .hoop remote core hoop row =>
    match hoopDest s w.core remote core hoop (hoopReserved (tdBase j.descB) + row / 2048) with
    | .bad => .fault s j { code := cXlate, unit := unitCode w.unit w.eng true, addr := hoopAddr core hoop row, detail := 0 }
    | .miss key => .wait s j { kind := .translation, addr := key }
    | dest => .ok (sendHoop s w (hoopKind j) dest core hoop row data) { j with sent := j.sent + 1 }
  | _ =>
    match writeLoc s w loc mode data bits first last with
    | .ok s _ => .ok s j
    | .wait x => .wait s j x
    | .fault s b => .fault s j b

/-! ## Micro-operations -/

/-- The four-bit mask of four elements that are not zero of either sign (R201). -/
def nonzeroMask (bits raw : Nat) : Nat := maskOf (idxs 4 fun u => fld raw (bits * u) (bits - 1) != 0)

/-- The element in slot `slot` of the positions that a mask names, or 0. -/
def slotElem (mask slot : Nat) (elem : Nat → Nat) : Nat :=
  match (maskBits mask)[slot]? with
  | some u => elem u
  | none => 0

/-- Of four columns, each two slots of `bits` bits and a mask, the columns that name K position `k` (R202). -/
def turnMask (wide k raw : Nat) : Nat := maskOf (idxs 4 fun u => bitAt raw (wide * u + k))

/-- What a conversion makes of what a piece takes. -/
def convert (c : Conv) (raw : Nat) : Nat :=
  match c with
  | .same => raw
  | .f32ToBf16 => f32ToBf16 raw
  | .bf16ToF32 => bf16ToF32 raw
  | .keepNonzero bits slot => slotElem (nonzeroMask bits raw) slot fun u => fld raw (bits * u) bits
  | .keepNamed bits slot => slotElem (fld raw (4 * bits) 4) slot fun u => fld raw (bits * u) bits
  | .nonzero bits => nonzeroMask bits raw
  | .turned bits k slot =>
    let wide := 2 * bits + 4
    slotElem (turnMask wide (2 * bits + k) raw) slot fun u =>
      fld raw (wide * u + bits * popBits k (fld raw (wide * u + 2 * bits) 4)) bits
  | .turnedMask k => turnMask 4 k raw

/-- The value that the source spans of a piece hold. -/
def pieceValue (buf : Tbl (List Byte)) (p : Piece) : Nat :=
  (convert p.conv (takenValue buf p.srcs) >>> p.lo) % 2 ^ p.bits

/-- Row value and bits placed by a list of pieces; a later piece wins. -/
def piecesRow (buf : Tbl (List Byte)) (ps : List Piece) : Nat × Nat :=
  ps.foldl (fun acc p =>
    let m := (2 ^ p.bits - 1) <<< p.dst
    ((acc.1 &&& (acc.1 ^^^ (acc.1 &&& m))) ||| (pieceValue buf p <<< p.dst), acc.2 ||| m)) (0, 0)

/-- Read a row at a hoop (R254, R406): the request goes out once, and the row is taken when it has come. -/
def readHoop (s : State) (w : Who) (j : Job) (n : Nat) (remote : Option Nat) (core hoop row : Nat) : Mid :=
  let x : Wait := { kind := .remoteRead, addr := hoopAddr core hoop row }
  match j.remote with
  | .row data => .ok s { j with remote := .none, work := { j.work with buf := (n, data) :: j.work.buf } }
  | .none =>
    match hoopDest s w.core remote core hoop (hoopReserved (tdBase j.descA) + row / 2048) with
    | .bad => .fault s j { code := cXlate, unit := unitCode w.unit w.eng false, addr := hoopAddr core hoop row, detail := 0 }
    | .miss key => .wait s j { kind := .translation, addr := key }
    | dest => .wait (sendHoop s w .read dest core hoop row []) { j with remote := .asked } x
  | _ => .wait s j x

/-- One row of a copy entry (R237): the read is not made until the write can follow. -/
def copyRowStep (s : State) (w : Who) (j : Job) (src dst : Loc) (rd : RdMode) (wr : WrMode) : Mid :=
  match readLoc s w src rd 255 with
  | .wait x => .wait s j x
  | .fault s b => .fault s j b
  | .ok s1 data =>
    match writeLoc s1 w dst wr data allBits true true with
    | .wait x => .wait s j x
    | .fault s b => .fault s j b
    | .ok s _ => .ok s j

/-- One row's tag is set (R239). -/
def markRow (s : State) (w : Who) (j : Job) (store row : Nat) (f : Bool) : Mid :=
  let co := getCore s w.core
  let phys := storeRow w.core store row
  let addr := scratchAddr co.place store row
  if inOpenHoop co store row then .fault s j { code := cProt, unit := uSeq, addr := addr, detail := 0 }
  else match ownMiss s w store row with
    | some key => .wait s j { kind := .translation, addr := key }
    | none =>
      if heldByOther co phys w.unit w.idx then .wait s j { kind := .hold, addr := addr }
      else .ok (setTag s phys f) j

/-- One unit pair of an in-place transpose is done (R301). -/
def inPlaceStep (s : State) (w : Who) (j : Job) : Mid :=
  .ok (modCore s w.core fun co => dropHoldsOf co w.unit w.idx)
    { j with work := { j.work with nums := [nth j.work.nums 0 0 + 1], buf := [] } }

def calcStep (s : State) (w : Who) (j : Job) (k : Nat) : Calc → Mid
  | .pressTile => pressTile s w j k
  | .pressLoad => pressLoad s w j k
  | .pressSlice => pressSlice s w j
  | .pressRail => pressRail s j k
  | .pressPromote => pressPromote s w j k
  | .pressSpill => pressSpill s w j k
  | .pressOutRead => pressOutRead s w j k
  | .pressRelease => pressRelease s w j k
  | .pressOut => pressOut s w j k
  | .pressEnd => pressEnd s w j
  | .compress => compressCode s w j k
  | .zrStore => zrStore s w j k
  | .selective => selective s w j k
  | .inPlace => inPlaceStep s w j
  | .quantScale => quantScale s w j k
  | .quantRow => quantRow s w j k
  | .gradRow => gradRow s w j k
  | .gradScale => gradScale s j
  | .update => update s w j k
  | .topK => topK s w j k
  | .rowOp => rowOp s w j k
  | .fsuTile => fsuTile s w j k

/-- Bits of a byte mask. -/
def bitsOfMask (mask : Nat) : Nat :=
  if mask = wholeMask then allBits
  else (List.range 512).foldl (fun acc x => if bitAt mask x then acc + (255 <<< (8 * x)) else acc) 0

def microStep (s : State) (w : Who) (j : Job) : Micro → Mid
  | .start => .ok s j
  | .rd n (.hoop remote core hoop row) _ _ _ => readHoop s w j n remote core hoop row
  | .rd n (.own st r) mode used hold =>
    match readLoc s w (.own st r) mode used with
    | .wait x => .wait s j x
    | .fault s b => .fault s j b
    | .ok s data =>
      .ok (if hold then modCore s w.core fun co => addHold co (storeRow w.core st r) w.unit w.idx else s)
        { j with work := { j.work with buf := (n, data) :: j.work.buf } }
  | .rd n (.addr r) mode used _ =>
    match readLoc s w (.addr r) mode used with
    | .wait x => .wait s j x
    | .fault s b => .fault s j b
    | .ok s data => .ok s { j with work := { j.work with buf := (n, data) :: j.work.buf } }
  | .wr loc mode pieces first last =>
    match piecesRow j.work.buf pieces with
    | (v, bits) => emitRow s w j loc mode v bits first last
  | .wrOut k mode =>
    match tget? j.work.outs k with
    | none => .ok s j
    | some o => emitRow s w j o.loc mode (leNat o.data) (bitsOfMask o.mask) o.first o.last
  | .fillRow st r mode pattern =>
    match writeLoc s w (.own st r) mode ((List.range 128).flatMap fun _ => leBytes 4 pattern) allBits true true with
    | .wait x => .wait s j x
    | .fault s b => .fault s j b
    | .ok s _ => .ok s j
  | .mark st r f => markRow s w j st r f
  | .check mask addr detail =>
    if badMask (pieceValue j.work.buf mask) then
      .fault s j { code := cSparse, unit := unitCode w.unit w.eng false, addr := addr, detail := detail }
    else .ok s j
  | .enter r index pieces =>
    scatterRow s w j r (pieceValue j.work.buf index) (leBytes 512 (piecesRow j.work.buf pieces).1)
  | .copyRow ss sr ds dr rd wr => copyRowStep s w j (.own ss sr) (.own ds dr) rd wr
  | .calc c k => calcStep s w j k c

/-! ## Starts -/

/-- A fill, mark or copy entry starts (R102, R236 to R239). -/
def rowEngineStart (s : State) (w : Who) (j : Job) : Mid :=
  let co := getCore s w.core
  let e := j.entry
  let isCopy := enKind e = 4
  let n := if isCopy then fld e 96 12 else fld e 48 12
  let srcA := ownScratch co (fld e 0 48)
  let dstA := if isCopy then ownScratch co (fld e 48 48) else srcA
  match srcA, dstA with
  | some (ss, sr), some (ds, dr) =>
    match hoopClash co ds [(dr, n)] with
    | some r => .fault s j { code := cProt, unit := uSeq, addr := scratchAddr co.place ds r, detail := 0 }
    | none =>
      let ms : List Micro :=
        if isCopy then
          let down := ss = ds && dr > sr && dr < sr + n
          (List.range n).map fun i =>
            let k := if down then n - 1 - i else i
            .copyRow ss (sr + k) ds (dr + k) (rdModeOf (fld e 108 2)) (wrModeOf (fld e 110 2))
        else if fld e 92 2 = 0 then
          (List.range n).map fun i => .fillRow ds (dr + i) (wrModeOf (fld e 94 2)) (fld e 60 32)
        else (List.range n).map fun i => .mark ds (dr + i) (fld e 92 2 == 2)
      .ok s { j with micros := ms }
  | _, _ => .ok s { j with micros := [] }

/-- An operation starts: its checks, and its work laid out. -/
def startJob (s : State) (w : Who) (j : Job) : Mid :=
  match w.unit with
  | .press => pressStart s w j
  | .cdma => moveStart s w j
  | .dieDma => moveStart s w j
  | .row => rowEngineStart s w j
  | .vector => vectorStart s w j
  | .fsu => fsuStart s w j
  | .tally => .ok s j
  | .sequencer => .ok s j
  | .signal => .ok s j

/-! ## Running -/

/-- Run steps until the list ends, a wait or a fault; on a wait the job keeps the step that waits and those after it. -/
def runList (w : Who) : List Micro → State → Job → Mid
  | [], s, j => .ok s { j with micros := [] }
  | m :: ms, s, j =>
    match microStep s w j m with
    | .ok s j => runList w ms s j
    | .wait s j x => .wait s { j with micros := m :: ms } x
    | .fault s j b => .fault s j b

/-- Run an operation from where it stands. -/
def runMid (s : State) (w : Who) (j : Job) : Mid :=
  match j.micros with
  | .start :: _ =>
    match startJob s w j with
    | .ok s j => runList w j.micros s j
    | x => x
  | ms => runList w ms s j

/-! ## Turns at the die DMA engine (R307) -/

/-- The step moves a row through a stop of the engine. -/
def movesRow (j : Job) : Micro → Bool
  | .rd _ _ _ _ _ => true
  | .wr _ _ _ _ _ => true
  | .wrOut k _ => (tget? j.work.outs k).isSome
  | _ => false

/-- One turn of a move: it runs until one row has moved, and then waits for its next turn. -/
def runTurn (w : Who) : List Micro → State → Job → Mid
  | [], s, j => .ok s { j with micros := [] }
  | m :: ms, s, j =>
    match microStep s w j m with
    | .ok s' j' =>
      if movesRow j m && !ms.isEmpty then .wait s' { j' with micros := ms } { kind := .turn, addr := 0 } else runTurn w ms s' j'
    | .wait s j x => .wait s { j with micros := m :: ms } x
    | .fault s j b => .fault s j b

/-- A move at the die DMA engine starts: its checks are made, and its first row waits for its turn. -/
def startTurn (s : State) (w : Who) (j : Job) : Mid :=
  match startJob s w j with
  | .ok s j => .wait s j { kind := .turn, addr := 0 }
  | x => x

/-- What an operation does when it goes on: a move at the die DMA engine takes one turn, any other runs on. -/
def goOn (s : State) (w : Who) (j : Job) : Mid :=
  if w.unit == .dieDma then
    match j.micros with
    | .start :: _ => startTurn s w j
    | ms => runTurn w ms s j
  else runMid s w j

/-- What a fault of an in-place transpose reports (R301, R371). -/
def faultOf (co : Core) (j : Job) (u : CoreUnit) (b : Bad) : Bad :=
  if isMove u && isInPlace co (jobFn j) j.descA j.descB && (b.code != cLayerField) then
    { b with addr := tdBase j.descB, detail := nth j.work.nums 0 0 }
  else b

/-- An operation comes to a state; when that is a new wait, the count of the core's waits dates it (R338). -/
def stampJob (co : Core) (u : CoreUnit) (j : Job) (st : JobState) : Core :=
  if j.st = st then putJob co u j
  else { putJob co u { j with st := st, since := co.waits } with waits := co.waits + 1 }

/-- The state after an operation ran: done, waiting, or faulted. A move that waits closes its open packet, but for the turn of its
next row (R399). -/
def settle (c : Nat) (u : CoreUnit) : Mid → State
  | .ok s j => modCore s c fun co => closePackets (stampJob co u j .done) u j.idx
  | .wait s j x => modCore s c fun co =>
    let co := stampJob co u j (.waiting x)
    if x.kind == .turn then co else closePackets co u j.idx
  | .fault s j b =>
    raiseFault (modCore s c fun co => putJob co u j) c u j.idx (faultOf (getCore s c) j u b)

def whoOf (c : Nat) (u : CoreUnit) (j : Job) : Who := { core := c, unit := u, idx := j.idx, eng := j.engines }

/-- The descriptor of a run-layer that waits behind a running one is read ahead (R345). -/
def readAhead (s : State) (c : Nat) : State :=
  match (getCore s c).press with
  | _ :: j :: _ =>
    if j.st == .queued && !j.work.press.descRead then
      match pressRead s (whoOf c .press j) j with
      | .ok s j => modCore s c fun co => putJob co .press j
      | .wait _ _ _ => s
      | .fault s j b => raiseFault s c .press j.idx b
    else s
  | _ => s

/-- An operation runs from where it stands; while a layer runs, the next one's descriptor is read. -/
def runJob (s : State) (c : Nat) (u : CoreUnit) (j : Job) : State :=
  let s := settle c u (runMid s (whoOf c u j) j)
  if u == .press then readAhead s c else s

/-- The row that a started move at the die DMA engine presents would meet again the tag or the hold that the move waits for. -/
def stillWaits (s : State) (c : Nat) (u : CoreUnit) (j : Job) : Bool :=
  match j.st, runTurn (whoOf c u j) j.micros s j with
  | .waiting x, .wait _ _ y => (x.kind == .tag || x.kind == .hold) && x == y
  | _, _ => false

/-- A waiting operation goes on. A move at the die DMA engine that has started presents its row again, once what it waited for has
come, and waits for its turn (R307). -/
def resume (s : State) (c : Nat) (u : CoreUnit) (j : Job) : State :=
  if u == .dieDma then
    match j.micros with
    | .start :: _ => settle c u (startTurn s (whoOf c u j) j)
    | _ => if stillWaits s c u j then s else settle c u (.wait s j { kind := .turn, addr := 0 })
  else runJob s c u j

/-- Two moves that need one engine (R306). -/
def sharesEngine (a b : Engines) : Bool := a == .both || b == .both || a == b

/-- The first queued job of a unit that may run: no earlier job uses what it needs (R306, R327). -/
def readyJob (u : CoreUnit) : List Job → List Job → Option Job
  | _, [] => none
  | before, j :: js =>
    let free := if u == .cdma then !(before.any fun b => sharesEngine b.engines j.engines) else before.isEmpty
    if j.st == .queued && free then some j else readyJob u (j :: before) js

/-- Run the queued jobs of a unit that may run, at most `n`. -/
def runReady (c : Nat) (u : CoreUnit) : Nat → State → State
  | 0, s => s
  | n + 1, s =>
    match readyJob u [] (unitJobs (getCore s c) u) with
    | some j => runReady c u n (runJob s c u j)
    | none => s

/-- A new job. -/
def newJob (idx entry : Nat) (e : Engines) (ms : List Micro) (descA descB : Nat) : Job :=
  { idx := idx, entry := entry, engines := e, st := .queued, micros := ms, work := Scratch.reset, descA := descA,
    descB := descB, tag := 0, sent := 0, applied := 0, remote := .none, since := 0 }

end Sys2Proof.Machine
end

