-- ==== Sys2Proof/Machine/Sequencer.lean ====
section
/-! DEFINITION. The sequencer: list start and fetch (R323 to R326), issue (R327 to R332), waits (R244, R253), branches (R333
to R337), signals (R339), hoops (R248, R256), the Tally's entries (R186) and turns up to the commit record (R361, R362). -/

namespace Sys2Proof.Machine

/-! ## List start and fetch -/

def lhFmt (h : Nat) : Nat := fld h 0 16
def lhWatchdog (h : Nat) : Nat := fld h 16 20
def lhLen (h : Nat) : Nat := fld h 36 24
def lhId (h : Nat) : Nat := fld h 60 32

/-- Positions of the header fields that R325 refuses. -/
def headerBad (h : Nat) : List Nat :=
  badIf (lhFmt h != 3) 0 ++ badIf (lhWatchdog h == 0 || lhWatchdog h > 1000000) 16 ++ badIf (lhLen h == 0) 36 ++
  (lowBit 36 92 (h >>> 92)).toList

/-- The row of 32 entries at a partition row, as the sequencer fetches it (R326). -/
inductive Fetched where
  | ok (s : State) (data : List Byte)
  | wait
  | fault (s : State) (b : Bad)

def seqWho (c : Nat) : Who := { core := c, unit := .sequencer, idx := 0, eng := .outOnly }

/-- Fetch a list row: peek in the core's P-store, through the translation in HBM. A translation is entered when missing. -/
def fetchRow (s : State) (c row : Nat) : Fetched :=
  let co := getCore s c
  let s := match translate s c (row * 512) false with
    | .miss key => setCore s c (ctuFill co key)
    | _ => s
  match readLoc s (seqWho c) (.addr row) .peek 255 with
  | .ok s d => .ok s d
  | .wait _ => .wait
  | .fault s b => .fault s b

/-- The list base may lie in the core's P-store or in HBM, 16-byte aligned (R323). -/
def baseOk (co : Core) (a : Nat) : Bool :=
  a % 16 == 0 && (region a == 0 || (match ownScratch co a with
    | some (st, _) => st == 2
    | none => false))

/-- The sequencer as a list starts (R325, R364). -/
def startedSeq (q : Seq) (r : StartReq) (h : Nat) (row : Nat × List Byte) : Seq :=
  { q with running := true, stopped := false, base := r.base, listId := lhId h, listLen := lhLen h,
           watchdog := lhWatchdog h, pos := r.entry, l0 := r.l0, l1 := r.l1, l2 := r.l2, l3 := r.l3, turn := r.turn,
           workSeq := r.workSeq, fetch := [row], issued := [], block := none }

/-- The sequencer when the header is refused: the list does not start (R325). -/
def refusedSeq (q : Seq) (r : StartReq) (id : Nat) : Seq :=
  { q with running := false, stopped := false, base := r.base, listId := id, workSeq := r.workSeq, fetch := [], issued := [],
           block := none }

/-- LIST_START (R325). A core that sleeps is woken first (R526, R528). -/
def execListStart (core : Nat) (s : State) : Out :=
  onCore core (
    let co := getCore s core
    match (if (getPower s (.core core)).st ≥ 2 || (getPower s (.core core)).entry.isSome then none else co.startReq) with
    | none => .next s
    | some r =>
      if !(baseOk co r.base) then
        let s := setCore s core { co with startReq := none, seq := refusedSeq co.seq r 0 }
        .next (raiseFault s core .sequencer 0 { code := cLayerField, unit := uSeq, addr := r.base, detail := 0xFFFFFFFF })
      else
        match fetchRow s core (r.base / 512) with
        | .wait => .next s
        | .fault s b =>
          let s := modCore s core fun co => { co with startReq := none, seq := refusedSeq co.seq r 0 }
          .next (raiseFault s core .sequencer 0 b)
        | .ok s data =>
          let h := numAt data (r.base % 512) 16
          match minPos (headerBad h) with
          | some p =>
            let s := modCore s core fun co => { co with startReq := none, seq := refusedSeq co.seq r (lhId h) }
            .next (raiseFault s core .sequencer 0 { code := cLayerField, unit := uSeq, addr := r.base, detail := p })
          | none =>
            .next (modCore s core fun co =>
              { co with startReq := none, seq := startedSeq co.seq r h (r.base / 512, data) }))

/-- LIST_FETCH_RETURN (R326): the row of the entry that issues next, or one of the three after it. -/
def execListFetchReturn (core ahead : Nat) (s : State) : Out :=
  onCore core (
    let q := (getCore s core).seq
    let row := (q.base + 16 * q.pos) / 512 + ahead
    if !q.running || q.stopped || ahead ≥ 4 || (q.fetch.any fun e => e.1 == row) || row > (q.base + 16 * q.listLen) / 512
    then .next s
    else match fetchRow s core row with
      | .wait => .next s
      | .fault s b => .next (raiseFault s core .sequencer q.pos b)
      | .ok s data =>
        .next (modCore s core fun co => { co with seq := { co.seq with fetch := ((row, data) :: co.seq.fetch).take 4 } }))

/-! ## Issue -/

def entryAddr (co : Core) (idx : Nat) : Nat := co.seq.base + 16 * (idx % 2 ^ 24)

/-- The entry that issues next, when the sequencer runs, nothing blocks it and the fetch buffer holds it. -/
def current (co : Core) : Option Nat :=
  let q := co.seq
  if !q.running || q.stopped || q.block.isSome then none
  else
    let a := q.base + 16 * q.pos
    (q.fetch.find? fun e => e.1 == a / 512).map fun e => numAt e.2 (a % 512) 16

/-- The number of the issue that is made now. -/
def ticket (co : Core) : Nat := co.seq.pos + 2 ^ 24 * co.seq.serial

def entryFault (s : State) (c idx p : Nat) : State :=
  raiseFault s c .sequencer idx { code := cLayerField, unit := uSeq, addr := entryAddr (getCore s c) idx, detail := p }

/-- The sequencer goes on to entry `pos`; past the last entry it faults (R337). -/
def goTo (s : State) (c pos : Nat) : State :=
  let co := getCore s c
  if co.seq.stopped then s
  else
    let s := setCore s c { co with seq := { co.seq with pos := pos, serial := co.seq.serial + 1, block := none } }
    if pos > co.seq.listLen then entryFault s c pos 0xFFFFFFFF else s

def nextEntry (s : State) (c : Nat) : State := goTo s c ((getCore s c).seq.pos + 1)

/-- The first tag from `t` on, of `n` and one more, that none of the tags in use equals. -/
def freeTag (used : List Nat) : Nat → Nat → Nat
  | 0, t => t
  | n + 1, t => if used.contains t then freeTag used n ((t + 1) % 4096) else t

/-- An entry that a unit runs has been issued, with a move tag of its own among those outstanding (R399). -/
def noteIssued (co : Core) (idx kind : Nat) (toHoop : Bool) : Core :=
  let tag := freeTag (co.seq.issued.map (·.mtag)) co.seq.issued.length (idx / 2 ^ 24 % 4096)
  { co with seq := { co.seq with issued := co.seq.issued ++ [{ idx := idx, kind := kind, toHoop := toHoop, mtag := tag }] } }

/-- The issue of an entry by the command of its kind: nothing happens when another kind of entry is next, when `SYNC` holds
it (R329) or when it has no room (R327); a refused entry faults (R331); else `act`. `sel` tells the commands of one kind
apart. -/
def issueAt (c kind : Nat) (s : State) (sel : Nat → Bool) (room : Core → Nat → Bool) (act : Nat → Nat → State) : Out :=
  onCore c (
    let co := getCore s c
    match current co with
    | none => .next s
    | some e =>
      if (enKind e != kind && enKind e != 15) || (enSync e && !co.seq.issued.isEmpty) || !(room co e) then .next s
      else match enCheck co e with
        | some p => .next (entryFault s c (ticket co) p)
        | none => if sel e then .next (act (ticket co) e) else .next s)

def anySel (_ : Nat) : Bool := true
def anyRoom (_ : Core) (_ : Nat) : Bool := true

/-- Issue an entry to a unit: it is queued, the unit runs what it can, and the sequencer goes on. -/
def issueJob (s : State) (c : Nat) (u : CoreUnit) (j : Job) (kind : Nat) (toHoop : Bool) : State :=
  let s := modCore s c fun co => noteIssued (withJobs co u (unitJobs co u ++ [j])) j.idx kind toHoop
  nextEntry (if u == .dieDma then s else if u == .press then readAhead (runReady c u 1 s) c else runReady c u 1 s) c

/-- RUN_LAYER (R76, R327). -/
def execRunLayer (core : Nat) (s : State) : Out :=
  issueAt core 1 s anySel (fun co _ => co.press.length < 2) fun idx e =>
    issueJob s core .press (newJob idx e .both [.start] 0 0) 1 false

/-! ## Moves (R306, R307, R327) -/

/-- Jobs of a core that use one of the DMA engines. -/
def engineJobs (co : Core) (e : Engines) : Nat := (co.cdma.filter fun j => sharesEngine j.engines e).length

/-- A move issues: both descriptors are read and the engines chosen. -/
def issueMove (s : State) (c idx e : Nat) : State :=
  let w := seqWho c
  match readBlock s w (fld e 0 48) 64 with
  | .wait _ => s
  | .fault s b => raiseFault s c .sequencer idx { b with unit := uSeq }
  | .ok s src =>
    match readBlock s w (fld e 48 48) 64 with
    | .wait _ => s
    | .fault s b => raiseFault s c .sequencer idx { b with unit := uSeq }
    | .ok s dst =>
      let co := getCore s c
      let sd := leNat src
      let dd := leNat dst
      let toHoop := region (tdBase dd) == 3
      if bitAt e 100 then
        issueJob s c .dieDma (newJob idx e .both [.start] sd dd) 2 toHoop
      else match tdOwn co sd, tdOwn co dd with
        | none, none =>
          raiseFault s c .sequencer idx { code := cLayerField, unit := uSeq, addr := fld e 0 48, detail := 0 }
        | a, b =>
          let eng := if a.isSome && b.isSome then Engines.both else if b.isSome then .inOnly else .outOnly
          if (if eng == .outOnly then false else engineJobs co .inOnly ≥ 3) ||
             (if eng == .inOnly then false else engineJobs co .outOnly ≥ 3) then s
          else issueJob s c .cdma (newJob idx e eng [.start] sd dd) 2 toHoop

/-- The issue of a move with function `fn`. -/
def moveIssue (core fn : Nat) (s : State) : Out :=
  issueAt core 2 s (fun e => fld e 96 4 == fn) (fun co e => !(bitAt e 100) || co.dieJobs.length < 4) fun idx e =>
    issueMove s core idx e

/-- MOVE_COPY (R293). -/
def execMoveCopy (core : Nat) (s : State) : Out := moveIssue core 0 s
/-- MOVE_COMPRESS (R294). -/
def execMoveCompress (core : Nat) (s : State) : Out := moveIssue core 1 s
/-- MOVE_ZERO_RUN_STORE (R295). -/
def execMoveZeroRunStore (core : Nat) (s : State) : Out := moveIssue core 2 s
/-- MOVE_MASK_TRANSPOSE (R296). -/
def execMoveMaskTranspose (core : Nat) (s : State) : Out := moveIssue core 3 s
/-- MOVE_SCATTER_ADD (R216). -/
def execMoveScatterAdd (core : Nat) (s : State) : Out := moveIssue core 4 s
/-- MOVE_REDUCE_CONTRIBUTION (R346). -/
def execMoveReduceContribution (core : Nat) (s : State) : Out := moveIssue core 5 s
/-- MOVE_SELECTIVE_FETCH (R225). -/
def execMoveSelectiveFetch (core : Nat) (s : State) : Out := moveIssue core 6 s

/-- The move of a core that starts next: its moves start in issue order, each when the rows of those before it have moved
(R307). -/
def nextDieMove : List Job → Option Job
  | [] => none
  | j :: js => match j.st with
    | .queued => some j
    | .done => nextDieMove js
    | .waiting _ => none

/-- DIE_DMA_MOVE_START (R307): the move's checks are made, and its rows take their turns from then on (`serveDie`). -/
def execDieDmaMoveStart (core : Nat) (s : State) : Out :=
  onCore core (match nextDieMove (getCore s core).dieJobs with
    | some j => .next (resume s core .dieDma j)
    | none => .next s)

/-- The move of a core whose row is ready for the die DMA engine. -/
def turnJob (co : Core) : Option Job := co.dieJobs.find? fun j => match j.st with
  | .waiting x => x.kind == .turn
  | _ => false

/-- One turn for a core, when a row of a move of it is ready and moves: the state after. -/
def serveCore (s : State) (c : Nat) : Option State :=
  match turnJob (getCore s c) with
  | none => none
  | some j =>
    match runTurn (whoOf c .dieDma j) j.micros s j with
    | .wait s' j' x =>
      if x.kind == .turn then some (settle c .dieDma (.wait s' j' x)) else none
    | r => some (settle c .dieDma r)

/-- A move whose presented row turns out not to be ready waits for what the row waits for. -/
def holdBack (s : State) (c : Nat) : State :=
  match turnJob (getCore s c) with
  | none => s
  | some j =>
    match runTurn (whoOf c .dieDma j) j.micros s j with
    | .wait s' j' x => if x.kind == .turn then s else settle c .dieDma (.wait s' j' x)
    | _ => s

/-- The die DMA engine of a die serves the first of the given cores that has a row ready (R307). -/
def serveFirst (d : Nat) : List Nat → State → State
  | [], s => s
  | c :: cs, s =>
    match serveCore s c with
    | some s => modDie s d fun e => { e with dmaLast := some c }
    | none => serveFirst d cs (holdBack s c)

/-- The cores of a die in the order of service: ascending after the core served last, then from the lowest (R307). -/
def serviceOrder (last : Option Nat) (d : Nat) : List Nat :=
  let cs := (List.range Config.coresPerDie).map (Config.coresPerDie * d + ·)
  match last with
  | none => cs
  | some l => cs.filter (fun c => l < c) ++ cs.filter (fun c => c ≤ l)

/-- One row moves at the die DMA engine of a die (R307). -/
def serveDie (s : State) (d : Nat) : State := serveFirst d (serviceOrder (getDie s d).dmaLast d) s

/-- Every die DMA engine serves one row (log 91). -/
def serveDies (s : State) : State :=
  if s.cores.any (fun e => (turnJob e.2).isSome) then (List.range Config.nDies).foldl serveDie s else s

/-- A move is complete: its last row is written, applied or taken, its HBM writes are acknowledged at the die DMA, and its
scatter entries have retired (R220, R327, R403). -/
def moveDone (co : Core) (u : CoreUnit) (j : Job) : Bool :=
  j.st == .done && j.sent == j.applied && !(co.cq.any fun e => e.owner == .scatter j.idx) &&
  (u != .dieDma || !(co.unacked.any fun x => x.2 == j.idx))

/-- A completed operation leaves its unit, its holds end, its entry completes, and the unit goes on. -/
def finishJob (s : State) (c : Nat) (u : CoreUnit) (idx : Nat) : State :=
  runReady c u 2 (modCore s c fun co => completeEntry (dropHoldsOf (dropJob co u idx) u idx) idx)

/-- MOVE_COMPLETE (R327): `idx` names the issue. -/
def execMoveComplete (core idx : Nat) (s : State) : Out :=
  onCore core (
    let co := getCore s core
    match findJob co .cdma idx with
    | some j => if moveDone co .cdma j then .next (finishJob s core .cdma idx) else .next s
    | none =>
      match co.dieJobs with
      | j :: _ => if j.idx = idx ∧ moveDone co .dieDma j then
          .next (modCore s core fun co => completeEntry (dropHoldsOf (dropJob co .dieDma idx) .dieDma idx) idx)
        else .next s
      | [] => .next s)

/-- Remove the first element that meets a condition. -/
def dropFirst {α : Type} (p : α → Bool) : List α → List α
  | [] => []
  | a :: l => if p a then l else a :: dropFirst p l

/-- HBM_WRITE_ACK (R327, R308). -/
def execHbmWriteAck (core stack : Nat) (s : State) : Out :=
  onCore core (onStack stack (.next (modCore s core fun co =>
    { co with unacked := dropFirst (fun x => x.1 == stack) co.unacked })))

/-! ## Row engine (R236 to R239) -/

def rowRoom (co : Core) (_ : Nat) : Bool := co.rowJobs.length < 2

/-- FILL (R236). -/
def execFill (core : Nat) (s : State) : Out :=
  issueAt core 3 s (fun e => fld e 92 2 == 0) rowRoom fun idx e =>
    issueJob s core .row (newJob idx e .both [.start] 0 0) 3 false

/-- MARK_EMPTY (R239). -/
def execMarkEmpty (core : Nat) (s : State) : Out :=
  issueAt core 3 s (fun e => fld e 92 2 == 1) rowRoom fun idx e =>
    issueJob s core .row (newJob idx e .both [.start] 0 0) 3 false

/-- MARK_FULL (R239). -/
def execMarkFull (core : Nat) (s : State) : Out :=
  issueAt core 3 s (fun e => fld e 92 2 == 2) rowRoom fun idx e =>
    issueJob s core .row (newJob idx e .both [.start] 0 0) 3 false

/-- COPY (R237, R238). -/
def execCopy (core : Nat) (s : State) : Out :=
  issueAt core 4 s anySel rowRoom fun idx e => issueJob s core .row (newJob idx e .both [.start] 0 0) 4 false

/-- The first operation of a unit is done: it completes. -/
def completeHead (s : State) (c : Nat) (u : CoreUnit) : State :=
  match unitJobs (getCore s c) u with
  | j :: _ => if j.st = .done then finishJob s c u j.idx else s
  | [] => s

/-- ROW_ENGINE_COMPLETE (R327). -/
def execRowEngineComplete (core : Nat) (s : State) : Out := onCore core (.next (completeHead s core .row))

/-! ## Vector unit and FSU -/

def vecIssue (core vop : Nat) (s : State) : Out :=
  issueAt core 13 s (fun e => fld e 48 3 == vop) (fun co _ => co.vecJobs.length < 2) fun idx e =>
    issueJob s core .vector (newJob idx e .both [.start] 0 0) 13 false

/-- QUANTISE (R163). -/
def execQuantise (core : Nat) (s : State) : Out := vecIssue core 0 s
/-- SCALE_GRADIENT (R176). -/
def execScaleGradient (core : Nat) (s : State) : Out := vecIssue core 1 s
/-- OPTIMISER_UPDATE (R181). -/
def execOptimiserUpdate (core : Nat) (s : State) : Out := vecIssue core 2 s
/-- TOP_K (R354). -/
def execTopK (core : Nat) (s : State) : Out := vecIssue core 3 s
/-- ROW_OPERATION (R356). -/
def execRowOperation (core : Nat) (s : State) : Out := vecIssue core 4 s

/-- VECTOR_OP_COMPLETE (R327). -/
def execVectorOpComplete (core : Nat) (s : State) : Out := onCore core (.next (completeHead s core .vector))

/-- FSU_JOB (R359). -/
def execFsuJob (core : Nat) (s : State) : Out :=
  issueAt core 14 s anySel (fun co _ => co.fsuJobs.length < 2) fun idx e =>
    issueJob s core .fsu (newJob idx e .both [.start] 0 0) 14 false

/-- FSU_JOB_COMPLETE (R360). -/
def execFsuJobComplete (core : Nat) (s : State) : Out := onCore core (.next (completeHead s core .fsu))

/-! ## Waits (R244, R253, R328) -/

/-- An entry that the sequencer runs itself blocks issue (R328). -/
def blockOn (s : State) (c idx e stage : Nat) : State :=
  modCore s c fun co => { co with seq := { co.seq with block := some { idx := idx, entry := e, stage := stage } } }

/-- The blocking entry of a kind, when there is one. -/
def blocked (co : Core) (kind : Nat) : Option SeqBlock :=
  match co.seq.block with
  | some b => if enKind b.entry = kind && !co.seq.stopped then some b else none
  | none => none

/-- WAIT_COUNT (R253). -/
def execWaitCount (core : Nat) (s : State) : Out :=
  issueAt core 5 s anySel anyRoom fun idx e => blockOn s core idx e 0

/-- The count has come: (counter - target) mod 2^32 < 2^31 (R253). -/
def countMet (counter : Word) (target : Nat) : Bool := (counter - BitVec.ofNat 32 target).toNat < 2 ^ 31

/-- WAIT_COUNT_MET (R253). -/
def execWaitCountMet (core : Nat) (s : State) : Out :=
  onCore core (
    let co := getCore s core
    match blocked co 5 with
    | some b =>
      if countMet (tget co.hoops (fld b.entry 0 4) Hoop.reset).counter (fld b.entry 4 32)
      then .next (nextEntry s core) else .next s
    | none => .next s)

/-- WAIT_TAG (R244). -/
def execWaitTag (core : Nat) (s : State) : Out :=
  issueAt core 6 s anySel anyRoom fun idx e => blockOn s core idx e 0

/-- WAIT_TAG_MET (R244). -/
def execWaitTagMet (core : Nat) (s : State) : Out :=
  onCore core (
    let co := getCore s core
    match blocked co 6 with
    | some b =>
      match ownScratch co (fld b.entry 0 48) with
      | some (st, r) =>
        if isFull s (storeRow core st r) = bitAt b.entry 48 then .next (nextEntry s core) else .next s
      | none => .next s
    | none => .next s)

/-! ## Signals (R339) -/

/-- SIGNAL (R339). -/
def execSignal (core : Nat) (s : State) : Out :=
  issueAt core 7 s anySel (fun co _ => co.signals.length < 4) fun idx e =>
    nextEntry (modCore s core fun co =>
      { noteIssued co idx 7 false with signals := co.signals ++ [{ idx := idx, entry := e, sent := false }] }) core

/-- Every earlier move to a hoop address has completed. -/
def signalFree (co : Core) (idx : Nat) : Bool :=
  !((co.seq.issued.takeWhile fun i => !(i.idx == idx)).any fun i => i.toHoop)

def signalWho (c idx : Nat) : Who := { core := c, unit := .signal, idx := idx, eng := .outOnly }

/-- SIGNAL_SEND (R339). -/
def execSignalSend (core : Nat) (s : State) : Out :=
  onCore core (
    let co := getCore s core
    match co.signals.find? fun g => !g.sent with
    | none => .next s
    | some g =>
      if !(signalFree co g.idx) then .next s
      else
        let a := fld g.entry 0 48
        let remote := if bitAt g.entry 64 then some (fld g.entry 48 16) else none
        match hoopDest s core remote (hoopCore a) (hoopNum a) (hoopReserved a) with
        | .miss _ => .next s
        | .bad => .next (raiseFault s core .signal g.idx { code := cXlate, unit := uSeq, addr := a, detail := 0 })
        | dest =>
          let s := modCore s core fun co =>
            { co with signals := co.signals.map fun h => if h.idx == g.idx then { h with sent := true } else h }
          .next (sendHoop s (signalWho core g.idx) (.signal (fld g.entry 65 16)) dest (hoopCore a)
            (hoopNum a) (hoopRowOf a) []))

/-! ## Hoops (R248, R249, R256) -/

/-- OPEN_HOOP (R248). -/
def execOpenHoop (core : Nat) (s : State) : Out :=
  issueAt core 8 s anySel anyRoom fun idx e => blockOn s core idx e 0

/-- The hoop that an open-hoop entry opens (R247, R249). -/
def hoopOf (s : State) (co : Core) (e : Nat) : Hoop :=
  let kind := fld e 29 2
  let src := fld e 31 16
  { isOpen := true, store := fld e 4 2, base := fld e 6 11, rows := fld e 17 12, srcKind := kind, src := src,
    srcCore := if kind = 0 then (getPart s co.part).bind fun p => tget? p.places src else none,
    ops := fld e 47 3, wrOver := bitAt e 50, rdTake := bitAt e 51, counter := 0,
    refused := (tget co.hoops (fld e 0 4) Hoop.reset).refused, fenced := false }

/-- Some operation of the core holds a row of the range (R248). -/
def rangeHeld (c : Nat) (co : Core) (store base rows : Nat) : Bool :=
  co.holds.any fun h => storeRow c store base ≤ h.1 && h.1 < storeRow c store (base + rows)

/-- HOOP_OPENED (R248). -/
def execHoopOpened (core : Nat) (s : State) : Out :=
  onCore core (
    let co := getCore s core
    match blocked co 8 with
    | some b =>
      let h := hoopOf s co b.entry
      if rangeHeld core co h.store h.base h.rows then .next s
      else
        let s := if h.srcKind = 1 then markRemote s core h.src else s
        .next (nextEntry (setCore s core { co with hoops := tput co.hoops (fld b.entry 0 4) h }) core)
    | none => .next s)

/-- CLOSE_HOOP (R256): acceptance stops. -/
def execCloseHoop (core : Nat) (s : State) : Out :=
  issueAt core 9 s anySel anyRoom fun idx e =>
    blockOn (modCore s core fun co => modHoop co (fld e 0 4) fun h => { h with isOpen := false }) core idx e 0

/-- Reduce-adds granted to a hoop before its close are still queued (R256). -/
def hoopBusy (co : Core) (p : Nat → Bool) : Bool :=
  co.cq.any fun e => match e.owner with
    | .arrival h _ => p h
    | _ => false

/-- CLOSE_HOOP_COMPLETE (R256). -/
def execCloseHoopComplete (core : Nat) (s : State) : Out :=
  onCore core (
    let co := getCore s core
    match blocked co 9 with
    | some b => if hoopBusy co (fun h => h == fld b.entry 0 4) then .next s else .next (nextEntry s core)
    | none => .next s)

/-! ## Histogram entries (R186) -/

def modEngine (co : Core) (k : Nat) (f : TallyEngine → TallyEngine) : Core :=
  { co with tally := tput co.tally k (f (tget co.tally k TallyEngine.reset)) }

/-- HISTOGRAM_ARM (R186). -/
def execHistogramArm (core : Nat) (s : State) : Out :=
  issueAt core 10 s (fun e => fld e 2 2 == 0) anyRoom fun _ e =>
    nextEntry (modCore s core fun co => modEngine co (fld e 0 2) fun _ =>
      { armed := true, tap := fld e 4 3, eBase := fld e 7 8, bins := [] }) core

/-- HISTOGRAM_STOP (R186). -/
def execHistogramStop (core : Nat) (s : State) : Out :=
  issueAt core 10 s (fun e => fld e 2 2 == 1) anyRoom fun _ e =>
    nextEntry (modCore s core fun co => modEngine co (fld e 0 2) fun t => { t with armed := false }) core

/-- The dumps that are done complete (R327). -/
def reapTally (s : State) (c : Nat) : State :=
  modCore s c fun co =>
    let ended := co.tallyJobs.filter fun j => j.st == .done
    ended.foldl (fun co j => completeEntry (dropJob co .tally j.idx) j.idx) co

/-- A dump issues with the counts as they stand (R186). -/
def issueDump (s : State) (c idx e : Nat) (clear : Bool) : State :=
  let t := tget (getCore s c).tally (fld e 0 2) TallyEngine.reset
  let outs := (dumpRows t).zipIdx.map fun r => (r.2, outRow (.own 2 (fld e 15 11 + r.2)) r.1)
  let j := newJob idx e .both [.wrOut 0 .put, .wrOut 1 .put] 0 0
  let s := modCore s c fun co =>
    noteIssued { co with tallyJobs := co.tallyJobs ++ [{ j with work := { j.work with outs := outs } }] } idx 10 false
  let s := if clear then modCore s c fun co => modEngine co (fld e 0 2) fun t => { t with bins := [] } else s
  nextEntry (reapTally (runReady c .tally 1 s) c) c

/-- HISTOGRAM_DUMP (R186). -/
def execHistogramDump (core : Nat) (s : State) : Out :=
  issueAt core 10 s (fun e => fld e 2 2 == 2) anyRoom fun idx e => issueDump s core idx e false

/-- HISTOGRAM_DUMP_AND_CLEAR (R186). -/
def execHistogramDumpAndClear (core : Nat) (s : State) : Out :=
  issueAt core 10 s (fun e => fld e 2 2 == 3) anyRoom fun idx e => issueDump s core idx e true

/-! ## Turns (R361, R362) -/

/-- TURN (R361): after every earlier entry; an open hoop faults it. -/
def execTurn (core : Nat) (s : State) : Out :=
  issueAt core 11 s anySel (fun co _ => co.seq.issued.isEmpty) fun idx e =>
    if (getCore s core).hoops.any fun h => h.2.isOpen then entryFault s core idx 0xFFFFFFFF
    else blockOn s core idx e 1

/-- The commit record (R362), without its check. -/
def commitBody (co : Core) (idx e turn : Nat) : Nat :=
  (co.seq.l3.toNat <<< 288) + (co.seq.l2.toNat <<< 256) + (co.seq.l1.toNat <<< 224) + (co.seq.l0.toNat <<< 192) +
  ((co.seq.workSeq % 2 ^ 64) <<< 128) + ((co.place % 1024) <<< 96) + (fld e 48 24 <<< 72) + (((idx + 1) % 2 ^ 24) <<< 48) +
  ((turn % 65536) <<< 32) + co.seq.listId % 2 ^ 32

def commitRecord (co : Core) (idx e turn : Nat) : List Byte :=
  let body := leBytes 60 (commitBody co idx e turn)
  body ++ leBytes 4 (crc32c body)

/-- Address of the slot that turn `c` writes. -/
def commitSlot (e turn : Nat) : Nat := fld e 0 48 + 64 * (turn % 2)

/-- TURN_COMMIT_WRITE (R361): once every HBM write is acknowledged, the turn counter rises and the record goes to its controller; it
stands when the controller acknowledges it (`writeCommit`). -/
def execTurnCommitWrite (core : Nat) (s : State) : Out :=
  onCore core (
    let co := getCore s core
    match blocked co 11 with
    | some b =>
      if b.stage != 1 || !co.unacked.isEmpty then .next s
      else
        let turn := co.seq.turn + 1
        let a := commitSlot b.entry turn.toNat
        match translate s core a true with
        | .miss _ => .next s
        | .bad code =>
          .next (raiseFault s core .sequencer b.idx { code := code, unit := uSeq, addr := a, detail := 0 })
        | .ok row => if asleep s row then .next s else
          .next (modCore s core fun co =>
            { co with seq := { co.seq with turn := turn, block := some { b with stage := 2 } } })
    | none => .next s)

/-- The commit record of the turn in progress is written, as one 64-byte word (R361). -/
def writeCommit (s : State) (c : Nat) (b : SeqBlock) : State :=
  let co := getCore s c
  let a := commitSlot b.entry co.seq.turn.toNat
  match tableLookup s co.part a true with
  | .ok row =>
    (putRow s row (padTo 512 (zeros (a % 512) ++ commitRecord co b.idx b.entry co.seq.turn.toNat))
      ((2 ^ 64 - 1) <<< (a % 512))).1
  | _ => s

/-! ## Branches (R333 to R337) -/

def loopReg (q : Seq) (k : Nat) : Word := if k = 0 then q.l0 else if k = 1 then q.l1 else if k = 2 then q.l2 else q.l3

def setLoop (q : Seq) (k : Nat) (v : Word) : Seq :=
  if k = 0 then { q with l0 := v } else if k = 1 then { q with l1 := v } else if k = 2 then { q with l2 := v }
  else { q with l3 := v }

/-- The counter that `BR_SRC` names (R333). -/
def branchCounter (co : Core) (src : Nat) : Nat :=
  let st := co.stats
  if src < 16 then (tget co.hoops src Hoop.reset).counter.toNat
  else if src < 20 then nth st.satCount (src - 16) 0
  else match src with
    | 20 => if st.satFlag.any id then 1 else 0
    | 21 => st.predNominal
    | 22 => st.predSkim
    | 23 => st.predSkip
    | 24 => st.skimNominal
    | 25 => st.conv
    | 26 => st.clip
    | 27 => st.nan
    | 28 => st.updRefused
    | 29 => co.hoopRefused
    | _ => (loopReg co.seq (src - 32)).toNat

/-- The entries whose completion a counter waits for have completed (R333). -/
def counterReady (co : Core) (src : Nat) : Bool :=
  let none1 := fun (k : Nat) => !(co.seq.issued.any fun i => i.kind == k)
  if 16 ≤ src && src ≤ 24 then none1 1
  else if 25 ≤ src && src ≤ 27 then none1 1 && none1 13
  else if src = 28 then none1 13
  else true

/-- The comparison (R335). -/
def branchTaken (cmp src c v : Nat) : Bool :=
  let below := if src < 16 then decide ((c + 2 ^ 32 - v) % 2 ^ 32 ≥ 2 ^ 31) else decide (c < v)
  match cmp with
  | 0 => true
  | 1 => below
  | 2 => !below
  | 3 => c == v
  | _ => c != v

/-- The branch goes to its target, or to the next entry; a target outside the list faults (R337, R602). -/
def branchGo (s : State) (c idx e : Nat) (taken : Bool) : State :=
  let co := getCore s c
  if taken then
    let t : Int := (co.seq.pos : Int) + signed 24 (fld e 43 24)
    if t < 1 || t > (co.seq.listLen : Int) then
      raiseFault s c .sequencer idx { code := cLayerField, unit := uSeq, addr := co.seq.base, detail := 36 }
    else goTo s c t.toNat
  else nextEntry s c

/-- BRANCH_ON_COUNT (R335). -/
def execBranchOnCount (core : Nat) (s : State) : Out :=
  issueAt core 12 s (fun e => fld e 9 2 == 0) (fun co e => counterReady co (fld e 0 6)) fun idx e =>
    branchGo s core idx e
      (branchTaken (fld e 6 3) (fld e 0 6) (branchCounter (getCore s core) (fld e 0 6)) (fld e 11 32))

/-- A loop register less one, stopping at 0 (R336). -/
def lessOne (v : Word) : Word := if v = 0 then 0 else v - 1

/-- BRANCH_DECREMENT (R336). -/
def execBranchDecrement (core : Nat) (s : State) : Out :=
  issueAt core 12 s (fun e => fld e 9 2 == 1) anyRoom fun idx e =>
    let k := fld e 0 6 - 32
    let v := lessOne (loopReg (getCore s core).seq k)
    branchGo (modCore s core fun co => { co with seq := setLoop co.seq k v }) core idx e
      (branchTaken (fld e 6 3) (fld e 0 6) v.toNat (fld e 11 32))

/-- LOOP_LOAD (R336). -/
def execLoopLoad (core : Nat) (s : State) : Out :=
  issueAt core 12 s (fun e => fld e 9 2 == 2) anyRoom fun _ e =>
    nextEntry (modCore s core fun co =>
      { co with seq := setLoop co.seq (fld e 0 6 - 32) (BitVec.ofNat 32 (fld e 11 32)) }) core

/-! ## Grants, watchdogs, translations -/

/-- The waiting operations of a unit. Nothing orders the waits of one with those of another (R330). -/
def waitingJobs (co : Core) (u : CoreUnit) : List Job :=
  (unitJobs co u).filter fun j => match j.st with
    | .waiting _ => true
    | _ => false

/-- Waits that a grant may end. -/
def grantable (k : WaitKind) : Bool :=
  match k with
  | .railDown => false
  | .railBack => false
  | .translation => false
  | .turn => false
  | _ => true

/-- The wait of an operation, when a grant may end it. -/
def grantsJob (j : Job) : Bool :=
  match j.st with
  | .waiting x => grantable x.kind
  | _ => false

/-- The operation of an issue goes on when it waits for what a grant may give. -/
def grantTo (c : Nat) (u : CoreUnit) (s : State) (idx : Nat) : State :=
  match findJob (getCore s c) u idx with
  | some j => if grantsJob j then resume s c u j else s
  | none => s

/-- ACCESS_GRANT_AFTER_WAIT (R242): every operation of the unit whose wait has ended goes on. -/
def execAccessGrantAfterWait (core : Nat) (unit : CoreUnit) (s : State) : Out :=
  onCore core (
    let s := ((waitingJobs (getCore s core) unit).map (·.idx)).foldl (grantTo core unit) s
    .next (if unit == .tally then reapTally s core else s))

/-- The number of R371 for a wait that the watchdog bounds (R338). -/
def timeoutCode (k : WaitKind) : Option Nat :=
  match k with
  | .tag => some 0
  | .hold => some 1
  | .arrivalCount => some 2
  | .remoteRead => some 3
  | .reduction => some 4
  | .listFetch => some 5
  | .closeHoop => some 6
  | .route => some 7
  | .applied => some 8
  | _ => none

/-- The wait of the sequencer itself, when it has one (R338). A wait-count on a hoop whose source is a die reducer waits for a
reduction result (R120, R371; DEDUCED, log 92). -/
def seqWait (s : State) (c : Nat) (co : Core) : Option (Nat × Wait) :=
  let q := co.seq
  if !q.running || q.stopped then none
  else match q.block with
    | some b =>
      let hoopA := hoopAddr co.place (fld b.entry 0 4) 0
      match enKind b.entry with
      | 5 =>
        let h := tget co.hoops (fld b.entry 0 4) Hoop.reset
        if countMet h.counter (fld b.entry 4 32) then none
        else some (b.idx, { kind := if h.srcKind = 2 then .reduction else .arrivalCount, addr := hoopA })
      | 6 => match ownScratch co (fld b.entry 0 48) with
        | some (st, r) => if isFull s (storeRow c st r) = bitAt b.entry 48 then none
                          else some (b.idx, { kind := .tag, addr := fld b.entry 0 48 })
        | none => none
      | 8 =>
        let h := hoopOf s co b.entry
        if rangeHeld c co h.store h.base h.rows then
          some (b.idx, { kind := .hold, addr := scratchAddr co.place h.store h.base }) else none
      | 9 => if hoopBusy co (fun h => h == fld b.entry 0 4) then some (b.idx, { kind := .closeHoop, addr := hoopA }) else none
      | 0 => if hoopBusy co (fun _ => true) then some (b.idx, { kind := .closeHoop, addr := hoopAddr co.place 0 0 }) else none
      | _ => none
    | none =>
      let row := (q.base + 16 * q.pos) / 512
      if q.fetch.any fun e => e.1 == row then none
      else some (q.pos, { kind := .listFetch, addr := row * 512 })

/-- The hoop address of a packet. -/
def packetAddr (p : Packet) : Nat := hoopAddr p.core p.hoop p.row

/-- The step that an operation waits at is a write. -/
def headWrites (j : Job) : Bool :=
  match j.micros with
  | .wr _ _ _ _ _ :: _ => true
  | .wrOut _ _ :: _ => true
  | _ => false

/-- What keeps a conflict entry from retiring (R218, R220, R251). -/
def entryWait (s : State) (g : Nat) (co : Core) (q : CqEntry) : Option WaitKind :=
  let row := storeRow g 2 q.row
  let held := match q.owner with
    | .press idx => heldByOther co row .press idx
    | .scatter idx => heldByOther co row .cdma idx
    | .arrival _ _ => heldAny co row
  let own := match q.owner with
    | .press idx => heldBySelf co row .press idx
    | _ => false
  if held then some .hold else if isFull s row || own then none else some .tag

/-- What the head entry of the queue of a row's bank waits for (R220). -/
def headWait (s : State) (g : Nat) (co : Core) (row : Nat) : Option WaitKind :=
  (co.cq.find? fun q => bankOf 2 q.row == bankOf 2 row).bind (entryWait s g co)

/-- What an operation that waits for its bank's queue waits for: for a slot of the queue of the row at the wait's address, the head
entry's wait; for its own entries to retire, that of the first of them whose head waits (R216, R220). -/
def slotWait (s : State) (c : Nat) (co : Core) (u : CoreUnit) (idx a : Nat) : Option WaitKind :=
  let mine := fun (q : CqEntry) => match q.owner with
    | .scatter i => u == .cdma && i == idx
    | .press i => u == .press && i == idx
    | .arrival _ _ => false
  match ownScratch co a with
  | some (2, row) => if queueRoom co row then (co.cq.filter mine).findSome? fun q => headWait s c co q.row
                     else headWait s c co row
  | _ => (co.cq.filter mine).findSome? fun q => headWait s c co q.row

/-- What keeps the row that waits in a core's remote port from being written (R251). -/
def portWait (s : State) (g : Nat) (co : Core) (a : Arrival) : Option WaitKind :=
  let row := storeRow g (arrivalRow co a).1 (arrivalRow co a).2
  if a.kind != .write then
    if queueRoom co (arrivalRow co a).2 then none else headWait s g co (arrivalRow co a).2
  else if heldAny co row then some .hold
  else if !(tget co.hoops a.hoop Hoop.reset).wrOver && isFull s row then some .tag else none

/-- The wait of a row that operation `idx` of unit `u` of core `c` has sent. -/
def sentWait (s : State) (c : Nat) (u : CoreUnit) (idx : Nat) : Option Wait :=
  s.cores.findSome? fun (e : Nat × Core) =>
    let atPort := match (if e.2.portBusy then e.2.inbound.head? else none) with
      | some a =>
        if a.sender = Sender.local c u idx then
          (portWait s e.1 e.2 a).map fun k => ({ kind := k, addr := hoopAddr e.2.place a.hoop a.row } : Wait)
        else none
      | none => none
    match atPort with
    | some x => some x
    | none => e.2.cq.findSome? fun (q : CqEntry) => match q.owner with
      | .scatter i => if e.1 == c && u == .cdma && i == idx then
          (entryWait s e.1 e.2 q).map fun k => { kind := k, addr := scratchAddr e.2.place 2 q.row } else none
      | .press i => if e.1 == c && u == .press && i == idx then
          (entryWait s e.1 e.2 q).map fun k => { kind := k, addr := scratchAddr e.2.place 2 q.row } else none
      | .arrival hoop sender => if sender = Sender.local c u idx then
          (entryWait s e.1 e.2 q).map fun k =>
            { kind := k, addr := hoopAddr e.2.place hoop (q.row - (tget e.2.hoops hoop Hoop.reset).base) } else none

/-- The packet of an operation that waits for a port (R410). -/
def routeWait (co : Core) (u : CoreUnit) (idx : Nat) : Option Wait :=
  (co.outPackets.find? fun o => o.unit == u && o.idx == idx && o.closed).map fun o =>
    { kind := .route, addr := packetAddr o.packet }

/-- The first that is there. -/
def firstOf {α : Type} (l : List (Option α)) : Option α := l.findSome? id

/-- The wait of an operation that the watchdog bounds (R338): `FR_UNIT` and the wait. -/
def jobWait (s : State) (c : Nat) (u : CoreUnit) (j : Job) : Option (Nat × Wait) :=
  let co := getCore s c
  let sending := fun (x : Wait) => (senderUnit co u j.idx, x)
  match j.st with
  | .queued => none
  | .waiting _ =>
    match goOn s (whoOf c u j) j with
    | .wait s' k x =>
      let un := unitCode u j.engines (headWrites k)
      if (timeoutCode x.kind).isSome then some (un, x)
      else if x.kind = .slot then (slotWait s' c (getCore s' c) u j.idx x.addr).map fun kind => (un, { x with kind := kind })
      else (routeWait co u j.idx).map sending
    | _ => (routeWait co u j.idx).map sending
  | .done =>
    match firstOf [routeWait co u j.idx, sentWait s c u j.idx] with
    | some x => some (sending x)
    | none =>
      if j.sent != j.applied && region (tdBase j.descB) == 3 && tdRemote j.descB && jobFn j != 5 then
        some (unitCode u j.engines true, { kind := .applied, addr := tdBase j.descB })
      else none

/-- A wait, dated by when it began: the issue, `FR_UNIT` and the wait. -/
abbrev Dated := Nat × Nat × Nat × Wait

/-- The waits of a unit's operations. A signal's packet has no operation to date it. -/
def unitWaits (s : State) (c : Nat) (u : CoreUnit) : List Dated :=
  let co := getCore s c
  (unitJobs co u).filterMap (fun j => (jobWait s c u j).map fun x => (j.since, j.idx, x.1, x.2)) ++
  (if u == .signal then co.outPackets.filterMap fun o =>
    if o.unit == .signal && o.closed then
      some (0, o.idx, senderUnit co u o.idx, ({ kind := .route, addr := packetAddr o.packet } : Wait)) else none
   else [])

/-- The wait that began first: one watchdog bounds every wait of a list, so it is the first to expire (R338). -/
def oldest : List Dated → Option Dated
  | [] => none
  | x :: l => match oldest l with
    | some y => some (if y.1 < x.1 then y else x)
    | none => some x

/-- The wait that a unit's operation has outlasted: the issue, `FR_UNIT` and the wait. -/
def unitWait (s : State) (c : Nat) (u : CoreUnit) : Option (Nat × Nat × Wait) :=
  if u == .sequencer then (seqWait s c (getCore s c)).map fun x => (x.1, uSeq, x.2)
  else (oldest (unitWaits s c u)).map (·.2)

/-- What the fault of an operation's wait reports; an in-place transpose reports its destination and pairs (R301, R371). -/
def timeoutBad (co : Core) (u : CoreUnit) (idx : Nat) (b : Bad) : Bad :=
  match findJob co u idx with
  | some j => faultOf co j u b
  | none => b

/-- WATCHDOG_EXPIRY (R242, R338, R371): the waiting operation faults. -/
def execWatchdogExpiry (core : Nat) (unit : CoreUnit) (s : State) : Out :=
  onCore core (match unitWait s core unit with
    | some (idx, un, x) =>
      match timeoutCode x.kind with
      | some n => .next (raiseFault s core unit idx
          (timeoutBad (getCore s core) unit idx { code := cTimeout, unit := un, addr := x.addr, detail := n }))
      | none => .next s
    | none => .next s)

/-- The first key that an address list of the sequencer misses in the CTU. -/
def missingKey (s : State) (c : Nat) (l : List Nat) : Option Nat :=
  l.findSome? fun a => match translate s c a false with
    | .miss k => some k
    | _ => none

/-- The addresses that the sequencer translates for its entry. -/
def seqAddrs (co : Core) : List Nat :=
  match co.seq.block with
  | some b => if enKind b.entry = 11 then [fld b.entry 0 48, fld b.entry 0 48 + 64] else []
  | none => match current co with
    | some e => if enKind e = 2 then [fld e 0 48, fld e 48 48] else []
    | none => []

/-- The translation that an operation of a unit waits for: of an operation that runs, or of the descriptor of the run-layer behind it
(R345). -/
def awaited (s : State) (c : Nat) (u : CoreUnit) : Option (Job × Nat) :=
  (unitJobs (getCore s c) u).findSome? fun j => match j.st with
    | .waiting x => if x.kind = .translation then some (j, x.addr) else none
    | .queued =>
      if u == .press && !j.work.press.descRead then
        match pressRead s (whoOf c u j) j with
        | .wait _ _ x => if x.kind = .translation then some (j, x.addr) else none
        | _ => none
      else none
    | .done => none

/-- CTU_TRANSLATION_FILL (R313): the translation enters the cache and the access proceeds. -/
def execCtuTranslationFill (core : Nat) (unit : CoreUnit) (s : State) : Out :=
  onCore core (
    let co := getCore s core
    if unit == .sequencer then
      match missingKey s core (seqAddrs co) with
      | some k => .next (setCore s core (ctuFill co k))
      | none => .next s
    else if unit == .signal then
      match (co.signals.find? fun g => !g.sent) with
      | some g =>
        let a := fld g.entry 0 48
        match hoopDest s core (if bitAt g.entry 64 then some (fld g.entry 48 16) else none) (hoopCore a) (hoopNum a)
          (hoopReserved a) with
        | .miss k => .next (setCore s core (ctuFill co k))
        | _ => .next s
      | none => .next s
    else match awaited s core unit with
      | some (j, k) =>
        let s := setCore s core (ctuFill co k)
        .next (if j.st = .queued then readAhead s core else resume s core unit j)
      | none => .next s)

/-- REMOTE_READ_RETRY (R254): the request goes out again. -/
def execRemoteReadRetry (core : Nat) (unit : CoreUnit) (s : State) : Out :=
  onCore core (match (unitJobs (getCore s core) unit).find? fun j => j.remote == .notReady with
    | some j => .next (resume s core unit { j with remote := .none })
    | none => .next s)

/-! ## Skim switches that are not confirmed (R143) -/

/-- The layer of a core that waits for a switch of the rail. -/
def railJob (co : Core) (k : WaitKind) : Option Job :=
  co.press.find? fun j => match j.st with
    | .waiting x => x.kind == k
    | _ => false

/-- SKIM_DOWN_UNCONFIRMED (R143): the event is raised and the layer goes on at nominal voltage. -/
def execSkimDownUnconfirmed (core : Nat) (s : State) : Out :=
  onCore core (match railJob (getCore s core) .railDown with
    | some j =>
      let s := pushEvent s core (mkRec s core { code := cSkimFail, unit := uPress, addr := 0, detail := 0 } j.idx j.tag true)
      let s := modCore s core fun co => { co with skimFails := co.skimFails ++ [s.refCount.toNat] }
      .next (runJob s core .press { j with micros := j.micros.drop 1 })
    | none => .next s)

/-- SKIM_BACK_UNCONFIRMED (R143): the layer faults. -/
def execSkimBackUnconfirmed (core : Nat) (s : State) : Out :=
  onCore core (match railJob (getCore s core) .railBack with
    | some j => .next (raiseFault s core .press j.idx { code := cSkimFail, unit := uPress, addr := 0, detail := 1 })
    | none => .next s)

end Sys2Proof.Machine
end

