-- ==== Sys2Proof/Machine/Clock.lean ====
section
/-! DEFINITION. What passes with time alone: the 25 MHz reference count (R370, R510) and the Rind's 32.768 kHz time
counter (R509, R526); and the rows that the die DMA engines serve as it passes (R307). -/

namespace Sys2Proof.Machine

/-- The phase of the Rind time counter: every 40 ns adds 32,768, and 25,000,000 of these make one period of its clock. -/
def rindPhase (acc : Nat) : Nat × Nat :=
  let a := acc + 32768
  if a ≥ 25000000 then (a - 25000000, 1) else (a, 0)

/-- 40 ns pass on the counters. The reference runs while a domain outside the Rind has power (R510). -/
def timeTick (s : State) : State :=
  match rindPhase s.acc40 with
  | (a, k) => { s with refCount := if hubOn s then s.refCount + 1 else s.refCount, acc40 := a,
                       rind := { s.rind with time := s.rind.time + BitVec.ofNat 48 k } }

/-- One tick of the reference clock (log 2), in which every die DMA engine serves one row (R307, log 91). In M3 the Rind rests
too. -/
def idleTick (s : State) : State := if s.m3 then s else serveDies (timeTick s)

end Sys2Proof.Machine
end

