-- ==== Sys2Proof/Machine/Flags.lean ====
section
/-! DEFINITION. Status flags and their companion counters (R17, R599), the alarm flags and what they signal (R484, R533, R589,
R590, R598), and the status registers as words (R277, R369, R421, R472, R478, R545, R546, R588, R595, R597). -/

namespace Sys2Proof.Machine

/-- A number with one bit. -/
def flagBit (f : Bool) (pos : Nat) : Nat := if f then 1 <<< pos else 0

/-- A mask of flags without the flags of another mask. -/
def clearBits (x m : Nat) : Nat := x ^^^ (x &&& m)

/-! ## MSI-X (R477, R484) -/

/-- Word `k` of the MSI-X table: the vector control word of an entry resets to masked (log 20). -/
def msixWord (s : State) (k : Nat) : Word := tget s.msix.table k (if k % 4 = 3 then 1 else 0)

def setPending (s : State) (v : Nat) (on : Bool) : State :=
  let m : Dword := BitVec.ofNat 64 (1 <<< v)
  { s with msix := { s.msix with pendingBits :=
      if on then s.msix.pendingBits ||| m else s.msix.pendingBits &&& (~~~ m) } }

/-- Signal a vector: its message is a write of its data word to its address, or its pending bit is set when it is masked.
While the endpoint is in reset there is no message. -/
def signalVector (s : State) (v : Nat) : State :=
  if !s.endpointUp then s
  else if (msixWord s (4 * v + 3)).getLsbD 0 then setPending s v true
  else hostWrite s ((msixWord s (4 * v)).toNat + 2 ^ 32 * (msixWord s (4 * v + 1)).toNat)
         (leBytes 4 (msixWord s (4 * v + 2)).toNat)

/-! ## Alarms -/

/-- `SMB_LATCH` (R597). -/
def smbLatch (r : Rind) : Nat :=
  flagBit r.trip 7 + flagBit (nth r.supply 0 false) 6 + flagBit (nth r.supply 1 false) 5 + flagBit (nth r.supply 2 false) 4 +
  flagBit (nth r.supply 3 false) 3 + flagBit (nth r.supply 4 false) 2 + flagBit r.coolantHeld 1 + flagBit r.clrRefused 0

/-- The conditions of `ALERT_N` (R598): enabled alarm flags and latch bits 7 to 1. -/
def alertConds (s : State) : Nat :=
  (s.alarms.status.toNat &&& s.smbus.alertEn.toNat) + ((smbLatch s.rind / 2) <<< 16)

/-- Level of `ALERT_N` (R598). -/
def alertN (s : State) : Bool := alertConds s == 0 || s.smbus.alertReleased

/-- A condition of `ALERT_N` has gone from clear to set: the pin is driven again (R598). -/
def refreshAlert (old : Nat) (s : State) : State :=
  if clearBits (alertConds s) old != 0 then { s with smbus := { s.smbus with alertReleased := false } } else s

/-- `WAKE_N`: low while an enabled flag is set and the link is not in L0 (R533). -/
def refreshWake (s : State) : State :=
  { s with rind := { s.rind with wakeN := (s.alarms.status &&& s.alarms.enable) == 0 || s.l0 } }

/-- An occurrence of an alarm flag: it is set and counted; an enabled flag that goes from 0 to 1 signals vector 17 (R589,
R590, R599). -/
def raiseAlarm (s : State) (bit : Nat) : State :=
  let was := s.alarms.status.getLsbD bit
  let s1 := refreshWake (refreshAlert (alertConds s) (setAlarm s bit))
  if !was && s.alarms.enable.getLsbD bit then signalVector s1 17 else s1

/-- A write of ones to `ALARM_STATUS` clears flags (R589, R599). -/
def clearAlarms (s : State) (mask : Word) : State :=
  refreshWake { s with alarms := { s.alarms with status := s.alarms.status &&& (~~~ mask) } }

/-- Alarm bits of R589. -/
def alRestarted : Nat := 1
def alPhaseLost : Nat := 2
def alThrottled : Nat := 3
def alPowerCapped : Nat := 4
def alCoolant : Nat := 5
def alBar2Poison : Nat := 6
def alBar2Refused : Nat := 7
def alEvqOverflow : Nat := 8
def alStampPassed : Nat := 9

/-! ## Core and port status -/

/-- `SP_ERR_STATUS` (R277). -/
def spErrStatus (e : SpErr) : Nat :=
  ((e.lastStore % 4) <<< 22) + ((e.lastRow % 2048) <<< 11) + ((e.lastWord % 8) <<< 8) + flagBit e.spareExhausted 3 +
  flagBit e.scrubPoison 2 + flagBit e.ue 1 + flagBit e.ce 0

/-- Clear flags of `SP_ERR_STATUS`. -/
def spErrClear (e : SpErr) (m : Nat) : SpErr :=
  { e with spareExhausted := e.spareExhausted && !(bitAt m 3), scrubPoison := e.scrubPoison && !(bitAt m 2),
           ue := e.ue && !(bitAt m 1), ce := e.ce && !(bitAt m 0) }

/-- The counters of a core in the order of R603. -/
def spErrCounts (e : SpErr) : List Nat := [e.ceW, e.ceA, e.ceP, e.ueCount, e.scrubCount, e.spareExCount]

/-- Write 0 into the counters of a mask. -/
def spErrZero (e : SpErr) (m : Nat) : SpErr :=
  let z := fun (i v : Nat) => if bitAt m i then 0 else v
  { e with ceW := z 0 e.ceW, ceA := z 1 e.ceA, ceP := z 2 e.ceP, ueCount := z 3 e.ueCount, scrubCount := z 4 e.scrubCount,
           spareExCount := z 5 e.spareExCount }

/-- `CORE_EV_LOST` (R369): one flag per core event, in the order of its table. -/
def evLostWord (e : EvLost) : Nat := maskOf (idxs 5 fun k => nth e.flags k false)

def evLostClear (e : EvLost) (m : Nat) : EvLost :=
  { e with flags := e.flags.zipIdx.map fun x => x.1 && !(bitAt m x.2) }

def evLostZero (e : EvLost) (m : Nat) : EvLost :=
  { e with counts := e.counts.zipIdx.map fun x => if bitAt m x.2 then 0 else x.1 }

def linkStateCode : LinkState → Nat
  | .dark => 0
  | .training => 1
  | .up => 2
  | .hold => 3
  | .down => 4
  | .disabled => 5

/-- `JP_STATUS` (R421). -/
def jpStatus (p : Port) : Nat :=
  ((p.peerPort % 64) <<< 22) + ((p.failedWl % 16) <<< 18) + flagBit p.encOn 17 + flagBit p.leader 16 +
  (linkStateCode p.link <<< 13) + flagBit p.holdSeen 5 + flagBit p.loopback 4 + flagBit p.authFail 3 + flagBit p.linkLost 2 +
  flagBit p.laneSpared 1 + flagBit p.roleConflict 0

def jpClear (p : Port) (m : Nat) : Port :=
  { p with holdSeen := p.holdSeen && !(bitAt m 5), loopback := p.loopback && !(bitAt m 4),
           authFail := p.authFail && !(bitAt m 3), linkLost := p.linkLost && !(bitAt m 2),
           laneSpared := p.laneSpared && !(bitAt m 1), roleConflict := p.roleConflict && !(bitAt m 0) }

/-- The counters of a port in the order of R603. -/
def jpCounts (p : Port) : List Nat :=
  [p.replayCount, p.fecCorr, p.fecUncorr, p.crcErr, p.drop, p.roleConflictCount, p.laneSparedCount, p.linkLostCount,
   p.authFailCount, p.loopbackCount, p.holdSeenCount]

def jpZero (p : Port) (m : Nat) : Port :=
  let z := fun (i v : Nat) => if bitAt m i then 0 else v
  { p with replayCount := z 0 p.replayCount, fecCorr := z 1 p.fecCorr, fecUncorr := z 2 p.fecUncorr, crcErr := z 3 p.crcErr,
           drop := z 4 p.drop, roleConflictCount := z 5 p.roleConflictCount, laneSparedCount := z 6 p.laneSparedCount,
           linkLostCount := z 7 p.linkLostCount, authFailCount := z 8 p.authFailCount, loopbackCount := z 9 p.loopbackCount,
           holdSeenCount := z 10 p.holdSeenCount }

/-! Occurrences of the flags of a port (R422, R599). -/

def seeHold (p : Port) : Port := { p with holdSeen := true, holdSeenCount := satInc 32 p.holdSeenCount }
def seeLoopback (p : Port) : Port := { p with loopback := true, loopbackCount := satInc 32 p.loopbackCount }
def seeAuthFail (p : Port) : Port := { p with authFail := true, authFailCount := satInc 32 p.authFailCount }
def seeLinkLost (p : Port) : Port := { p with linkLost := true, linkLostCount := satInc 32 p.linkLostCount }
def seeLaneSpared (p : Port) : Port := { p with laneSpared := true, laneSparedCount := satInc 32 p.laneSparedCount }
def seeRoleConflict (p : Port) : Port := { p with roleConflict := true, roleConflictCount := satInc 32 p.roleConflictCount }
def seeDrop (p : Port) : Port := { p with drop := satInc 32 p.drop }

/-! ## Power status (R511, R512, R545, R546) -/

/-- The ceilings that are set, in the order of `CEIL_WHY` (R512, R545). -/
def ceilings (f : Fuses) (p : DiePower) : List (Option Nat) :=
  [some (binCeiling f.bin), p.phaseCeil, p.thermalCeil, p.powerCeil, p.coolantCeil]

/-- The ceiling: the slowest of them (R512). -/
def ceilingOf (f : Fuses) (p : DiePower) : Nat :=
  (ceilings f p).foldl (fun m c => match c with
    | some x => slowest m x
    | none => m) (binCeiling f.bin)

/-- `CEIL_WHY`: which ceilings equal it. -/
def ceilWhy (f : Fuses) (p : DiePower) : Nat :=
  maskOf (idxs 5 fun k => nth (ceilings f p) k none == some (ceilingOf f p))

/-- `DIE_PWR_STATUS` (R545). -/
def diePwrStatus (s : State) (d : Nat) : Nat :=
  let p := (getDie s d).power
  ((p.livePhases % 16) <<< 24) + ((p.point % 8) <<< 21) + (ceilingOf s.fuses p <<< 18) + (ceilWhy s.fuses p <<< 13) +
  (((dieState s d) % 4) <<< 11) + flagBit p.inChange 10 + flagBit p.powerCapped 2 + flagBit p.throttled 1 + flagBit p.phaseLost 0

def diePwrClear (p : DiePower) (m : Nat) : DiePower :=
  { p with powerCapped := p.powerCapped && !(bitAt m 2), throttled := p.throttled && !(bitAt m 1),
           phaseLost := p.phaseLost && !(bitAt m 0) }

/-- `AUX_PWR_STATUS` (R546): photonic die 0 to 3, the hub 4. -/
def auxPwrStatus (s : State) (d : Nat) : Nat :=
  if d < 4 then
    let p := getPd s d
    ((p.livePhases % 16) <<< 24) + flagBit p.throttled 1 + flagBit p.phaseLost 0
  else ((s.hubPhases % 16) <<< 24) + flagBit s.hubThrottled 1 + flagBit s.hubPhaseLost 0

def auxPwrClear (s : State) (d m : Nat) : State :=
  if d < 4 then
    modPd s d fun p => { p with throttled := p.throttled && !(bitAt m 1), phaseLost := p.phaseLost && !(bitAt m 0) }
  else { s with hubThrottled := s.hubThrottled && !(bitAt m 1), hubPhaseLost := s.hubPhaseLost && !(bitAt m 0) }

/-- The accounting record of a domain (R524). `PD_PERMITTED` is 0 as reset leaves it until firmware runs. -/
def pdRecord (s : State) (d : Domain) : Nat :=
  let p := getPower s d
  (p.refusals <<< 48) + (p.aborts <<< 32) + (p.replays <<< 24) + (p.lastRefuser <<< 16) + (p.lastAborter <<< 8) +
  ((if firmwareRuns s then permitted s d % 16 else 0) <<< 4) + domainState s d % 16

/-- The domain that `PD_SELECT` names (R593, R594). -/
def pdSelected (w : Nat) : Option Domain :=
  let i := fld w 0 10
  match fld w 12 4 with
  | 0 => if i < Config.nCores then some (.core i) else none
  | 1 => if i < Config.nDies then some (.die i) else none
  | 2 => if i < Config.nPhotonic then some (.photonic i) else none
  | 3 => some .module
  | _ => none

/-! ## Module and channel status -/

/-- Cores in service (R5, R588). -/
def inServiceCount (s : State) : Nat :=
  ((List.range Config.nCores).filter fun c => (getCore s c).service == .inService).length

/-- `MOD_STATUS` (R588). The in-service count is firmware's, 0 until it is ready. -/
def modStatus (s : State) : Nat :=
  (((if firmwareRuns s then inServiceCount s else 0) % 1024) <<< 16) +
  (((if firmwareRuns s then moduleState s else 0) % 4) <<< 10) + flagBit s.reproducible 9 + flagBit s.legacy 8 +
  s.boot.stage % 16

/-- `MOD_IDENT` (R587). -/
def modIdent (s : State) : Nat := (0x1664 <<< 16) + ((s.fuses.siliconRev % 256) <<< 8) + s.fuses.bin % 4

/-- `MBX_STATUS` (R478). -/
def mbxStatus (c : Channel) : Nat := flagBit c.active 2 + flagBit c.chError 1 + flagBit c.seqErr 0

/-- A channel error or a sequence error occurs (R478, R599). -/
def seeChError (c : Channel) : Channel := { c with chError := true, chErrCount := satInc 32 c.chErrCount }
def seeSeqErr (c : Channel) : Channel := { c with seqErr := true, seqErrCount := satInc 32 c.seqErrCount }

/-- One hour of the Rind's time counter (R509). -/
def hourTicks : Nat := 117964800

/-- A processor has been released three times in the last hour (R468). -/
def spentReleases (s : State) (p : Processor) : Bool :=
  decide ((p.releases.filter fun t => s.rind.time.toNat < t + hourTicks).length ≥ 3)

/-- `STANDBY_STATE` of the processor that does not hold the stamp (R472). -/
def standbyState (s : State) : Nat :=
  let p := if s.stamp.holder = 2 then s.stamp.mpA else s.stamp.mpB
  if !p.held then 0 else if spentReleases s p then 2 else 1

/-- `ASSAY_STAMP` (R472). -/
def assayStamp (s : State) : Nat :=
  (s.stamp.epoch.toNat <<< 32) + flagBit (s.stamp.epoch == 0xFFFFFFFF) 11 +
  ((if s.stamp.holder = 0 then 0 else standbyState s) <<< 9) + (s.stamp.holder <<< 7)

/-- `ASSAY_LIMITS` (R595). -/
def assayLimits (s : State) : Nat := ((s.assay.sustained % 4096) <<< 20) + (115 <<< 8) + s.assay.throttlePoint % 256

/-- `ASSAY_CONFIG` (R595). -/
def assayConfig (s : State) : Nat :=
  flagBit s.rind.debugOpen 10 + flagBit s.assay.unlockBarred 9 + flagBit s.boot.slot 8 + flagBit s.legacy 7 +
  flagBit s.boot.bootSrc 6 + (s.smbus.strap.toNat <<< 4)

/-- `ASSAY_SVN` (R595). -/
def assaySvn (s : State) : Nat := ((s.fuses.svnMgmt % 256) <<< 8) + s.fuses.svnAssay % 256

/-- The Assay status registers, bytes 0 to 35 (R595, R603). -/
def assayStatusBytes (s : State) : List Byte :=
  leBytes 8 (assayStamp s) ++ leBytes 4 s.stamp.staleCount ++ leBytes 4 s.stamp.wrRefused ++ leBytes 4 s.stamp.grantCount ++
  leBytes 4 s.assay.debugRefused ++ leBytes 4 (assayLimits s) ++ leBytes 4 (assayConfig s) ++ leBytes 4 (assaySvn s)

/-- `LEDGER_CTRL` and `EVQ_CTRL` as read (R499, R591). -/
def ledgerCtrl (s : State) : Nat :=
  if s.legacy then 0
  else ((s.ledger.log2 % 32) <<< 8) + flagBit s.ledger.fresh 3 + flagBit s.ledger.attached 2

def evqCtrl (s : State) : Nat :=
  ((s.evq.log2 % 32) <<< 8) + flagBit s.evq.active 1 + flagBit s.evq.active 0

end Sys2Proof.Machine
end

