-- ==== Sys2Proof/Machine/Service.lean ====
section
/-! DEFINITION. Service of stored words: the store scrubber (R269, R270), row sparing (R273 to R276), the daily read of an HBM
stack (R322), its soft repair (R461) and the zeroising of released pages (R436). -/

namespace Sys2Proof.Machine

/-- Bit upsets strike words (R264, log 10): a second one in a word cannot be corrected. -/
def applyUpsets (s : State) (us : List Upset) : State :=
  us.foldl (fun s u =>
    let w := u.addr / 64
    if u.many || s.errOne.contains w then
      { s with errMany := insNat s.errMany w, errOne := delNat s.errOne w }
    else if s.errMany.contains w then s
    else { s with errOne := insNat s.errOne w, errFound := delNat s.errFound w }) s

/-! ## The scrubber -/

/-- Store and row of the scrubber's position (R269). -/
def scrubPlace (n : Nat) : Nat × Nat :=
  if n < 2048 then (0, n) else if n < 3072 then (1, n - 2048) else (2, n - 3072)

/-- A physical row is a row of the core. -/
def rowOfCore (c row : Nat) : Bool :=
  match placeOf row with
  | .store g _ _ => g == c
  | _ => false

/-- Words that a scrub visit or a spare copy finds uncorrectable become poisoned and are logged (R270). -/
def scrubMarks (e : SpErr) (st r : Nat) (many : List Nat) : SpErr :=
  many.foldl (fun e w =>
    { e with scrubPoison := true, ueSeen := true, scrubCount := satInc 16 e.scrubCount, lastStore := st, lastRow := r,
             lastWord := w }) e

/-- One visit of a row: single-bit errors corrected in place, uncorrectable words poisoned (R269, R270). -/
def visitRow (s : State) (c row : Nat) : State :=
  match placeOf row with
  | .store _ st r =>
    let ones := onesOf s row
    let many := manyOf s row
    let s := noteErrors s row many
    let s := markPoison { s with errOne := s.errOne.filter fun x => !(x / 8 == row) } row many
    let s := modCore s c fun co =>
      { co with spErr := scrubMarks ((idxs 8 (bitAt ones)).foldl (fun e w => countCe e st r w) co.spErr) st r
                  (idxs 8 (bitAt many)) }
    weightPoisoned s c st r many
  | _ => s

/-- SCRUB_VISIT (R269): rows that a read found in error come first (R265). A core in C2 or C3 is not scrubbed. -/
def execScrubVisit (core : Nat) (upsets : List Upset) (s : State) : Out :=
  onCore core (
    let s := applyUpsets s upsets
    if (getPower s (.core core)).st ≥ 2 then .next s
    else match s.scrubNext.find? (rowOfCore core) with
      | some row => .next (visitRow { s with scrubNext := s.scrubNext.filter fun x => !(x == row) } core row)
      | none =>
        let n := (getCore s core).scrubRow
        let p := scrubPlace n
        let s := modCore s core fun co => { co with scrubRow := (n + 1) % 5120 }
        .next (visitRow s core (storeRow core p.1 p.2)))

/-! ## Sparing -/

def bankKey (c st r : Nat) : Nat := c * 48 + st * 16 + bankOf st r

/-- The map after a row has been given a spare: a spare that held the row before has failed (R275). -/
def mapRow (l : List (Nat × Bool)) (r : Nat) : List (Nat × Bool) :=
  (l.map fun e => if e.1 == r then (e.1, true) else e) ++ [(r, false)]

/-- The row has had an uncorrectable error, or a second correctable one within 24 hours (R274). -/
def mustSpare (s : State) (row : Nat) : Bool :=
  let es := s.ceHistory.filter fun e => e.1 == row
  es.any (fun e => e.2.2) || decide (recent (es.map fun e => e.2.1) dayTicks ≥ 2)

/-- The spare copy: contents, tag and marks move to the spare (R275). The single-bit errors that it corrects count as corrections
(R277, R278); the last-error fields take the words that it finds uncorrectable, which set neither `UE` nor `SCRUB_POISON`, since
neither a read nor a scrub visit found them. -/
def spareRow (s : State) (c st r : Nat) : State :=
  let row := storeRow c st r
  let many := manyOf s row
  let ones := onesOf s row
  let s := modCore s c fun co =>
    { co with spErr := (idxs 8 (bitAt many)).foldl (fun e w => { e with ueSeen := true, lastStore := st, lastRow := r, lastWord := w })
                ((idxs 8 (bitAt ones)).foldl (fun e w => countCe e st r w) co.spErr) }
  let s := markPoison { s with errOne := s.errOne.filter fun x => !(x / 8 == row),
                               scrubNext := s.scrubNext.filter fun x => !(x == row),
                               ceHistory := s.ceHistory.filter fun x => !(x.1 == row) } row many
  weightPoisoned { s with spares := tput s.spares (bankKey c st r) (mapRow (tget s.spares (bankKey c st r) []) r) } c st r many

/-- SPARE_COPY (R275); with no spare of the bank left the flag `SPARE_EXHAUSTED` is set, until the core is fenced (R276). -/
def execSpareCopy (core store row : Nat) (s : State) : Out :=
  onCore core (
    if !(mustSpare s (storeRow core store row)) || (getCore s core).service = .fenced then .next s
    else if (tget s.spares (bankKey core store row) []).length < 4 then .next (spareRow s core store row)
    else .next (modCore s core fun co =>
      { co with spErr := { co.spErr with spareExhausted := true, spareExCount := satInc 16 co.spErr.spareExCount } }))

/-! ## HBM -/

/-- A word of the stack. -/
def wordOfStack (k w : Nat) : Bool := w * 64 < 0x8000000000 && stackOf (w * 64) == k

/-- HBM_PATROL_SCRUB (R322): every word of the stack is read, single-bit errors are corrected and uncorrectable words
poisoned; nothing faults. Firmware reads the count of the stack's own ECC with it: a free value, since the errors that the stack
corrects itself are not given (R319, log 88). -/
def execHbmPatrolScrub (stack : Nat) (upsets : List Upset) (s : State) : Out :=
  onStack stack (
    let s := applyUpsets s upsets
    let count := takeFree s
    let s := modStack count.2 stack fun k => { k with onDieCount := count.1 % 2 ^ 32 }
    let ones := s.errOne.filter (wordOfStack stack)
    let many := s.errMany.filter (wordOfStack stack)
    let s := { s with errOne := s.errOne.filter (fun w => !(wordOfStack stack w)),
                      errMany := s.errMany.filter (fun w => !(wordOfStack stack w)),
                      poison := many.foldl insNat s.poison }
    let s := many.foldl (fun s w => logPoison s [w] (ownerOf s w)) s
    if ones.isEmpty then .next s
    else .next (modStack s stack fun k => { k with corrected := ones.foldl (fun l w => tput l w s.refCount.toNat) k.corrected }))

/-- Pseudo-channel of a stack that holds a physical HBM address (R320). The two halves of a 512-byte row lie in two of them. -/
def pseudoChannel (addr : Nat) : Nat := fld addr 8 6 ^^^ fld addr 14 6

/-- Words of a half row: the 256 bytes of one pseudo-channel at `half` × 256. -/
def halfWords (half : Nat) : List Nat := (List.range 4).map fun k => 4 * half + k

/-- The half row has a poisoned word, or two words corrected within 24 hours (R461). -/
def mustRepair (s : State) (half : Nat) : Bool :=
  (halfWords half).any (fun w => s.poison.contains w) ||
  decide (((getStack s (stackOf (half * 256))).corrected.filter fun w =>
    w.1 / 4 == half && s.refCount.toNat ≤ w.2 + dayTicks).length ≥ 2)

/-- HBM_SOFT_REPAIR (R461): on the pseudo-channel of the address, what can be corrected is, poison marks remain, and the repair is
logged. The 256 bytes of a row that lie in one pseudo-channel stand for the DRAM row (log 24). -/
def execHbmSoftRepair (addr : Nat) (s : State) : Out :=
  let half := addr / 256
  if placeOf (addr / 512) = .hbm ∧ mustRepair s half then
    let many := (halfWords half).filter fun w => s.errMany.contains w
    let s := logWords s (addr / 512) (maskOf ((many.filter fun w => !(s.poison.contains w)).map (· % 8)))
    .next (modStack { s with errOne := s.errOne.filter (fun x => !(x / 4 == half)), errMany := s.errMany.filter (fun x => !(x / 4 == half)),
                             poison := many.foldl insNat s.poison } (stackOf addr) fun k =>
      { k with repairLog := k.repairLog ++ [half], corrected := k.corrected.filter fun w => !(w.1 / 4 == half) })
  else .next s

/-- Hard repair at boot: every row of firmware's repair log is repaired for good (R319). -/
def hardRepair (s : State) : State :=
  (List.range Config.nStacks).foldl (fun s k => modStack s k fun x =>
    { x with hardRepaired := x.hardRepaired ++ x.repairLog.filter fun r => !(x.hardRepaired.contains r) }) s

/-- A physical 2 MiB page is written whole with zeros: its bytes, errors and marks go (R436). -/
def zeroPage (s : State) (pg : Nat) : State :=
  { s with mem := s.mem.filter (fun x => !(x.1 / 2 ^ 21 == pg)), poison := s.poison.filter (fun w => !(w / 2 ^ 15 == pg)),
           errOne := s.errOne.filter (fun w => !(w / 2 ^ 15 == pg)), errMany := s.errMany.filter (fun w => !(w / 2 ^ 15 == pg)) }

/-- PAGE_ZEROISE_DONE (R436): the pages of a stack are zeroised in release order. -/
def execPageZeroiseDone (stack : Nat) (s : State) : Out :=
  onStack stack (match (getStack s stack).zeroQueue with
    | pg :: rest => .next (modStack (zeroPage s pg) stack fun k => { k with zeroQueue := rest })
    | [] => .next s)

end Sys2Proof.Machine
end

