-- ==== Sys2Proof/Machine/Coding.lean ====
section
/-! DEFINITION. The coding of a frame on the fibre (R377): five containers as two codewords of RS(544,514), dealt over the lanes.
PRESUMED (log 93): the field, the generator and the order of bits are those of IEEE 802.3 clause 119, which R377 names. -/

namespace Sys2Proof.Machine

/-! ## Arithmetic of the symbols: GF(2^10) with `x^10 = x^3 + 1` -/

def gfTwice (a : Nat) : Nat := if a < 512 then 2 * a else (2 * a) ^^^ 0x409

/-- The product, from the `n` low bits of `b`. -/
def gfMulBits : Nat → Nat → Nat → Nat
  | 0, _, _ => 0
  | n + 1, a, b => (if b % 2 = 1 then a else 0) ^^^ gfMulBits n (gfTwice a) (b / 2)

def gfMul (a b : Nat) : Nat := gfMulBits 10 a b

/-- A polynomial, highest power first, times `x - r`. -/
def polyRoot (p : List Nat) (r : Nat) : List Nat :=
  ((p ++ [0]).zip (0 :: p)).map fun (e : Nat × Nat) => e.1 ^^^ gfMul r e.2

/-- The generator: its roots are the first `n` powers of the element 2, from `r` on. -/
def rsGenerator : Nat → Nat → List Nat → List Nat
  | 0, _, p => p
  | n + 1, r, p => rsGenerator n (gfTwice r) (polyRoot p r)

/-- Parity of a message after one more symbol. -/
def rsStep (tail : List Nat) (parity : List Nat) (symbol : Nat) : List Nat :=
  let f := symbol ^^^ parity.headD 0
  ((parity.drop 1 ++ [0]).zip tail).map fun (e : Nat × Nat) => e.1 ^^^ gfMul f e.2

/-- A codeword: 514 message symbols and their 30 parity symbols. -/
def rsCodeword (message : List Nat) : List Nat :=
  message ++ message.foldl (rsStep ((rsGenerator 30 1 [1]).drop 1)) (List.replicate 30 0)

/-! ## Frames -/

/-- The 10-bit symbols of the message bits, the first bit lowest. -/
def symbolsOf (bytes : List Byte) : List Nat :=
  let n := leNat bytes
  (List.range 1028).map fun i => fld n (10 * i) 10

/-- Symbols of a codeword on one of the eight lanes. -/
def dealtTo (lane : Nat) (word : List Nat) : List Nat := (List.range 68).map fun i => nth word (8 * i + lane) 0

/-- What each lane carries for a frame of five containers. -/
def frameLanes (containers : List (List Byte)) : List (List Nat) :=
  let symbols := symbolsOf containers.flatten
  let first := rsCodeword (symbols.take 514)
  let second := rsCodeword (symbols.drop 514)
  (List.range 8).map fun lane => dealtTo lane first ++ dealtTo lane second

end Sys2Proof.Machine
end

