-- ==== Sys2Proof/Machine/Link.lean ====
section
/-! DEFINITION. The flits of a Jophor port (R378 to R388), records under encryption (R413 to R415), and what entering `DOWN`
does (R392). -/

namespace Sys2Proof.Machine

/-! ## Flits (R378, R380, R381) -/

/-- A link header and a body as the 256 bytes of a flit. -/
def flitBytes (vc seq ack : Nat) (nak : Bool) (crVc crN : Nat) (body : List Byte) : List Byte :=
  let front := leBytes 4 (((vc % 4) <<< 30) + ((seq % 4096) <<< 18) + ((ack % 4096) <<< 6) + flagBit nak 5 + ((crVc % 4) <<< 3) +
    crN % 8) ++ padTo 248 body
  front ++ leBytes 4 (crc32c front)

def nextSeq (n : Nat) : Nat := (n + 1) % 4096
def prevSeq (n : Nat) : Nat := (n + 4095) % 4096

/-- What `FL_ACK` names: the last flit accepted; under encryption the last one of a released record, since a record that fails
is recovered from its first flit (R387, R415). -/
def ackSeq (p : Port) : Nat :=
  match p.rxOpen with
  | f :: _ => prevSeq f.seq
  | [] => prevSeq p.rxSeq

/-- A channel of a port. -/
def vcOf (p : Port) (c : Nat) : Vc := nth p.vcs c Vc.reset

/-- The first channel with credits to return (R384). -/
def creditVc (p : Port) : Nat := ((List.range 4).find? fun c => (vcOf p c).creditDue != 0).getD 0

/-- A container joins the frame being formed; with the fifth the frame is coded and dealt over the lanes (R377, R378). -/
def joinFrame (p : Port) (bytes : List Byte) : Port :=
  let frame := p.frame ++ [bytes]
  if p.txPos = 4 then { p with txPos := 0, out := bytes, frame := [], lanes := frameLanes frame }
  else { p with txPos := p.txPos + 1, out := bytes, frame := frame }

/-- Send one container: the acknowledgement, the NAK and up to 7 credits travel with it. -/
def sendContainer (p : Port) (kind vc seq : Nat) (body : List Byte) : Port :=
  let c := creditVc p
  let n := min 7 (vcOf p c).creditDue
  let bytes := BitVec.ofNat 8 ((p.txPos <<< 5) + kind) :: flitBytes vc seq (ackSeq p) p.nakDue c n body
  modVc (joinFrame { p with nakDue := false, mgmtGap := min 255 (p.mgmtGap + 1) } bytes) c fun v =>
    { v with creditDue := v.creditDue - n }

/-! ## Packets in a channel's stream -/

/-- The next body of a channel: the rest of the packet being sent, and then further packets; a header is not begun with
fewer than 16 bytes left, and what is left over is zero (log 25). `n` bounds the packets taken. -/
def fillBody : Nat → Nat → List Byte → List Packet → List Byte × List Byte × List Packet
  | 0, room, part, q => (part.take room, part.drop room, q)
  | n + 1, room, part, q =>
    if part.length ≥ room then (part.take room, part.drop room, q)
    else
      let left := room - part.length
      match q with
      | [] => (part, [], [])
      | p :: q' =>
        if left < 16 then (part, [], q)
        else
          let r := fillBody n left (packetBytes p) q'
          (part ++ r.1, r.2.1, r.2.2)

def hasData (v : Vc) : Bool := !v.txPart.isEmpty || !v.txq.isEmpty
def canSend (v : Vc) : Bool := hasData v && v.credits != 0

/-- The channel that sends next (R384): response, then request and reduce in turn, then management at its ceiling. -/
def pickVc (p : Port) : Option Nat :=
  let ok := fun (c : Nat) => canSend (vcOf p c)
  let others := hasData (vcOf p 0) || hasData (vcOf p 1) || hasData (vcOf p 2)
  if ok 1 then some 1
  else if p.rrReduce && ok 2 then some 2
  else if ok 0 then some 0
  else if ok 2 then some 2
  else if ok 3 && (!others || p.mgmtGap ≥ 255) then some 3
  else none

/-! ## Records (R414) -/

/-- What the flits of a record authenticate: `FL_VC` and `FL_SEQ` of each, in the place of its link header (log 26). -/
def recordAad (fs : List SentFlit) : List Byte :=
  fs.flatMap fun f => leBytes 4 (((f.vc % 4) <<< 30) + ((f.seq % 4096) <<< 18))

def recordNonce (k : LinkKey) (n : Nat) : BitVec 96 := BitVec.ofNat 96 (k.salt.toNat + ((n % 2 ^ 64) <<< 32))

/-- A key and its record counter once the next key is in force: the counter starts at 0 with each key, and goes on with the same
one (R414). -/
def newKey (next : Option LinkKey) (cur : LinkKey) (n : Nat) : LinkKey × Nat :=
  match next with
  | some k => if k = cur then (cur, n) else (k, 0)
  | none => (cur, n)

/-- The key of what is sent changes at the record counter agreed on (R415). -/
def turnTxKey (p : Port) : Port :=
  match p.keyTxAt with
  | some (n, key) =>
    if p.txRecord < n then p
    else
      let k := newKey (some key) p.keyCur p.txRecord
      { p with keyCur := k.1, txRecord := k.2, keyTxAt := none }
  | none => p

/-- The key of what is received changes at the record counter agreed on (R415). -/
def turnRxKey (p : Port) : Port :=
  match p.keyRxAt with
  | some (n, key) =>
    if p.rxRecord < n then p
    else
      let k := newKey (some key) p.keyRx p.rxRecord
      { p with keyRx := k.1, rxRecord := k.2, keyRxAt := none }
  | none => p

/-- Ciphertext of the next body of the open record. -/
def cipherNext (p : Port) (body : List Byte) : List Byte :=
  let plain := p.txOpen.flatMap (·.body) ++ padTo 248 body
  padTo 248 ((Config.gcmEncrypt p.keyCur.key (recordNonce p.keyCur p.txRecord) [] plain).drop (248 * p.txOpen.length))

/-- Ciphertext of an open record. -/
def cipherAll (p : Port) (n : Nat) (fs : List SentFlit) : List Byte :=
  Config.gcmEncrypt p.keyCur.key (recordNonce p.keyCur n) [] (fs.flatMap (·.body))

/-- Body of the tag flit that closes the open record. -/
def tagBody (p : Port) : List Byte :=
  leBytes 8 p.txRecord ++
  padTo 16 (Config.gcmTag p.keyCur.key (recordNonce p.keyCur p.txRecord) (recordAad p.txOpen) (cipherAll p p.txRecord p.txOpen))

/-- Send the tag flit of the open record. -/
def sendTag (p : Port) : Port :=
  let f : SentFlit := { isTag := true, vc := 0, seq := p.txSeq, body := tagBody p }
  let q := sendContainer p 2 0 p.txSeq f.body
  turnTxKey { q with txSeq := nextSeq p.txSeq, replay := p.replay ++ [f], txOpen := [], txRecord := p.txRecord + 1 }

/-- Send a data flit of a channel (R380, R384, R388). -/
def sendData (p : Port) (c : Nat) : Port :=
  let v := vcOf p c
  let r := fillBody 16 248 v.txPart v.txq
  let body := padTo 248 r.1
  let wire := if p.encOn then cipherNext p body else body
  let q := sendContainer p 1 c p.txSeq wire
  let q := modVc q c fun w => { w with credits := w.credits - 1, txPart := r.2.1, txq := r.2.2 }
  { q with txSeq := nextSeq p.txSeq, replay := p.replay ++ [{ isTag := false, vc := c, seq := p.txSeq, body := wire }],
           txOpen := if p.encOn then p.txOpen ++ [{ isTag := false, vc := c, seq := p.txSeq, body := body }] else [],
           rrReduce := if c = 0 then true else if c = 2 then false else p.rrReduce,
           mgmtGap := if c = 3 then 0 else q.mgmtGap }

/-- Resend the flit at the resend cursor (R388). -/
def sendAgain (p : Port) (i : Nat) : Port :=
  match p.replay[i]? with
  | some f =>
    let q := sendContainer p (if f.isTag then 2 else 1) f.vc f.seq f.body
    { q with resend := if i + 1 < p.replay.length then some (i + 1) else none }
  | none => { p with resend := none }

/-- What a container slot carries (R384, R388, R414). -/
def transmit (p : Port) : Port :=
  match p.resend with
  | some i => sendAgain p i
  | none =>
    if p.replay.length ≥ 2048 then sendContainer p 0 0 0 []
    else if p.encOn && p.txOpen.length ≥ 128 then sendTag p
    else match pickVc p with
      | some c => sendData p c
      | none => sendContainer p 0 0 0 []

/-! ## Leaving UP and HOLD (R392) -/

/-- Take `n` bytes from the front of buffered bodies: what is left, and how many bodies emptied. -/
def dropRx : Nat → List (List Byte) → List (List Byte) × Nat
  | _, [] => ([], 0)
  | n, b :: bs =>
    if n < b.length then (b.drop n :: bs, 0)
    else
      let r := dropRx (n - b.length) bs
      (r.1, r.2 + 1)

/-- Bodies whose rest is zero at the boundary of a packet are padding (log 25). -/
def skipPad : List (List Byte) → List (List Byte) × Nat
  | [] => ([], 0)
  | b :: bs =>
    if b.all (· == 0) then
      let r := skipPad bs
      (r.1, r.2 + 1)
    else (b :: bs, 0)

/-- Bytes of the first packet of a stream, when it is whole. -/
def wholeLength (bytes : List Byte) : Option Nat :=
  if bytes.length < 16 then none
  else
    let n := 16 + 512 * headerRows (numAt bytes 0 16)
    if n ≤ bytes.length then some n else none

/-- The first whole packet of a receive buffer: its header, its rows, the buffer after it and the flits freed. -/
def takePacket (rx : List (List Byte)) : Option (Nat × List (List Byte) × List (List Byte) × Nat) :=
  let sk := skipPad rx
  let bytes := sk.1.flatten
  match wholeLength bytes with
  | some n =>
    let r := dropRx n sk.1
    some (numAt bytes 0 16, chunks 8 512 ((bytes.take n).drop 16), r.1, r.2 + sk.2)
  | none => none

/-- A packet leaves the receive buffer of a channel: each flit that it empties is a credit to return (R384), but for one kept from
before the link went down, when the credits began anew. -/
def leftBuffer (v : Vc) (rx : List (List Byte)) (freed : Nat) : Vc :=
  if v.kept = 0 then { v with rx := rx, creditDue := v.creditDue + freed } else { v with rx := rx, kept := v.kept - freed }

/-- The whole packets of a receive buffer alone, `n` at most. -/
def wholeOnly : Nat → List (List Byte) → List (List Byte)
  | 0, _ => []
  | n + 1, rx =>
    let sk := skipPad rx
    match wholeLength sk.1.flatten with
    | some k => (sk.1.flatten.take k) :: wholeOnly n (dropRx k sk.1).1
    | none => []

def engUnit (seng : Nat) : CoreUnit := if seng = 1 then .dieDma else if seng = 2 then .signal else .cdma

/-- A packet that a port has not begun to send is routed again (R392): out of another port, or it waits where it came from. -/
def rerouteOne (s : State) (part : Nat) (p : Packet) : State :=
  let e := routeEntry s p.dest
  let mine := p.src == ownId s && s.moduleId.isSome
  let ok := fun (q : Port) => if mine then q.part == part else q.forwarding
  match (if rtValid e then pickPort s e ok else none) with
  | some port => queuePacket s port p
  | none =>
    if !mine then { s with forwards := s.forwards ++ [(p.via, p)] }
    else if p.op ≤ opRead then
      modCore s p.score fun co =>
        match co.seq.issued.find? fun i => i.mtag == p.mtag with
        | some i => { co with outPackets := co.outPackets ++ [{ packet := p, unit := engUnit p.seng, idx := i.idx, closed := true }] }
        | none => co
    else if p.op = opManagement || p.op = opUnreachable then s
    else putTrack s (freshKey s.rxTracks)
      { packet := p, port := p.via, left := 0, applied := 0, code := none, answer := some p }

/-- The packets of a channel that were received whole stay; one received in part is lost (R392). A body holds fifteen headers at
most. -/
def keepWhole (v : Vc) : Vc :=
  let whole := wholeOnly (16 * v.rx.length) v.rx
  { v with txq := [], txPart := [], rx := whole, kept := whole.length, creditDue := 0 }

/-- The port's sending and receiving sides as retraining finds them. A record that was begun is lost with its counter, which no other
record takes (log 64). -/
def resetLink (p : Port) (link : LinkState) : Port :=
  { p with link := link, replay := [], resend := none, resends := 0, discarding := false, nakDue := false, txOpen := [],
           txRecord := if p.txOpen.isEmpty then p.txRecord else p.txRecord + 1,
           rxOpen := [], recordFails := 0, frameLocked := false, encOn := false, moving := none, changeover := none,
           requestPending := false, vcs := p.vcs.map keepWhole }

/-- A port leaves `UP` or `HOLD` for a state that carries nothing (R390, R392). -/
def leaveUp (s : State) (port : Nat) (link : LinkState) : State :=
  let p := getPort s port
  if p.link = .up || p.link = .hold then
    let queued := p.vcs.flatMap (·.txq)
    let lost := link == .down
    let s := setPort s port (if lost then seeLinkLost (resetLink p link) else resetLink p link)
    let s := { s with partLog := if lost then s.partLog ++ [(s.refCount.toNat, 0, port)] else s.partLog }
    queued.foldl (fun s q => rerouteOne s p.part q) s
  else modPort s port fun p => resetLink p link

def goDown (s : State) (port : Nat) : State := leaveUp s port .down

/-- A port whose record counter reaches 2^33 under one key goes `DOWN` (R415). -/
def settleRecords (s : State) (port : Nat) : State :=
  if (getPort s port).encOn && (getPort s port).txRecord ≥ 2 ^ 33 then goDown s port else s

/-- FLIT_TRANSMIT (R384). -/
def execFlitTransmit (port : Nat) (s : State) : Out :=
  onPort port (if (getPort s port).link = .up then .next (settleRecords (modPort s port transmit) port) else .next s)

/-- RECORD_CLOSE_EARLY (R414). -/
def execRecordCloseEarly (port : Nat) (s : State) : Out :=
  onPort port (
    let p := getPort s port
    if p.link = .up && p.encOn && !p.txOpen.isEmpty && p.resend.isNone && p.replay.length < 2048
    then .next (settleRecords (setPort s port (sendTag p)) port) else .next s)

/-! ## Acknowledgement and replay (R387, R388) -/

/-- Begin to resend from the oldest flit not acknowledged. After 16 resends without progress none is made: the port is to go
`DOWN`. -/
def beginResend (p : Port) : Port :=
  if p.replay.isEmpty then p
  else if p.resends ≥ 16 then { p with resends := 17 }
  else { p with resend := some 0, resends := p.resends + 1, replayCount := satInc 32 p.replayCount }

/-- The port goes `DOWN` when another resend is due after 16 without progress (R388). -/
def settleResends (s : State) (port : Nat) : State := if (getPort s port).resends > 16 then goDown s port else s

/-- REPLAY_TIMEOUT (R388). -/
def execReplayTimeout (port : Nat) (s : State) : Out :=
  onPort port (if (getPort s port).link = .up then .next (settleResends (modPort s port beginResend) port) else .next s)

/-- The flits after the one acknowledged. -/
def afterAck (ack : Nat) (l : List SentFlit) : List SentFlit :=
  if l.any fun f => f.seq == ack then (l.dropWhile fun f => f.seq != ack).drop 1 else l

/-- `FL_ACK`, `FL_NAK` and returned credits of an intact flit (R381, R384, R388). -/
def takeAck (p : Port) (ack : Nat) (nak : Bool) (crVc crN : Nat) : Port :=
  let left := afterAck ack p.replay
  let gone := p.replay.length - left.length
  let cursor := p.resend.bind fun i => if left.isEmpty then none else some (i - gone)
  let q := { p with replay := left, resends := if gone = 0 then p.resends else 0, resend := cursor }
  let q := modVc q crVc fun v => { v with credits := v.credits + crN }
  if nak then beginResend q else q

/-- A sequenced flit is not accepted: it and later ones are discarded until it comes again, and one NAK is sent (R387). -/
def rejectFlit (p : Port) : Port := if p.discarding then p else { p with discarding := true, nakDue := true }

/-- Flits of a channel's receive buffer (R383). -/
def bufferFlits (vc : Nat) : Nat := nth [2048, 512, 2048, 64] vc 0

/-- A body goes into its channel's receive buffer. One that a sender without a credit sent has no place there and is lost (log 94). -/
def storeBody (p : Port) (vc : Nat) (body : List Byte) : Port :=
  modVc p vc fun v => if v.rx.length - v.kept < bufferFlits vc then { v with rx := v.rx ++ [body] } else v

/-- A tag flit ends a record, whose counter it carries: its bodies are released when the tag holds and the counter has not gone
back, else the record is discarded and asked for again (log 64); two failures in a row are an authentication failure (R415).
Answers whether the port must go `DOWN`. -/
def takeTag (p : Port) (body : List Byte) : Port × Bool :=
  let cipher := p.rxOpen.flatMap (·.body)
  let n := numAt body 0 8
  let nonce := recordNonce p.keyRx n
  let good := p.rxRecord ≤ n &&
    (body.drop 8).take 16 == padTo 16 (Config.gcmTag p.keyRx.key nonce (recordAad p.rxOpen) cipher)
  if good then
    let plain := chunks 128 248 (Config.gcmDecrypt p.keyRx.key nonce [] cipher)
    let q := (p.rxOpen.zip plain).foldl (fun q e => storeBody q e.1.vc (padTo 248 e.2)) p
    (turnRxKey { q with rxOpen := [], rxRecord := n + 1, recordFails := 0 }, n + 1 ≥ 2 ^ 33)
  else
    let first := match p.rxOpen with
      | f :: _ => f.seq
      | [] => prevSeq p.rxSeq
    let q := rejectFlit { p with rxSeq := first, rxOpen := [], recordFails := p.recordFails + 1 }
    if p.recordFails + 1 ≥ 2 then (seeAuthFail q, true) else (q, false)

/-- An intact data or tag flit (R387). -/
def takeSequenced (p : Port) (isTag : Bool) (vc seq : Nat) (body : List Byte) : Port × Bool :=
  if seq != p.rxSeq then (rejectFlit p, false)
  else
    let q := { p with rxSeq := nextSeq seq, discarding := false }
    if isTag then (if p.encOn then takeTag q body else (q, false))
    else if p.encOn then ({ q with rxOpen := p.rxOpen ++ [{ isTag := false, vc := vc, seq := seq, body := body }] }, false)
    else (storeBody q vc body, false)

/-- The flit of a container is intact: no bit of it lies in a codeword that the FEC cannot correct, and its check holds (R379,
R380). -/
def flitIntact (c : Container) : Bool := c.fecOk && crc32c (c.flit.take 252) == numAt c.flit 252 4

/-- What a port that is `UP` or in `TRAINING` counts of a container (R378, R422). -/
def countContainer (p : Port) (c : Container) : Port :=
  let p := { p with fecCorr := satAdd 32 p.fecCorr c.corrected }
  if flitIntact c && c.mark.toNat % 32 ≤ 3 then p else { p with crcErr := satInc 32 p.crcErr }

/-- One container of a frame (R378, R379, R387). Answers whether the port must go `DOWN`. -/
def takeContainer (p : Port) (c : Container) : Port × Bool :=
  let p := countContainer p c
  let kind := c.mark.toNat % 32
  if !c.fecOk then (rejectFlit p, false)
  else if kind > 3 then (p, false)
  else if !(flitIntact c) then (rejectFlit p, false)
  else
    let h := numAt c.flit 0 4
    let p := takeAck p (fld h 6 12) (bitAt h 5) (fld h 3 2) (fld h 0 3)
    let body := (c.flit.drop 4).take 248
    if kind = 1 then takeSequenced p false (fld h 30 2) (fld h 18 12) body
    else if kind = 2 then takeSequenced p true (fld h 30 2) (fld h 18 12) body
    else (p, false)

/-- Codewords that the FEC could not correct: the first touches containers 0 to 2, the second 2 to 4 (R377, R379). -/
def badCodewords (frame : List Container) : Nat :=
  let bad := fun (k : Nat) => match frame[k]? with
    | some c => !c.fecOk
    | none => false
  if bad 0 || bad 4 then (if bad 0 then 1 else 0) + (if bad 4 then 1 else 0) else if bad 2 then 1 else 0

/-- FRAME_RECEIVE (R378). In `TRAINING` a frame carries link control flits alone, whose errors are counted (R390, R422). -/
def execFrameReceive (port : Nat) (frame : List Container) (s : State) : Out :=
  onPort port (
    let p := getPort s port
    if p.link != .up && p.link != .training then .next s
    else
      let p := { p with fecUncorr := satAdd 32 p.fecUncorr (badCodewords frame) }
      if p.link == .training then .next (setPort s port (frame.foldl countContainer p))
      else
        let r := frame.foldl (fun (acc : Port × Bool) c => if acc.2 then acc else takeContainer acc.1 c) (p, false)
        let s := setPort s port r.1
        .next (if r.2 then goDown s port else settleResends s port))

end Sys2Proof.Machine
end

