-- ==== Sys2Proof/Machine/Packets.lean ====
section
/-! DEFINITION. Transport packets at the sending, receiving and forwarding modules (R398 to R411, R435). -/

namespace Sys2Proof.Machine

/-! ## Sending (R409, R410) -/

/-- The first closed packet of a unit. -/
def waitingPacket (co : Core) (u : CoreUnit) : Option OutPacket := co.outPackets.find? fun o => o.unit == u && o.closed

/-- The die's cache holds the entry of a module ID. -/
def routeCached (s : State) (die id : Nat) : Bool := (getDie s die).routeCache.any fun e => e.1 == id

/-- PACKET_ROUTE (R410): the packet leaves by the first named port that is `UP` and bound to the core's partition. It waits while
its route entry is not cached, and while no port qualifies. -/
def execPacketRoute (core : Nat) (unit : CoreUnit) (s : State) : Out :=
  onCore core (
    let co := getCore s core
    match waitingPacket co unit with
    | none => .next s
    | some o =>
      if !(routeCached s (dieOf core) o.packet.dest) then .next s
      else
        let e := routeEntry s o.packet.dest
        let s' := setCore s core { co with outPackets := dropFirst (fun x => x == o) co.outPackets }
        if !(rtValid e) then
          .next (raiseFault s' core unit o.idx
            { code := cXlate, unit := senderUnit co unit o.idx, addr := hoopAddr o.packet.core o.packet.hoop o.packet.row,
              detail := 0 })
        else match pickPort s e (fun p => p.part == co.part) with
          | some port => .next (queuePacket s' port { o.packet with hops := rtHops e })
          | none => .next s)

/-- ROUTE_ENTRY_FILL (R409): the entry that a packet of the die waits for enters the cache, which keeps 1,024. -/
def execRouteEntryFill (die id : Nat) (s : State) : Out :=
  onDie die (
    let waits := s.cores.any fun e => dieOf e.1 == die && e.2.outPackets.any fun o => o.closed && o.packet.dest == id
    if !waits || routeCached s die id then .next s
    else .next (modDie s die fun d =>
      { d with routeCache := ((id, tget s.routes id 0) :: d.routeCache).take 1024 }))

/-! ## Receiving -/

/-- A packet leaves the receive buffer of a channel; the flits it empties are credits to return (R384). -/
def tookPacket (s : State) (port vc : Nat) (rx : List (List Byte)) (freed : Nat) : State :=
  modPort s port fun p => modVc p vc fun v => leftBuffer v rx freed

def dropCount (s : State) (port : Nat) : State := modPort s port seeDrop

/-- Is this a request or reduce packet, which a discard answers? -/
def isRequest (op : Nat) : Bool := op ≤ opRead

/-- A packet of this channel and port is still being applied: later ones wait behind it (R385, R405). -/
def channelBusy (s : State) (port vc : Nat) : Bool :=
  s.rxTracks.any fun e => e.2.port == port && channelOf e.2.packet.op == vc && e.2.left != 0

/-- The check of a packet's rows together, at their hoop (R400). -/
def packetKind (p : Packet) : ArrKind :=
  if p.op = opAddF32 then .addF32 else if p.op = opAddI32 then .addI32 else if p.op = opSignal then .signal p.value
  else if p.op = opRead then .read else .write

/-- The arrivals of a packet. -/
def packetArrivals (p : Packet) (track : Nat) : List Arrival :=
  let one := fun (row : Nat) (data : List Byte) =>
    ({ kind := packetKind p, hoop := p.hoop, row := row, data := data, source := .module p.src, sender := .packet track } : Arrival)
  if p.rows.isEmpty then [one p.row []] else p.rows.zipIdx.map fun r => one (p.row + r.2) r.1

/-- A request or reduce packet for this module (R400, R401): translated by the arriving port's partition, checked whole, and
taken as arrivals; or refused. -/
def deliverPacket (s : State) (port : Nat) (p : Packet) : State :=
  match (getPart s (getPort s port).part).bind fun q => tget? q.places p.core with
  | none => answerPacket s port p opRefused cXlate []
  | some g =>
    match hoopCheck (getCore s g) p.hoop (.module p.src) (packetKind p) p.row (max 1 p.rows.length) with
    | .ok =>
      let k := freshKey s.rxTracks
      let as := packetArrivals p k
      let t : RxTrack := { packet := p, port := port, left := as.length, applied := 0, code := none, answer := none }
      modCore (putTrack s k t) g fun co => { co with inbound := co.inbound ++ as }
    | chk =>
      let s := (List.range (max 1 p.rows.length)).foldl (fun s _ => countRefused s g p.hoop chk) s
      match checkCode chk with
      | some code => answerPacket s port p opRefused code []
      | none => s

/-- A fenced port discards a packet: it is counted, and a request or reduce packet is refused (R435). -/
def discardPacket (s : State) (port : Nat) (p : Packet) : State :=
  let s := dropCount s port
  if isRequest p.op then answerPacket s port p opRefused cHoopClosed [] else s

/-- Discard the whole packets of a channel's receive buffer, `n` at most; a marker or message of firmware is only taken. -/
def discardBuffer (port vc : Nat) : Nat → State → State
  | 0, s => s
  | n + 1, s =>
    match takePacket (vcOf (getPort s port) vc).rx with
    | some (h, rows, rx, freed) =>
      let s := tookPacket s port vc rx freed
      let pk := { packetOf h rows with via := port }
      discardBuffer port vc n (if pk.op = opManagement then s else discardPacket s port pk)
    | none => s

/-- Discard every packet that a port holds for a tenant that leaves it. -/
def discardHeld (s : State) (port : Nat) : State :=
  [0, 1, 2].foldl (fun s c => discardBuffer port c (16 * (vcOf (getPort s port) c).rx.length) s) s

/-- A packet for another module (R411). -/
def forwardPacket (s : State) (port : Nat) (p : Packet) : State :=
  if !(getPort s port).forwarding || p.hops = 0 then sendUnreachable (dropCount s port) port p
  else
    let q := { p with hops := p.hops - 1 }
    let e := routeEntry s p.dest
    match (if rtValid e then pickPort s e (·.forwarding) else none) with
    | some out => queuePacket s out q
    | none => { s with forwards := s.forwards ++ [(port, q)] }

/-- PACKET_ARRIVAL (R400): the next whole packet of a channel. A fenced port discards it (R435); a malformed header is refused
(R398); a packet for another module is forwarded (R411); without a module ID requests are refused (R408). Responses and
management packets for this module are taken by their own commands. -/
def execPacketArrival (port vc : Nat) (s : State) : Out :=
  onPort port (
    let p := getPort s port
    if channelBusy s port vc then .next s
    else match takePacket (vcOf p vc).rx with
      | none => .next s
      | some (h, rows, rx, freed) =>
        let pk := { packetOf h rows with via := port }
        let s' := tookPacket s port vc rx freed
        if headerRefused h then .next (answerPacket (dropCount s' port) port pk opRefused cLayerField [])
        else if vc = 3 then
          if pk.dest = ownId s || s.moduleId.isNone then .next s else .next (forwardPacket s' port pk)
        else if p.fencing && pk.op != opManagement then .next (discardPacket s' port pk)
        else match s.moduleId with
          | none => .next (if isRequest pk.op then answerPacket s' port pk opRefused cXlate [] else s')
          | some own =>
            if own.toNat != pk.dest then .next (forwardPacket s' port pk)
            else if isRequest pk.op then .next (deliverPacket s' port pk)
            else .next s)

/-- FORWARD_TIMEOUT (R411): the oldest packet that waits for a forwarding port since it arrived here is dropped. -/
def execForwardTimeout (port vc : Nat) (s : State) : Out :=
  onPort port (match s.forwards.find? fun e => e.1 == port && channelOf e.2.op == vc with
    | some e => .next (sendUnreachable (dropCount { s with forwards := dropFirst (fun x => x == e) s.forwards } port) port e.2)
    | none => .next s)

/-- Packets that wait for a forwarding port are tried again. -/
def retryForwards (s : State) : State :=
  s.forwards.foldl (fun s e =>
    let r := routeEntry s e.2.dest
    match (if rtValid r then pickPort s r (·.forwarding) else none) with
    | some out => queuePacket s out e.2
    | none => { s with forwards := s.forwards ++ [e] }) { s with forwards := [] }

/-- APPLIED_RESPONSE_SEND (R402): every row of a packet is accounted for. -/
def execAppliedResponseSend (k : Nat) (s : State) : Out :=
  match tget? s.rxTracks k with
  | some t => if t.left = 0 then .next (sendAnswer s k t (t.answer.getD (finalAnswer s t))) else .next s
  | none => .next s

/-! ## Responses at the sending module (R403, R406) -/

/-- The response at the head of the response channel, when it is of kind `op`, well formed and for this module. A fenced port's
are discarded by PACKET_ARRIVAL. -/
def nextResponse (s : State) (port op : Nat) : Option (Packet × State) :=
  let p := getPort s port
  match takePacket (vcOf p 1).rx with
  | some (h, rows, rx, freed) =>
    let pk := packetOf h rows
    if pk.op = op && !(headerRefused h) && s.moduleId == some (BitVec.ofNat 16 pk.dest) && !p.fencing
    then some (pk, tookPacket s port 1 rx freed) else none
  | none => none

/-- The issue that a response belongs to. -/
def responseIssue (co : Core) (p : Packet) : Option Nat :=
  if co.seq.stopped then none
  else (co.seq.issued.find? fun i => i.mtag == p.mtag).map (·.idx)

/-- Run `act` on the core, unit and issue that a response names; a response for nothing is discarded (R403). -/
def onResponse (port op : Nat) (s : State) (act : State → Nat → CoreUnit → Nat → Packet → State) : Out :=
  onPort port (match nextResponse s port op with
    | some (pk, s) =>
      if pk.score < Config.nCores then
        match responseIssue (getCore s pk.score) pk with
        | some idx => .next (act s pk.score (engUnit pk.seng) idx pk)
        | none => .next s
      else .next s
    | none => .next s)

/-- APPLIED_RESPONSE (R403): it accounts for rows of its move, or completes its signal. -/
def execAppliedResponse (port : Nat) (s : State) : Out :=
  onResponse port opApplied s fun s c u idx pk =>
    if u == .signal then modCore s c fun co => completeSignal co idx
    else modJob s c u idx fun j => { j with applied := j.applied + pk.value }

/-- The hoop address that a response to an operation concerns: the row that a remote read asks for, the destination of a move, or the
hoop of a signal. -/
def answeredAddr (co : Core) (u : CoreUnit) (idx : Nat) : Nat :=
  match findJob co u idx with
  | some j => match j.st with
    | .waiting x => if j.remote == .asked then x.addr else tdBase j.descB
    | _ => tdBase j.descB
  | none => match co.signals.find? fun g => g.idx == idx with
    | some g => fld g.entry 0 48
    | none => 0

/-- The move of a response faults (R403). A response carries a code and no mask of words: the mask of an uncorrectable or poisoned
row elsewhere is a free value (R371, log 94). -/
def responseFault (s : State) (c : Nat) (u : CoreUnit) (idx code : Nat) : State :=
  let co := getCore s c
  let bad := fun (mask : Nat) => ({ code := code, unit := senderUnit co u idx, addr := answeredAddr co u idx, detail := mask } : Bad)
  if code = cEcc || code = cPoison then
    match takeFree s with
    | (v, s) => raiseFault s c u idx (bad (v % 256))
  else raiseFault s c u idx (bad 0)

/-- REFUSED_RESPONSE (R403). -/
def execRefusedResponse (port : Nat) (s : State) : Out :=
  onResponse port opRefused s fun s c u idx pk => responseFault s c u idx (pk.value % 256)

/-- UNREACHABLE_RESPONSE (R403). -/
def execUnreachableResponse (port : Nat) (s : State) : Out :=
  onResponse port opUnreachable s fun s c u idx _ => responseFault s c u idx cXlate

/-- READ_DATA_RESPONSE (R406). -/
def execReadDataResponse (port : Nat) (s : State) : Out :=
  onResponse port opData s fun s c u idx pk =>
    modJob s c u idx fun j => if j.remote == .asked then { j with remote := .row (pk.rows.headD (zeros 512)) } else j

/-- NOT_READY_RESPONSE (R254). -/
def execNotReadyResponse (port : Nat) (s : State) : Out :=
  onResponse port opNotReady s fun s c u idx _ =>
    modJob s c u idx fun j => if j.remote == .asked then { j with remote := .notReady } else j

/-- A message of firmware on a running encrypted port may agree with the peer on the record counter at which the next key takes
effect (R415). The messages are not given: whether this one does, and on which counter, is a free value (log 64). -/
def agreeKey (s : State) (port : Nat) : State :=
  let p := getPort s port
  match p.keyNext with
  | some k =>
    if p.encOn && p.keyTxAt.isNone && p.keyRxAt.isNone then
      match takeFree s with
      | (v, s) =>
        let n := v / 2
        if v % 2 = 1 && p.txRecord < n && p.rxRecord < n then
          setPort s port { p with keyNext := none, keyTxAt := some (n, k), keyRxAt := some (n, k) }
        else s
    else s
  | none => s

/-- MANAGEMENT_MESSAGE (R397, R415): the next management packet for this module goes to firmware; its contents are not given. -/
def execManagementMessage (port : Nat) (s : State) : Out :=
  onPort port (match takePacket (vcOf (getPort s port) 3).rx with
    | some (h, rows, rx, freed) =>
      let pk := packetOf h rows
      if pk.op = opManagement && !(headerRefused h) && (pk.dest = ownId s || s.moduleId.isNone) then
        .next (agreeKey (modPort (tookPacket s port 3 rx freed) port fun p => { p with mgmtIn := p.mgmtIn ++ [pk] }) port)
      else .next s
    | none => .next s)

end Sys2Proof.Machine
end

