-- ==== Sys2Proof/Machine/Ports.lean ====
section
/-! DEFINITION. The states of a port (R390 to R392), its lanes (R374 to R376), the leader role (R393 to R395), fences (R435) and
the laser inputs (R417 to R419). -/

namespace Sys2Proof.Machine

/-! ## Training -/

/-- A port that went down under R376 is not trained before the lane test has passed on the wavelengths that its lanes left and
firmware has reset `FAILED_WL`. -/
def laneBarred (p : Port) : Bool := p.laneDown && !p.laneFailed.isEmpty

/-- LIGHT_DETECTED (R390): light on all nine wavelengths, or on the eight besides `FAILED_WL`. -/
def execLightDetected (port mask : Nat) (s : State) : Out :=
  onPort port (
    let p := getPort s port
    let needed := if p.failedWl < 9 then clearBits 511 (1 <<< p.failedWl) else 511
    if p.link = .dark && !(laneBarred p) && (mask &&& needed) == needed then
      .next (setPort s port { p with link := .training, laneDown := false })
    else .next s)

/-- The leader role as training settles it: whether this end leads, and whether it meets a conflict (R395). -/
def settleRole (own peer : Dword) (ownAsks peerAsks : Bool) : Bool × Bool :=
  let lower := own.toNat < peer.toNat
  if ownAsks && peerAsks then (lower, !lower)
  else if ownAsks then (true, false)
  else if peerAsks then (false, false)
  else (lower, false)

/-- A port comes up: the peer's identity, the credits of its buffers, sequence numbers 0, and encryption when it is wanted, with the
key that waits (R391, R413, R414, R561). Firmware that prefers the follower role offers the other (R394). -/
def trainedPort (p : Port) (peer : PeerInfo) (leader : Bool) : Port :=
  let next := fun (agreed : Option (Nat × LinkKey)) => if p.encWanted then p.keyNext.orElse fun _ => agreed.map (·.2) else none
  let tx := newKey (next p.keyTxAt) p.keyCur p.txRecord
  let rx := newKey (next p.keyRxAt) p.keyRx p.rxRecord
  { p with link := .up, leader := leader, peerPort := peer.port % 64, peerSerial := peer.serial, peerModule := peer.moduleId,
           txSeq := 0, rxSeq := 0, replay := [], resend := none, resends := 0, discarding := false, nakDue := false,
           frameLocked := true, encOn := p.encWanted, keyCur := tx.1, txRecord := tx.2, keyRx := rx.1, rxRecord := rx.2,
           keyNext := if p.encWanted then none else p.keyNext, keyTxAt := if p.encWanted then none else p.keyTxAt,
           keyRxAt := if p.encWanted then none else p.keyRxAt, txOpen := [], rxOpen := [],
           recordFails := 0, requestPending := leader && p.policy == 2, changeover := none, rrReduce := false, mgmtGap := 255,
           vcs := p.vcs.zipIdx.map fun v => { v.1 with credits := nth peer.buffers v.2 0, creditDue := 0 } }

/-- TRAINING_COMPLETE (R391): a peer that reports the module's own serial is a loopback. -/
def execTrainingComplete (port : Nat) (peer : PeerInfo) (s : State) : Out :=
  onPort port (
    let p := getPort s port
    if p.link != .training then .next s
    else if peer.serial = s.fuses.serial then .next (setPort s port (seeLoopback { p with link := .disabled }))
    else
      let r := settleRole s.fuses.serial peer.serial (p.policy == 1) peer.requests
      let q := trainedPort p peer r.1
      .next (retryForwards (setPort s port (if r.2 then seeRoleConflict q else q))))

/-- TRAINING_FAIL (R390). -/
def execTrainingFail (port : Nat) (s : State) : Out :=
  onPort port (if (getPort s port).link = .training then .next (goDown s port) else .next s)

/-! ## Frame lock -/

/-- An `UP` port enters `HOLD`, which keeps buffers, sequence numbers and credits (R390, R421). -/
def enterHold (p : Port) : Port := if p.link = .up then seeHold { p with link := .hold, frameLocked := false } else p

/-- FRAME_LOCK_LOST (R390). -/
def execFrameLockLost (port : Nat) (s : State) : Out := onPort port (.next (modPort s port enterHold))

/-- FRAME_LOCK_RETURN (R390): lock returns within 100 µs. -/
def execFrameLockReturn (port : Nat) (s : State) : Out :=
  onPort port (
    let p := getPort s port
    if p.link = .hold then .next (retryForwards (setPort s port { p with link := .up, frameLocked := true })) else .next s)

/-- HOLD_TIMEOUT (R390). -/
def execHoldTimeout (port : Nat) (s : State) : Out :=
  onPort port (if (getPort s port).link = .hold then .next (goDown s port) else .next s)

/-- DOWN_RETRAIN (R390). -/
def execDownRetrain (port : Nat) (s : State) : Out :=
  onPort port (
    let p := getPort s port
    if p.link = .down && !(laneBarred p) then
      .next (setPort s port { p with link := .training, laneDown := false })
    else .next s)

/-! ## Lanes (R374 to R376) -/

/-- Wavelength that a lane rides on. -/
def laneWl (p : Port) (lane : Nat) : Nat := if p.failedWl = lane then 8 else lane

/-- LANE_DEGRADE (R374): the lane is to move to `WL8` when that is free; a second degraded lane takes the port `DOWN`. -/
def execLaneDegrade (port lane : Nat) (s : State) : Out :=
  onPort port (
    let p := getPort s port
    if p.link != .up && p.link != .hold then .next s
    else if p.failedWl = 0xF && p.moving.isNone then .next (setPort s port { p with moving := some lane })
    else if p.moving = some lane then .next s
    else
      let failed := (match p.moving with
        | some l => [l]
        | none => []) ++ p.laneFailed ++ [laneWl p lane]
      .next (goDown (setPort s port { p with laneDown := true, laneFailed := failed, lanePassed := [] }) port))

/-- LANE_MOVE (R375): the degraded lane moves to `WL8`. -/
def execLaneMove (port : Nat) (s : State) : Out :=
  onPort port (
    let p := getPort s port
    match p.moving with
    | some l =>
      if p.link = .up then
        .next (setPort s port (seeLaneSpared { p with failedWl := l, moving := none, laneFailed := [l] }))
      else .next s
    | none => .next s)

/-- LANE_TEST (R374): once the test passes on both wavelengths that the degraded lanes of a port left, firmware resets `FAILED_WL`
(R376, R421). -/
def execLaneTest (port wl : Nat) (pass : Bool) (s : State) : Out :=
  onPort port (
    let p := getPort s port
    let passed := if pass then insNat p.lanePassed wl else delNat p.lanePassed wl
    if p.laneDown && p.laneFailed.all (fun x => passed.contains x) then
      .next (setPort s port { p with failedWl := 0xF, laneFailed := [], lanePassed := [] })
    else .next (setPort s port { p with lanePassed := passed }))

/-! ## The leader role (R394, R395) -/

/-- A role message from the other end while an own one is unanswered: the end with the lower serial leads, and the other meets a
conflict. -/
def crossRoles (s : State) (p : Port) : Port :=
  let lead := s.fuses.serial.toNat < p.peerSerial.toNat
  let q := { p with requestPending := false, changeover := if lead = p.leader then none else some lead }
  if lead then q else seeRoleConflict q

/-- ROLE_REQUEST (R394): the leader grants the follower's request; a request from the leader changes nothing. -/
def execRoleRequest (port : Nat) (s : State) : Out :=
  onPort port (
    let p := getPort s port
    if p.link != .up || !p.leader then .next s
    else if p.requestPending then .next (setPort s port (crossRoles s p))
    else .next (setPort s port { p with changeover := some false }))

/-- HANDOVER (R394): a follower accepts the leader role, unless its own policy prefers the follower role. -/
def execHandover (port : Nat) (s : State) : Out :=
  onPort port (
    let p := getPort s port
    if p.link != .up || p.leader then .next s
    else if p.requestPending then .next (setPort s port (crossRoles s p))
    else if p.policy = 2 then .next s
    else .next (setPort s port { p with changeover := some true }))

/-- ROLE_CHANGEOVER (R394): the clocks change over through `HOLD`, as granted to the other end or, when the other end agreed to an own
message, by it. An own message that it declined or answered as held leaves the roles as they stand: which of the two is a free value (log 27). -/
def execRoleChangeover (port : Nat) (s : State) : Out :=
  onPort port (
    let p := getPort s port
    if p.link != .up then .next s
    else match p.changeover with
      | some b => .next (setPort s port (enterHold { p with leader := b, changeover := none, requestPending := false }))
      | none =>
        if !p.requestPending then .next s
        else
          let r := takeFree s
          .next (setPort r.2 port (if r.1 % 2 = 0 then enterHold { p with leader := !p.leader, requestPending := false }
                                   else { p with requestPending := false })))

/-! ## Fences (R435) -/

/-- A management packet of firmware; its contents are not given (log 27). -/
def managementPacket (s : State) (p : Port) : Packet :=
  { hops := 1, score := 0, seng := 3, mtag := 0, value := 0, op := opManagement, dest := p.peerModule.toNat, src := ownId s,
    core := 0, hoop := 0, row := 0, rows := [zeros 512], via := 0 }

/-- FENCE_REQUEST (R435): markers go behind what is queued on the request, response and reduce channels. -/
def execFenceRequest (port : Nat) (s : State) : Out :=
  onPort port (.next (modPort s port fun p =>
    let m := managementPacket s p
    [0, 1, 2].foldl (fun q c => modVc q c fun v => { v with txq := v.txq ++ [m] }) p))

/-- The fence of a port is complete. -/
def fenceDone (p : Port) : Bool := (vcOf p 0).marker && (vcOf p 1).marker && (vcOf p 2).marker

/-- A marker is a management packet on its channel: it leaves the buffer (log 27). -/
def takeMarker (s : State) (port vc : Nat) : State :=
  match takePacket (vcOf (getPort s port) vc).rx with
  | some (h, _, rx, freed) => if fld h 60 4 = opManagement then tookPacket s port vc rx freed else s
  | none => s

/-- FENCE_MARKER (R435): with the third marker the discard ends. -/
def execFenceMarker (port vc : Nat) (s : State) : Out :=
  onPort port (
    if !(getPort s port).fencing || vc = 3 then .next s
    else
      .next (modPort (takeMarker s port vc) port fun p =>
        let q := modVc p vc fun v => { v with marker := true }
        if fenceDone q then { q with fencing := false } else q))

/-- The port carries packets, or may do so without being trained again. -/
def carries (p : Port) : Bool := p.link == .up || p.link == .hold

/-- FENCE_TIMEOUT (R435): the port goes `DOWN`, and the packets that it holds whole go with the old tenant. -/
def execFenceTimeout (port : Nat) (s : State) : Out :=
  onPort port (
    let p := getPort s port
    if p.fencing then
      let s := setPort s port { p with fencing := false }
      .next (discardHeld (if carries p || p.link == .training then goDown s port else s) port)
    else .next s)

/-- Firmware fences a port: it asks the peer for markers and discards what comes before them. A port that is to be trained before it
carries anything discards at once what it still holds. -/
def startFence (s : State) (port : Nat) : State :=
  let p := getPort s port
  if carries p then
    queuePacket (setPort s port { p with fencing := true, vcs := p.vcs.map fun v => { v with marker := false } }) port
      (managementPacket s p)
  else discardHeld s port

/-! ## Laser inputs (R417 to R419) -/

def portsOfPd (k : Nat) : List Nat := (List.range 16).map fun i => 16 * k + i

/-- The port of the die at local index `i` takes its light from LS-B. -/
def fedByB (d : Photonic) (i : Nat) : Bool := if i < 8 then d.lowerB else d.upperB

def laserOk (l : Laser) : Bool := l.present && !l.failed

/-- Ports of a die that change their input pass through `HOLD`. -/
def switchInputs (s : State) (k : Nat) (lowerB upperB : Bool) : State :=
  let d := getPd s k
  let s := (List.range 16).foldl (fun s i =>
    if fedByB d i != (if i < 8 then lowerB else upperB) then modPort s (16 * k + i) enterHold else s) s
  modPd s k fun d => { d with lowerB := lowerB, upperB := upperB }

/-- LASER_INPUT_LOSS (R418): the other input feeds all sixteen ports at full output; with no other input they go dark (R419). -/
def execLaserInputLoss (pd input : Nat) (s : State) : Out :=
  onPd pd (
    let d := getPd s pd
    let lost := fun (l : Laser) => { l with failed := true, full := false }
    let d' := if input = 0 then { d with lsA := lost d.lsA } else { d with lsB := lost d.lsB }
    let other := if input = 0 then d'.lsB else d'.lsA
    let s := setPd s pd d'
    if laserOk other then
      let s := (List.range 16).foldl (fun s i =>
        if fedByB d i = (input != 0) then modPort s (16 * pd + i) enterHold else s) s
      .next (modPd s pd fun d =>
        { d with lowerB := input == 0, upperB := input == 0,
                 lsA := if input = 0 then d.lsA else { d.lsA with full := true },
                 lsB := if input = 0 then { d.lsB with full := true } else d.lsB })
    else .next ((portsOfPd pd).foldl (fun s p =>
      if (getPort s p).link = .disabled then s else leaveUp s p .dark) s))

end Sys2Proof.Machine
end

