-- ==== Sys2Proof/Machine/Reducer.lean ====
section
/-! DEFINITION. The die reducers (R112 to R120, R346, R347, R429). -/

namespace Sys2Proof.Machine

/-! ## Parameters of a set (R346) -/

def redSetOf (aux : Nat) : Nat := fld aux 0 8
def redOp (aux : Nat) : Nat := fld aux 8 2
def redInt (aux : Nat) : Bool := bitAt aux 10
def redN (aux : Nat) : Nat := fld aux 11 6
def redDies (aux : Nat) : Nat := fld aux 17 16

/-- Fields of a destination descriptor that name its rows: position and width. -/
def destFields (desc : Nat) : List (Nat × Nat) :=
  (0, 48) :: (List.range (tdNdim desc)).map (fun k => (48 + 24 * k, 24)) ++
    (List.range (tdNdim desc)).map (fun k => (168 + 32 * k, 32)) ++ [(328, 3)]

/-- Lowest-placed field in which a contribution differs from its open set: bit position in the destination descriptor (R347,
R602). `RED_N` counts contributors on the contributor's own die, so two dies' sums may differ in it. -/
def redDiffers (second : Bool) (aux desc aux' desc' : Nat) : Option Nat :=
  minPos ((destFields desc).filterMap (fun f => if fld desc f.1 f.2 != fld desc' f.1 f.2 then some f.1 else none) ++
    badIf (redOp aux != redOp aux') (409 + 8) ++
    badIf (redOp aux = 0 && redInt aux != redInt aux') (409 + 10) ++
    badIf (!second && redN aux != redN aux') (409 + 11) ++
    badIf (redDies aux != redDies aux') (409 + 17))

/-! ## The buffer (R117, R429) -/

/-- Rows of a partition in its own part of a die's buffer. -/
def ownRowsHeld (d : Die) (part : Nat) : Nat :=
  (d.sets.filter fun x => x.part == part).foldl (fun n x =>
    x.rows.foldl (fun n r => n + (r.parts.length + r.dies.length - r.common)) n) 0

/-- Rows of all partitions in the common part. -/
def commonHeld (d : Die) : Nat := d.sets.foldl (fun n x => x.rows.foldl (fun n r => n + r.common) n) 0

/-- Cores of a partition on a die. -/
def coresOn (p : Partition) (die : Nat) : Nat := (p.places.filter fun e => dieOf e.2 == die).length

/-- The partitions with cores on a die. -/
def partsOn (s : State) (die : Nat) : List (Nat × Partition) := s.partitions.filter fun e => coresOn e.2 die != 0

/-- Rows of a partition's own part: one for each of its cores on the die, and its share of the rest. -/
def shareOf (s : State) (die : Nat) (p : Partition) : Nat :=
  let ps := partsOn s die
  let rest := 256 - ps.foldl (fun n e => n + coresOn e.2 die) 0
  let grains := ps.foldl (fun n e => n + tget e.2.meshGrains die 0) 0
  coresOn p die + (if grains = 0 then rest / ps.length else rest * tget p.meshGrains die 0 / grains)

/-- Where a contribution of a partition finds a row of the buffer. -/
inductive BufPlace where
  | ownPart | commonPart | full
  deriving DecidableEq, Repr

/-- A contribution of a partition takes a row of its own part, or, when that is full, of the common part, which it returns when its
result is emitted (R429). -/
def reducerRoom (s : State) (die part : Nat) : BufPlace :=
  match getPart s part with
  | none => .ownPart
  | some p =>
    let d := getDie s die
    let common := 256 - (partsOn s die).foldl (fun n e => n + shareOf s die e.2) 0
    if ownRowsHeld d part < shareOf s die p then .ownPart
    else if commonHeld d < common then .commonPart else .full

/-! ## Results (R115, R116, R118) -/

/-- Adjacent pairs of a level added; an unpaired last operand passes. -/
def treeLevel (isInt : Bool) : List (List Byte) → List (List Byte) × Bool
  | a :: b :: t =>
    let r := addRows isInt a b
    let q := treeLevel isInt t
    (r.1 :: q.1, r.2 || q.2)
  | l => (l, false)

/-- The balanced tree over the leaves; `n` bounds its levels. -/
def redTree (isInt : Bool) : Nat → List (List Byte) → List Byte × Bool
  | 0, l => (l.headD [], false)
  | n + 1, l =>
    match l with
    | [] => ([], false)
    | [a] => (a, false)
    | l =>
      let r := treeLevel isInt l
      let q := redTree isInt n r.1
      (q.1, r.2 || q.2)

/-- Maximum or minimum with index over 64 pairs. -/
def bestRow (maximum : Bool) (leaves : List (List Byte)) : List Byte :=
  (List.range 64).flatMap fun e =>
    match pairBest maximum (leaves.map fun r => (numAt r (8 * e) 4, numAt r (8 * e + 4) 4)) with
    | some p => leBytes 4 p.1 ++ leBytes 4 p.2
    | none => zeros 8

def sortLeaves {α : Type} (l : List (Nat × α)) : List α :=
  (l.foldr (fun e (acc : List (Nat × α)) => acc.takeWhile (fun x => x.1 < e.1) ++ e :: acc.dropWhile (fun x => x.1 < e.1)) []).map
    (·.2)

/-- The core at the place of a hoop destination. -/
def destCore (s : State) (part : Nat) : Loc → Option Nat
  | .hoop _ core _ _ => (getPart s part).bind fun p => tget? p.places core
  | _ => none

/-- The root of a module-scope sum (R118). -/
def redRoot (s : State) (c : Contribution) : Nat :=
  match destCore s c.part c.dest with
  | some g => dieOf g
  | none => (lowBit 16 0 (redDies c.aux)).getD 0

def reducerFault (s : State) (c : Contribution) (code addr detail : Nat) : State :=
  raiseFault s c.core .cdma c.idx { code := code, unit := uReducer, addr := addr, detail := detail }

/-- A result row leaves for its destination; `c` is the contribution that completed it (R114). -/
def deliverRow (s : State) (die : Nat) (c : Contribution) (data : List Byte) : State :=
  match c.dest with
  | .hoop _ core hoop row =>
    match destCore s c.part c.dest with
    | some g =>
      let a : Arrival := { kind := .write, hoop := hoop, row := row, data := data, source := .reducer die,
                           sender := .reduction c.core }
      modCore s g fun co => { co with inbound := co.inbound ++ [a] }
    | none => reducerFault s c cXlate (hoopAddr core hoop row) 0
  | .addr r =>
    match tableLookup s c.part (r * 512) true with
    | .ok row =>
      match putRow s row data c.mask with
      | (s, none) => s
      | (s, some bad) => reducerFault s c cEcc (r * 512) bad
    | .bad code => reducerFault s c code (r * 512) 0
    | .miss _ => s
  | .own _ _ => s

/-- The core on which a saturation is raised: the destination core, or the lowest contributor (R115). DESIGN CHOICE: for HBM, the
contributors of the root's reducer are those of all the dies (log 86). -/
def satCore (s : State) (c : Contribution) (cores : List Nat) : Nat :=
  match destCore s c.part c.dest with
  | some g => g
  | none => cores.foldl min c.core

/-- A complete result row of a reducer is formed and sent (R114, R115, R116, R118). DESIGN CHOICE: a saturation's record names
entry 0, which the spec does not give (log 86). -/
def emitResult (s : State) (die : Nat) (c : Contribution) (r : RedRow) (second : Bool) : State :=
  let cores := if second then r.dies.flatMap (·.2.1) else r.parts.map (·.1)
  let leaves := if second then sortLeaves (r.dies.map fun e => (e.1, e.2.2)) else sortLeaves r.parts
  let sum := if redOp c.aux = 0 then redTree (redInt c.aux) 7 leaves else (bestRow (redOp c.aux == 1) leaves, false)
  let s := if sum.2 then reductionSat s (satCore s c cores) 0 0 uReducer else s
  if second || redDies c.aux = 0 then deliverRow s die c sum.1
  else modDie s (redRoot s c) fun d => { d with transit := d.transit ++ [{ c with data := sum.1, dieResult := some (die, cores) }] }

/-- Put a contribution into the first result row of its index that lacks its contributor (R114). `n` is 1 when it stands in the common
part of the buffer. -/
def placeRow (c : Contribution) (n : Nat) : List RedRow → List RedRow
  | [] =>
    match c.dieResult with
    | some d => [{ k := c.k, dest := c.dest, mask := c.mask, parts := [], dies := [(d.1, d.2, c.data)], common := n }]
    | none => [{ k := c.k, dest := c.dest, mask := c.mask, parts := [(c.core, c.data)], dies := [], common := n }]
  | r :: rs =>
    match c.dieResult with
    | some d =>
      if r.k = c.k && !(r.dies.any fun e => e.1 == d.1) then
        { r with dies := r.dies ++ [(d.1, d.2, c.data)], common := r.common + n } :: rs
      else r :: placeRow c n rs
    | none =>
      if r.k = c.k && !(r.parts.any fun e => e.1 == c.core) then
        { r with parts := r.parts ++ [(c.core, c.data)], common := r.common + n } :: rs
      else r :: placeRow c n rs

/-- The row is complete: every contributor, or every die of a module-scope sum, is in. -/
def rowComplete (aux : Nat) (second : Bool) (r : RedRow) : Bool :=
  if second then r.dies.length ≥ popBits 16 (redDies aux) else r.parts.length ≥ redN aux

/-- The contribution's move counts it as taken (R327). -/
def countTaken (s : State) (c : Contribution) : State :=
  if c.dieResult.isSome then s
  else
    let bump := fun (j : Job) => if j.idx == c.idx then { j with applied := j.applied + 1 } else j
    modCore s c.core fun co => { co with cdma := co.cdma.map bump, dieJobs := co.dieJobs.map bump }

def isSet (part aux : Nat) (second : Bool) (x : RedSet) : Bool :=
  x.part == part && redSetOf x.aux == redSetOf aux && x.second == second

/-- A contribution row is taken into its set, which it opens when it is not open; a row that it completes is emitted, and the
set closes with its last row (R114, R347). -/
def takeRow (s : State) (die : Nat) (c : Contribution) (n : Nat) : State :=
  let second := c.dieResult.isSome
  let d := getDie s die
  let cur := d.sets.find? (isSet c.part c.aux second)
  let base : RedSet := cur.getD { part := c.part, aux := c.aux, second := second, desc := c.desc, rows := [] }
  let rows := placeRow c n base.rows
  let done := rows.find? (rowComplete c.aux second)
  let left := match done with
    | some r => rows.filter fun x => !(x == r)
    | none => rows
  let others := d.sets.filter fun x => !(isSet c.part c.aux second x)
  let sets := if left.isEmpty then others else others ++ [{ base with rows := left }]
  let s := countTaken (setDie s die { d with sets := sets }) c
  match done with
  | some r => emitResult s die c r second
  | none => s

/-- Two rows on their way to a reducer that keep their order: rows of one core, or results of one die (R97, R114). -/
def sameStream (a b : Contribution) : Bool :=
  match a.dieResult, b.dieResult with
  | none, none => a.core == b.core
  | some x, some y => x.1 == y.1
  | _, _ => false

/-- REDUCER_CONTRIBUTION (R114): contribution `k` of those on their way to the reducer reaches it, rows of one core, and results of
one die, in order. It waits in the mesh while its partition's part of the buffer is full (R429). -/
def execReducerContribution (die k : Nat) (s : State) : Out :=
  onDie die (
    let d := getDie s die
    match d.transit[k]? with
    | none => .next s
    | some c =>
      let place := reducerRoom s die c.part
      if (d.transit.take k).any (sameStream c) || place = .full then .next s
      else
        let s := setDie s die { d with transit := d.transit.take k ++ d.transit.drop (k + 1) }
        match (d.sets.find? (isSet c.part c.aux c.dieResult.isSome)).bind fun x => redDiffers c.dieResult.isSome c.aux c.desc x.aux x.desc with
        | some p =>
          let co := getCore s c.core
          let u : CoreUnit := if (findJob co .cdma c.idx).isSome then .cdma else .dieDma
          let addr := match findJob co u c.idx with
            | some j => fld j.entry 48 48
            | none => 0
          if !(isIssued co c.idx) then .next s
          else .next (raiseFault s c.core u c.idx
            { code := cLayerField, unit := senderUnit co u c.idx, addr := addr, detail := p })
        | none => .next (takeRow s die c (if place = .commonPart then 1 else 0)))

end Sys2Proof.Machine
end

