-- ==== Sys2Proof/Machine/Ledger.lean ====
section
/-! DEFINITION. The work ledger (R499 to R503) and the results of commands (R487 to R490). -/

namespace Sys2Proof.Machine

/-! ## Completion statuses (R490) -/

def stOk : Nat := 0x00
def stField : Nat := 0x01
def stState : Nat := 0x02
def stResource : Nat := 0x03
def stPerm : Nat := 0x04
def stEcc : Nat := 0x05
def stPoison : Nat := 0x06
def stFaulted : Nat := 0x07
def stAbandoned : Nat := 0x08
def stFailed : Nat := 0x09
def stDiscarded : Nat := 0x0A
def stPlaceEmpty : Nat := 0x0B
def stHwFail : Nat := 0x0C
def stTimeout : Nat := 0x0D

/-! ## Entries (R499, R500) -/

/-- Channel and count of a sequence number (R486). -/
def seqChannel (seq : Nat) : Nat := seq / 2 ^ 60
def seqCount (seq : Nat) : Nat := seq % 2 ^ 60
def seqOf (ch count : Nat) : Nat := ch * 2 ^ 60 + count

/-- The common turn of a work whose commit records are lost or not yet read. -/
def turnUnknown : Nat := 0xFFFFFFFF

/-- The 32 bytes of an entry. -/
def ledgerBytes (e : LedgerEntry) : List Byte :=
  let body := leBytes 8 e.seq.toNat ++ leBytes 4 e.tag.toNat ++ leBytes 1 e.opcode ++ leBytes 1 e.st ++ leBytes 1 e.status ++
    leBytes 1 e.part ++ leBytes 4 e.turn.toNat ++ leBytes 4 e.epoch.toNat ++ zeros 4
  body ++ leBytes 4 (crc32c body)

/-- The entry that 32 bytes hold, when their check holds and they are not empty. -/
def ledgerRead (bs : List Byte) : Option LedgerEntry :=
  if numAt bs 28 4 != crc32c (bs.take 28) then none
  else some { seq := BitVec.ofNat 64 (numAt bs 0 8), tag := BitVec.ofNat 32 (numAt bs 8 4), opcode := numAt bs 12 1,
              st := numAt bs 13 1, status := numAt bs 14 1, part := numAt bs 15 1, turn := BitVec.ofNat 32 (numAt bs 16 4),
              epoch := BitVec.ofNat 32 (numAt bs 20 4) }

/-- Host address of the entry of a sequence number (R499). -/
def ledgerAddr (l : Ledger) (seq : Nat) : Nat :=
  l.areaBase.toNat + 32 * (seqChannel seq * 2 ^ l.areaLog2 + seqCount seq % 2 ^ l.areaLog2)

/-- Write an entry to the hub copy and then to the area (R501). -/
def putLedger (s : State) (seq : Nat) (e : LedgerEntry) : State :=
  if s.legacy then s
  else
    let e := { e with epoch := s.stamp.epoch }
    let s := { s with ledger := { s.ledger with held := true, entries := tput s.ledger.entries seq e } }
    if s.ledger.attached then hostWrite s (ledgerAddr s.ledger seq) (ledgerBytes e) else s

/-- Change the entry of a sequence number. -/
def modLedger (s : State) (seq : Nat) (f : LedgerEntry → LedgerEntry) : State :=
  match tget? s.ledger.entries seq with
  | some e => putLedger s seq (f e)
  | none => s

/-- The entries that a new command's entry overwrites leave the hub copy (R499). -/
def ageLedger (s : State) (seq : Nat) : State :=
  if !s.ledger.attached then s
  else
    { s with ledger := { s.ledger with entries := s.ledger.entries.filter fun e =>
        !(seqChannel e.1 == seqChannel seq && seqCount e.1 + 2 ^ s.ledger.areaLog2 ≤ seqCount seq) } }

def ledgerState (s : State) (seq st : Nat) : State := modLedger s seq fun e => { e with st := st }

def ledgerTurn (s : State) (seq turn : Nat) : State := modLedger s seq fun e => { e with turn := BitVec.ofNat 32 turn }

/-! ## Commands -/

/-- The header of a command (R485). In legacy mode the entry is 32 bytes and its parameters stand 8 bytes lower (R506); the
model keeps every command in the form of protocol 3. -/
def cmdOpcode (bs : List Byte) : Nat := numAt bs 0 1
def cmdFlags (bs : List Byte) : Nat := numAt bs 1 1
def cmdPart (bs : List Byte) : Nat := numAt bs 2 2
def cmdTag (bs : List Byte) : Nat := numAt bs 4 4
def cmdSeq (bs : List Byte) : Nat := numAt bs 8 8

/-- Fix the result of a command, once (R501). -/
def fixResult (s : State) (seq status : Nat) (detail : List Byte) : State :=
  match tget? s.cmds seq with
  | none => s
  | some c =>
    if c.result.isSome then s
    else
      let r : Result := { status := status, detail := padTo 16 detail }
      let c' : Cmd := { c with begun := true, draining := false, result := some r }
      modLedger { s with cmds := tput s.cmds seq c' } seq fun e => { e with st := 5, status := status }

/-- Details of the refusals of R490. -/
def fieldDetail (off index : Nat) : List Byte := leBytes 2 off ++ zeros 2 ++ leBytes 4 index
def addrDetail (code addr : Nat) : List Byte := leBytes 1 code ++ zeros 7 ++ leBytes 8 addr

def refuseField (s : State) (seq off index : Nat) : State := fixResult s seq stField (fieldDetail off index)
def refuseState (s : State) (seq off : Nat) : State := fixResult s seq stState (leBytes 2 off)
def refuseResource (s : State) (seq index : Nat) : State := fixResult s seq stResource (leBytes 4 index)
def refusePerm (s : State) (seq code addr : Nat) : State := fixResult s seq stPerm (addrDetail code addr)

/-- The command at a sequence number begins, or has begun (R488): every earlier command of its channel has begun, and with
`BARRIER` every earlier one has its result. `n` names the opcode that the row runs. -/
def mayBegin (s : State) (seq n : Nat) : Option Cmd :=
  match tget? s.cmds seq with
  | none => none
  | some c =>
    let earlier := s.cmds.filter fun e => e.2.ch == c.ch && e.1 < seq
    if cmdOpcode c.bytes == n && !c.begun && c.result.isNone && earlier.all (fun e => e.2.begun || e.2.result.isSome) &&
       (!(bitAt (cmdFlags c.bytes) 0) || earlier.all (fun e => e.2.result.isSome))
    then some c else none

/-- The command begins: it runs on its own from here. -/
def beginCmd (s : State) (seq : Nat) : State :=
  match tget? s.cmds seq with
  | some c => { s with cmds := tput s.cmds seq { c with begun := true } }
  | none => s

/-- A row of the command set: when the command is accepted, carries the row's opcode and selector and may begin, `act` runs
it on its bytes; else nothing happens. -/
def runCmd (s : State) (seq op : Nat) (sel : List Byte → Bool) (act : List Byte → State) : Out :=
  match mayBegin s seq op with
  | some c => if sel c.bytes then .next (act c.bytes) else .next s
  | none => .next s

def anyCmd (_ : List Byte) : Bool := true

end Sys2Proof.Machine
end

