-- ==== Sys2Proof/Machine/Works.lean ====
section
/-! DEFINITION. Works (R447 to R452): stopping and preparing their cores, the common turn, replay and end; and the entries
that end a layer, a turn and a list (R327, R340, R361). -/

namespace Sys2Proof.Machine

/-! ## Lists of a work -/

/-- The work that a core runs a list of. -/
def workOf (s : State) (c : Nat) : Option (Nat × Work) :=
  s.works.find? fun e => (e.2.st == .running || e.2.st == .recovering) && e.2.lists.any (fun l => l.core == c)

def workCores (w : Work) : List Nat := w.lists.map (·.core)

def putWork (s : State) (seq : Nat) (w : Work) : State := { s with works := tput s.works seq w }

def modList (w : Work) (c : Nat) (f : WList → WList) : Work :=
  { w with lists := w.lists.map fun l => if l.core == c then f l else l }

/-- A list has ended or committed since the work resumed: its place leaves the recovery window, which closes with the last
(R456); the replacements of that recovery are then cores like any other (R459). -/
def leaveWindow (w : Work) (c : Nat) : Work :=
  match w.window with
  | none => w
  | some ps =>
    let left := ps.filter fun p => !(w.lists.any fun l => l.core == c && l.place == p)
    if left.isEmpty then { w with window := none, replaced := [] } else { w with window := some left }

/-! ## Stopping (R432 step 2, R447) -/

/-- A core with no list: its units stopped, its sequencer idle. HBM writes that it issued are still acknowledged. -/
def idleCore (co : Core) : Core :=
  { stopUnits co with startReq := none,
                      seq := { co.seq with running := false, stopped := true, issued := [], block := none, fetch := [] } }

/-- Senders outside a core whose reduce-adds are discarded with its conflict queue. -/
def localSenders (co : Core) : List (Nat × CoreUnit × Nat × Nat) :=
  co.cq.filterMap fun e => match e.owner with
    | .arrival h (.local g u idx) => some (g, u, idx, queuedAddr co h e)
    | _ => none

def trackSenders (co : Core) : List (Nat × Nat) :=
  co.cq.filterMap fun e => match e.owner with
    | .arrival h (.packet k) => some (k, queuedRow co h e)
    | _ => none

/-- A sender whose row a stopped core discards faults with `HOOP_CLOSED` while its operation is issued (R257). -/
def senderClosed (s : State) (x : Nat × CoreUnit × Nat × Nat) : State :=
  if isIssued (getCore s x.1) x.2.2.1 then
    raiseFault s x.1 x.2.1 x.2.2.1
      { code := cHoopClosed, unit := senderUnit (getCore s x.1) x.2.1 x.2.2.1, addr := x.2.2.2, detail := 0 }
  else s

/-- Every arrival on its way to a core is refused, its hoops being closed (R432 step 3, R438). -/
def refuseAll (c : Nat) : Nat → State → State
  | 0, s => s
  | n + 1, s =>
    match (getCore s c).inbound with
    | [] => s
    | a :: _ =>
      let s := if a.kind == .read then arriveRead s c 0 a
               else refuseArrival s c 0 a (hoopCheck (getCore s c) a.hoop a.source a.kind a.row 1)
      refuseAll c n s

/-- Layers that set_reproducible waits for and that have drained leave its wait; with the last the command is done
(R146). -/
def settleRepro (s : State) : State :=
  let waits := s.reproWait.map fun e =>
    (e.1, e.2.filter fun x => (getCore s x.1).press.any fun j => j.idx == x.2)
  let s1 := { s with reproWait := waits.filter fun e => !e.2.isEmpty }
  (waits.filter fun e => e.2.isEmpty).foldl (fun s e => fixResult s e.1 stOk []) s1

/-- Stop the cores of a list, discard their queued conflict entries and refuse what is on its way to them. -/
def stopCores (s : State) (cs : List Nat) : State :=
  let tracks := cs.flatMap fun c => trackSenders (getCore s c)
  let senders := cs.flatMap fun c => localSenders (getCore s c)
  let s := cs.foldl (fun s c => modCore s c idleCore) s
  let s := tracks.foldl (fun s x => trackRow s x.1 x.2 (some cHoopClosed)) s
  let s := senders.foldl senderClosed s
  settleRepro (cs.foldl (fun s c => refuseAll c (getCore s c).inbound.length s) s)

/-! ## Clearing (R261, R433, R451) -/

/-- Rows of a core's stores that `keep` does not keep become zero, empty, error-free and unpoisoned. -/
def zeroRows (s : State) (c : Nat) (keep : Nat → Nat → Bool) : State :=
  let gone := fun (row : Nat) => match placeOf row with
    | .store g st r => g == c && !(keep st r)
    | _ => false
  { s with mem := s.mem.filter (fun x => !(gone (x.1 / 512))), full := s.full.filter (fun r => !(gone r)),
           poison := s.poison.filter (fun x => !(gone (x / 8))), errOne := s.errOne.filter (fun x => !(gone (x / 8))),
           errFound := s.errFound.filter (fun x => !(gone (x / 8))),
           errMany := s.errMany.filter (fun x => !(gone (x / 8))) }

/-- The core state that R433 names is cleared. -/
def clearCore (co : Core) : Core :=
  { co with hoops := [], hoopRefused := 0, faultRec := none, stats := Stats.reset, tally := [], drift := Drift.reset,
            seq := { co.seq with l0 := 0, l1 := 0, l2 := 0, l3 := 0, turn := 0 } }

/-- A core enters C2 or C3: every bank that it does not retain loses its contents; in C3 all do (R261, R262). -/
def coreDown (s : State) (c target : Nat) : State :=
  let keep := if target = 2 then (getCore s c).retain else 0
  modCore (zeroRows s c fun st r => st == 0 && keep.getLsbD (bankOf 0 r)) c fun co => { co with napRetain := keep }

/-- A core leaves C2 or C3: its state and registers are reset (R548), but for its binding, the fields marked Kept while a bank
stays retained (R277), the scrubber's row (R269), and what firmware holds about it. -/
def coreDomainReset (co : Core) (fromC2 : Bool) : Core :=
  let kept := fromC2 && co.napRetain != 0
  let err : SpErr :=
    if kept then { SpErr.reset with spareExhausted := co.spErr.spareExhausted, lastStore := co.spErr.lastStore,
                                    lastRow := co.spErr.lastRow, lastWord := co.spErr.lastWord } else SpErr.reset
  { Core.reset with
    service := co.service, fencedForSkim := co.fencedForSkim, passedAt := co.passedAt, testing := co.testing,
    part := co.part, place := co.place, startReq := co.startReq, retain := co.retain,
    scrubRow := if fromC2 then co.scrubRow else 0, spErr := err, evLost := if kept then co.evLost else EvLost.reset, skimFails := co.skimFails,
    isolated := co.isolated, gate := co.gate, seq := { Seq.reset with serial := co.seq.serial } }

/-- R433 on one core. -/
def zeroiseCore (s : State) (c : Nat) : State := modCore (zeroRows s c fun _ _ => false) c clearCore

/-- Contributions of the cores held in die reducers are discarded, with die results derived from them; a set that then holds
none is closed (R451 step 4). -/
def discardRows (cs : List Nat) (d : Die) : Die :=
  let sets := d.sets.map fun x =>
    { x with rows := (x.rows.map fun r =>
        let parts := r.parts.filter (fun p => !(cs.contains p.1))
        let dies := r.dies.filter (fun p => !(p.2.1.any fun g => cs.contains g))
        { r with parts := parts, dies := dies, common := min r.common (parts.length + dies.length) }).filter fun r =>
          !(r.parts.isEmpty && r.dies.isEmpty) }
  let gone := fun (x : Contribution) => match x.dieResult with
    | some r => r.2.any fun g => cs.contains g
    | none => cs.contains x.core
  { d with transit := d.transit.filter (fun x => !(gone x)), sets := sets.filter fun x => !x.rows.isEmpty }

/-- Every core of a work is prepared before the work resumes (R451). -/
def prepareCores (s : State) (cs : List Nat) : State :=
  let s := { s with dies := s.dies.map fun e => (e.1, discardRows cs e.2) }
  cs.foldl (fun s c =>
    modCore (zeroRows s c fun st r => retained (getCore s c) st r) c fun co =>
      clearCore { co with inbound := [], portBusy := false }) s

/-! ## Commit records (R362, R363) -/

/-- What the two slots of a list hold: lost, or the valid records, the current one first. -/
inductive Slots where
  | lost
  | held (recs : List Nat)
  deriving DecidableEq, Repr

def crTurn (r : Nat) : Nat := fld r 32 16

/-- Turn `a` is later than turn `b` (R363). -/
def turnLater (a b : Nat) : Bool := a != b && (a + 2 ^ 16 - b) % 2 ^ 16 < 2 ^ 15

/-- A record that is valid for a list of a work (R363). -/
def recordValid (bs : List Byte) (listId seq : Nat) : Bool :=
  numAt bs 60 4 == crc32c (bs.take 60) && numAt bs 0 4 == listId && numAt bs 16 8 == seq

/-- One slot: none when it cannot be read. -/
def readSlot (s : State) (part a : Nat) : Option (List Byte) :=
  match tableLookup s part a false with
  | .ok row =>
    let w := a % 512 / 64
    if bitAt (manyOf s row ||| poisonOf s row) w then none else some (rdBytes s (row * 512 + a % 512) 64)
  | _ => none

/-- The slots of a list, of which an unreadable one is not valid (R363); when neither is valid and one cannot be read, the records are
lost. -/
def listSlots (s : State) (part seq : Nat) (l : WList) : Slots :=
  match l.commit with
  | none => .held []
  | some a =>
    let slots := [readSlot s part a, readSlot s part (a + 64)]
    match slots.filterMap fun x => x.bind fun b => if recordValid b l.listId seq then some (leNat b) else none with
    | [p, q] => .held (if turnLater (crTurn q) (crTurn p) then [q, p] else [p, q])
    | [p] => .held [p]
    | _ => if slots.any (·.isNone) then .lost else .held []

/-- Firmware's reads of the slots of a work check their words (R321). -/
def noteSlots (s : State) (w : Work) : State :=
  w.lists.foldl (fun s l => match l.commit with
    | none => s
    | some a => [a, a + 64].foldl (fun s a => match tableLookup s w.part a false with
      | .ok row => checkRead s row (1 <<< (a % 512 / 64))
      | _ => s) s) s

/-- The current turn of a list: 0 when it has no valid record. -/
def currentTurn : Slots → Nat
  | .held (r :: _) => crTurn r
  | _ => 0

/-- The common turn (R448): none when commit records are lost. -/
def commonTurn (s : State) (seq : Nat) (w : Work) : Option Nat :=
  let slots := w.lists.map fun l => listSlots s w.part seq l
  if slots.any (· == .lost) then none
  else if slots.any (· == .held []) then some 0
  else match slots.map currentTurn with
    | [] => some 0
    | t :: ts => some (ts.foldl (fun m u => if turnLater m u then u else m) t)

/-- The record of a turn among those of a list. -/
def recordOf (sl : Slots) (turn : Nat) : Option Nat :=
  match sl with
  | .held rs => rs.find? fun r => crTurn r == turn
  | .lost => none

/-! ## Starts and ends of works -/

/-- What starts a list afresh (R325). -/
def freshStart (base seq : Nat) : StartReq :=
  { base := base, entry := 1, l0 := 0, l1 := 0, l2 := 0, l3 := 0, turn := 0, workSeq := seq }

/-- What starts a list from a commit record (R364). -/
def replayStart (base seq r : Nat) : StartReq :=
  { base := base, entry := if fld r 72 24 != 0 then fld r 72 24 else fld r 48 24, l0 := BitVec.ofNat 32 (fld r 192 32),
    l1 := BitVec.ofNat 32 (fld r 224 32), l2 := BitVec.ofNat 32 (fld r 256 32), l3 := BitVec.ofNat 32 (fld r 288 32),
    turn := BitVec.ofNat 32 (crTurn r), workSeq := seq }

def giveStart (s : State) (c : Nat) (r : StartReq) : State := modCore s c fun co => { co with startReq := some r }

/-- A work ends with a status: its cores run no list and its command has its result (R493). -/
def finishWork (s : State) (seq : Nat) (w : Work) (status turn : Nat) (detail : List Byte) : State :=
  let s := if w.st = .running || w.st = .recovering then stopCores s (workCores w) else s
  let s := putWork s seq { w with st := .ended, status := status, turn := some turn, window := none }
  fixResult (ledgerTurn s seq turn) seq status detail

/-- Start every list of a prepared work from its common turn (R448, R451). A list that holds neither the common turn nor a
record to resume from ends the work (R449). A recovery window begins or goes on: every list is to commit one turn (R456). -/
def restartWork (s : State) (seq : Nat) (w : Work) (window : Bool) : State :=
  let s := noteSlots s w
  match commonTurn s seq w with
  | none => finishWork s seq w stFailed turnUnknown (leBytes 4 turnUnknown)
  | some t =>
    let starts := w.lists.map fun l =>
      (l, if t = 0 then some (freshStart l.base seq)
          else (recordOf (listSlots s w.part seq l) t).map (replayStart l.base seq))
    if starts.any fun x => x.2.isNone then finishWork s seq w stFailed t (leBytes 4 t)
    else
      let s := prepareCores s (workCores w)
      let s := starts.foldl (fun s x => match x.2 with
        | some r => giveStart s x.1.core r
        | none => s) s
      let lists := w.lists.map fun l => { l with ended := none, faulted := none }
      let w' : Work := { w with st := .running, turn := some t, lists := lists,
                                window := if window || w.window.isSome then some (w.lists.map (·.place)) else none }
      ledgerState (ledgerTurn (putWork s seq w') seq t) seq 2

/-- A work stops, is prepared and enters the ledger as preempted (R431, R452, R494). A recovery window stays open (R456). -/
def preemptWork (s : State) (seq : Nat) (w : Work) : State :=
  let s := noteSlots (stopCores s (workCores w)) w
  let t := (commonTurn s seq w).getD turnUnknown
  let s := prepareCores s (workCores w)
  let s := putWork s seq { w with st := .preempted, turn := some t }
  ledgerState (ledgerTurn s seq t) seq 3

/-! ## Ends of lists, turns and layers -/

/-- `END_CODE` of the list at the lowest place, and the number of lists (R493). -/
def okDetail (w : Work) : List Byte :=
  let low := w.lists.foldl (fun (m : Nat × Nat) l =>
    if l.place < m.1 then (l.place, match l.ended with
      | some c => c.toNat
      | none => 0) else m) (2 ^ 16, 0)
  leBytes 4 low.2 ++ leBytes 2 w.lists.length

/-- Every list of a work has ended: the work is done. -/
def settleWork (s : State) (seq : Nat) (w : Work) : State :=
  if w.lists.all fun l => l.ended.isSome then
    finishWork s seq w stOk ((commonTurn s seq w).getD turnUnknown) (okDetail w)
  else putWork s seq w

/-- The end entry completes: `LIST_END`, and the core runs no entry (R340). -/
def endDone (s : State) (c e : Nat) : State :=
  let code := fld e 0 32
  let s := pushEvent s c (mkRec s c { code := cListEnd, unit := uSeq, addr := 0, detail := code } (getCore s c).seq.pos 0 true)
  let s := modCore s c fun co =>
    { co with seq := { co.seq with running := false, block := none, issued := [], fetch := [] } }
  match workOf s c with
  | some (k, w) =>
    if (getCore s c).seq.workSeq = k then
      settleWork s k (leaveWindow (modList w c fun l => { l with ended := some (BitVec.ofNat 32 code) }) c)
    else s
  | none => s

/-- END (R340): the hoops close, and once no granted arrival is left the list ends. -/
def execEndList (core : Nat) (s : State) : Out :=
  match blocked (getCore s core) 0 with
  | some b =>
    onCore core (if hoopBusy (getCore s core) (fun _ => true) then .next s else .next (endDone s core b.entry))
  | none =>
    issueAt core 0 s anySel (fun co _ => co.seq.issued.isEmpty) fun idx e =>
      let s := modCore s core fun co => { co with hoops := co.hoops.map fun h => (h.1, { h.2 with isOpen := false }) }
      if hoopBusy (getCore s core) (fun _ => true) then blockOn s core idx e 0 else endDone s core e

/-- TURN_DONE (R361): the record is written and acknowledged, the turn completes and the event is raised; until then the earlier
record is current. Firmware learns the list's commit slots from it (R371) and the recovery window of the list closes (R456). -/
def execTurnDone (core : Nat) (s : State) : Out :=
  onCore core (match blocked (getCore s core) 11 with
    | some b =>
      if b.stage != 2 then .next s
      else
        let q := (getCore s core).seq
        let s := writeCommit s core b
        let r := mkRec s core { code := cTurnDone, unit := uSeq, addr := fld b.entry 0 48, detail := q.turn.toNat } b.idx 0 true
        let s := pushEvent s core r
        let s := match workOf s core with
          | some (k, w) =>
            if q.workSeq = k then
              putWork s k (leaveWindow (modList w core fun l =>
                { l with commit := some (fld b.entry 0 48), listId := q.listId }) core)
            else s
          | none => s
        .next (nextEntry s core)
    | none => .next s)

/-- LAYER_DRAIN_END (R327, R146). -/
def execLayerDrainEnd (core : Nat) (s : State) : Out :=
  onCore core (.next (settleRepro (completeHead s core .press)))

end Sys2Proof.Machine
end

