-- ==== Sys2Proof/Machine/Recovery.lean ====
section
/-! DEFINITION. Fault classes and what follows them (R445 to R459), fencing and spares (R453 to R455), retired links (R457) and
built-in self tests (R462, R463). -/

namespace Sys2Proof.Machine

/-! ## Fencing (R453 step 3) and spares (step 4) -/

/-- A hoop that names the fenced core as its source is marked: its rows that reach the hoop from now on are refused (R258). Its
reduce-adds that are still queued are discarded (R221). -/
def markHoops (c : Nat) (co : Core) : Core :=
  { co with hoops := co.hoops.map fun h =>
              if h.2.srcKind = 0 && h.2.srcCore == some c then (h.1, { h.2 with fenced := true }) else h,
            cq := co.cq.filter fun e => match e.owner with
              | .arrival _ (.local g _ _) => !(g == c)
              | _ => true }

/-- Assay firmware records a core in the fuse map as fenced for life (R463, R465). -/
def recordForLife (s : State) (c : Nat) : State :=
  { s with fuses := { s.fuses with fencedForLife := insNat s.fuses.fencedForLife c } }

/-- Fence a core: its mesh port isolated, its translations revoked, its hoop marks set, its stores and state gone in C3; its error
status is reset only when it leaves C3 (R277, R548). Firmware asks Assay firmware to record one that does not return (R463, log
57). -/
def fenceCore (s : State) (c : Nat) (skim : Bool) : State :=
  let s := { s with
    partLog := s.partLog ++ [(s.refCount.toNat, 2, c)],
    cores := s.cores.map (fun e => (e.1, markHoops c e.2)),
    dies := s.dies.map (fun e => (e.1, { e.2 with transit := e.2.transit.filter fun x => !(x.core == c && x.dieResult.isNone) })),
    partitions := s.partitions.map (fun e => (e.1, { e.2 with places := e.2.places.filter fun p => !(p.2 == c) })) }
  let s := modCore (zeroRows s c fun _ _ => false) c fun co =>
    { coreDomainReset (idleCore co) false with
      spErr := co.spErr, evLost := co.evLost,
      service := .fenced, fencedForSkim := skim, passedAt := none, isolated := true, part := 0, place := 0, startReq := none }
  let s := setPower s (.core c) (Power.reset 3)
  if skim then s else recordForLife s c

/-- The lowest core of a die that meets a condition and that no recovery tests. -/
def lowestCore (s : State) (die : Nat) (ok : Core → Bool) : Option Nat :=
  (coresOf die).find? fun g => ok (getCore s g) && !(s.recoveries.any fun r => r.spare == some g)

/-- The spare for a die: its lowest dark spare, or for a place of a partition a free in-service core of it (R453, R454). -/
def chooseSpare (s : State) (die part : Nat) : Option Nat :=
  match lowestCore s die fun co => co.service == .dark with
  | some g => some g
  | none => if part = 0 then none else lowestCore s die fun co => co.service == .inService && co.part == 0

/-- Take a spare to C1 and begin its short self test; with none the place stays empty and the work ends (R454). -/
def beginSpare (s : State) (r : Recovery) : State :=
  match chooseSpare s (dieOf r.fenced) r.part with
  | some g =>
    let s := modCore (zeroRows s g fun _ _ => false) g fun co => coreDomainReset co false
    setPower { s with recoveries := s.recoveries ++ [{ r with spare := some g }] } (.core g)
      { getPower s (.core g) with st := 1 }
  | none =>
    match r.work.bind fun k => (tget? s.works k).map fun w => (k, w) with
    | some (k, w) =>
      if w.st = .recovering then
        let t := (commonTurn s k w).getD turnUnknown
        finishWork s k w stFailed t (leBytes 4 t)
      else s
    | none => s

/-- Fence a core and bring in a spare for it (R453 steps 3 and 4). The spare of a core of the free pool has no place to take: it joins
the free pool (R33, log 90). A core that was not in service is only fenced. -/
def replaceCore (s : State) (c : Nat) (skim : Bool) (work : Option Nat) : State :=
  let co := getCore s c
  let s := fenceCore s c skim
  if co.service = .inService then
    beginSpare s { fenced := c, part := co.part, place := co.place, spare := none, work := work }
  else s

/-! ## Classes (R445, R446) -/

inductive FaultClass where
  | work | data | part | hard
  deriving DecidableEq, Repr

/-- Dies of a work's cores. -/
def workDies (w : Work) : List Nat := (workCores w).foldl (fun l c => insNat l (dieOf c)) []

/-- Ports by which a work's packets to module `m`, and its responses to it, may leave (R409, R410). -/
def portsToward (s : State) (w : Work) (m : Nat) : List Nat :=
  let e := routeEntry s m
  if rtValid e then (rtPorts e).filter fun k => k < 64 && (getPort s k).part == w.part else []

/-- Ports on a route of the work. -/
def workPorts (s : State) (w : Work) : List Nat := w.peers.flatMap (portsToward s w)

/-- Dies of the controllers that hold the partition's pages. -/
def pageDies (s : State) (w : Work) : List Nat :=
  match getPart s w.part with
  | some p => p.pages.foldl (fun l x => insNat l (stackDie (x.2 / 32768 % 8))) []
  | none => []

/-- The route between two dies crosses a link, in one direction or the other. -/
def routeUses (retired : List Nat) (link a b : Nat) : Bool :=
  (pathLinks (diePath retired a b)).contains link || (pathLinks (diePath retired b a)).contains link

/-- A part that the work uses (R446): a port on a route of it; a link on such a route, between its cores, to its pages or to its
ports; or one of its cores. -/
def usesPart (s : State) (w : Work) (kind n : Nat) : Bool :=
  match kind with
  | 0 => (workPorts s w).contains n
  | 1 =>
    let ends := workDies w ++ pageDies s w ++ (workPorts s w).map bridgeDie
    (workDies w).any fun a => ends.any fun b => routeUses (delNat s.retiredLinks n) n a b
  | _ => (workCores w).contains n

/-- No route is left between two dies, in one direction or the other (R458). -/
def cutOff (s : State) (a b : Nat) : Bool := noRoute s.retiredLinks a b || noRoute s.retiredLinks b a

/-- The work has no route left between two of its cores, from one to a page of its partition, or from one to every port toward a
module that it deals with (R458). -/
def routeLost (s : State) (w : Work) : Bool :=
  (workDies w).any fun a =>
    (workDies w ++ pageDies s w).any (cutOff s a) ||
    w.peers.any fun m =>
      let ports := portsToward s w m
      !ports.isEmpty && ports.all fun k => cutOff s a (bridgeDie k)

/-- The time-out or closed hoop is claimed as a part fault (R446): within the watchdog interval, its ends included. -/
def claimed (s : State) (w : Work) (c : Nat) (r : FaultRec) : Bool :=
  s.partLog.any fun e =>
    e.1 ≤ r.time && r.time ≤ e.1 + 25 * (getCore s c).seq.watchdog && usesPart s w e.2.1 e.2.2

def classOf (s : State) (w : Work) (c : Nat) (r : FaultRec) : FaultClass :=
  if r.code = cEcc || r.code = cPoison then .data
  else if r.code = cSkimFail then .hard
  else if (r.code = cTimeout || r.code = cHoopClosed) && claimed s w c r then .part
  else .work

/-! ## Outcomes -/

/-- The lists of a work that have faulted, each with its record. -/
def noteFaults (s : State) (w : Work) : Work :=
  { w with lists := w.lists.map fun l => match (getCore s l.core).faultRec with
      | some r => { l with faulted := some r }
      | none => l }

/-- The work ends on a work fault (R445, R490), and its fault records go to the event queue (R498). -/
def endFaulted (s : State) (k : Nat) (w : Work) (r : FaultRec) (place : Nat) : State :=
  let t := (commonTurn s k w).getD turnUnknown
  let n := (w.lists.filter fun l => l.faulted.isSome).length
  let s := w.lists.foldl (fun s l => match l.faulted with
    | some q => queueRec s q l.place w.part
    | none => s) s
  finishWork s k w stFaulted t
    (leBytes 1 r.code ++ leBytes 1 r.unit ++ leBytes 2 place ++ leBytes 4 r.entry ++ leBytes 2 n)

/-- The work ends on a second fault within its recovery window (R459). -/
def endAbandoned (s : State) (k : Nat) (w : Work) (code : Nat) : State :=
  let t := (commonTurn s k w).getD turnUnknown
  finishWork s k w stAbandoned t (leBytes 4 t ++ leBytes 1 code)

def endFailed (s : State) (k : Nat) (w : Work) : State :=
  let t := (commonTurn s k w).getD turnUnknown
  finishWork s k w stFailed t (leBytes 4 t)

/-- A fault now falls within the work's recovery window (R456, R459). -/
def inWindow (w : Work) : Bool := w.window.isSome || w.st == .recovering

/-- The work is replayed on its own cores: in legacy mode it ends instead (R507), and one that deals with other modules is left
to the host (R452). -/
def replayWork (s : State) (k : Nat) (w : Work) : State :=
  if s.legacy then endFailed s k w
  else if !w.peers.isEmpty then preemptWork s k { w with window := some (w.lists.map (·.place)) }
  else restartWork (stopCores (ledgerState s k 4) (workCores w)) k w true

/-- A hard fault of a core of a work: the other lists stop, the core is fenced, and a spare is begun; in legacy mode the work
ends (R453, R507). Records that the stop of the core brought about on the others are settled with it. -/
def hardInWork (s : State) (k : Nat) (w : Work) (c : Nat) (skim : Bool) : State :=
  let s := stopCores (ledgerState s k 4) (workCores w)
  let s := (workCores w).foldl (fun s g => modCore s g fun co => { co with faultRec := none }) s
  let s := if s.legacy then endFailed s k w else putWork s k { w with st := .recovering }
  replaceCore s c skim (some k)

/-- Fault records of a work's cores that are not classed yet. -/
def pendingRecs (s : State) (w : Work) : List (Nat × FaultRec) :=
  w.lists.filterMap fun l => (getCore s l.core).faultRec.map fun r => (l.core, r)

/-- The record that came first. -/
def firstRec (x : Nat × FaultRec) (l : List (Nat × FaultRec)) : Nat × FaultRec :=
  l.foldl (fun a b => if b.2.time < a.2.time then b else a) x

/-- A closed hoop or a time-out that a fault's own stop may have brought about is no independent fault (R459; log 57). -/
def followsFrom (first r : FaultRec) : Bool := (r.code == cTimeout || r.code == cHoopClosed) && first.time ≤ r.time

/-- Place of a core in a work. -/
def placeIn (w : Work) (c : Nat) : Nat :=
  match w.lists.find? fun l => l.core == c with
  | some l => l.place
  | none => 0

/-- The outcome for a work, outside a recovery window, of a fault of class `cls` on core `c` (R445). -/
def actOnWork (s : State) (k : Nat) (w : Work) (c : Nat) (r : FaultRec) (cls : FaultClass) (skim : Bool) : State :=
  match cls with
  | .work => endFaulted s k w r (placeIn w c)
  | .data => replayWork s k w
  | .part => replayWork s k w
  | .hard => hardInWork s k w c skim

/-- Firmware acts on a fault of core `c`; `hard` when it classes the core itself as failed. The record of its work that came first
decides. A recovery window runs from that record on, so an independent further one ends the work (R456, R459). A hard fault of a core
that runs no work takes steps 3 to 5 of R453 alone. -/
def actOn (s : State) (c : Nat) (r : FaultRec) (hard skim : Bool) : State :=
  let clear := fun (s : State) => modCore s c fun co => { co with faultRec := none }
  match workOf s c with
  | none => settleRepro (if hard then replaceCore (clear s) c skim none else clear s)
  | some (k, w) =>
    let recs := pendingRecs s w
    let first := if hard then (c, r) else firstRec (c, r) recs
    let cls := if hard then .hard else classOf s w first.1 first.2
    let second := recs.find? fun x => x.1 != first.1 && !(followsFrom first.2 x.2)
    let w := noteFaults s w
    let s := clear (putWork s k w)
    let aside := fun (s : State) => if hard || w.replaced.contains c then replaceCore s c skim none else s
    if inWindow w then aside (endAbandoned s k w r.code)
    else match (if cls = .work then none else second) with
      | some x => aside (endAbandoned s k w x.2.code)
      | none => actOnWork s k w first.1 first.2 cls (if first.1 = c then skim else first.2.code == cSkimFail)

/-- A work ends because it has lost a die, a stack or every route (R458). -/
def failWorks (s : State) (lost : Work → Bool) : State :=
  s.works.foldl (fun s e => match tget? s.works e.1 with
    | some w => if (w.st = .running || w.st = .recovering) && lost w then endFailed s e.1 w else s
    | none => s) s

/-- The record that stands for a condition reported without one. -/
def noRecord (s : State) : FaultRec := fwRec s 0 0 0

/-- FAULT_CLASSIFY (R445). A record of a fenced core is discarded (R459). A failed hub stops every work, whose ledger entry stands
(R458). -/
def execFaultClassify (source : FaultSource) (s : State) : Out :=
  match source with
  | .record c =>
    onCore c (
      let co := getCore s c
      match co.faultRec with
      | none => .next s
      | some r =>
        if co.service = .fenced then .next (setCore s c { co with faultRec := none })
        else .next (actOn s c r (r.code == cSkimFail) (r.code == cSkimFail)))
  | .checkError c =>
    onCore c (
      let co := getCore s c
      if co.service = .fenced then .next s
      else .next (actOn s c (co.faultRec.getD (noRecord s)) true (decide (recent co.skimFails dayTicks ≥ 3))))
  | .spareExhausted c =>
    onCore c (
      let co := getCore s c
      if co.service = .fenced || !co.spErr.spareExhausted then .next s
      else .next (actOn s c (co.faultRec.getD (noRecord s)) true false))
  | .hubFailed => .next (s.works.foldl (fun s e =>
      if e.2.st = .running || e.2.st = .recovering then stopCores s (workCores e.2) else s) s)
  | .dieFailed d =>
    onDie d (.next (failWorks s fun w => (workCores w).any fun c => dieOf c == d))
  | .stackFailed k =>
    onStack k (
      let s := modStack s k fun x => { x with failed := true }
      .next (failWorks s fun w => match getPart s w.part with
        | some p => p.pages.any fun e => e.2 / 32768 == k
        | none => false))

/-! ## Steps 5 to 7 of R453 -/

/-- A spare joins the free pool in place of a core of it (R33, log 90). -/
def freeSpare (s : State) (g : Nat) : State := modCore s g fun co => { co with service := .inService, isolated := false }

/-- The spare takes the place: translated by the partition, named by its hoops, every CTU cache of it invalid (R32, R249, R453
step 5). The partition's standing vote holds it in C1 (R522). -/
def mapSpare (s : State) (r : Recovery) (g : Nat) : State :=
  let s := modPart s r.part fun p => { p with places := tput p.places r.place g }
  let s := modCore s g fun co =>
    { co with service := .inService, isolated := false, part := r.part, place := r.place,
              retain := match getPart s r.part with
                | some p => tget p.retain r.place 0
                | none => 0 }
  let s := modPower s (.core g) fun p => { p with votes := tput p.votes (0x10 + r.part) 1 }
  { s with cores := s.cores.map fun e =>
      if e.2.part = r.part then
        (e.1, { e.2 with ctu := [], hoops := e.2.hoops.map fun h =>
          if h.2.srcKind = 0 && h.2.src = r.place then (h.1, { h.2 with srcCore := some g, fenced := false }) else h })
      else e }

/-- The work goes on with the spare in place of the fenced core (R453 steps 6 and 7, R452). Rows of the fenced core that die reducers
hold go with those of the work's other cores (R451 step 4). -/
def resumeOn (s : State) (k : Nat) (w : Work) (r : Recovery) (g : Nat) : State :=
  let s := { s with dies := s.dies.map fun e => (e.1, discardRows [r.fenced] e.2) }
  let w := { w with replaced := w.replaced ++ [g],
                    lists := w.lists.map fun l => if l.core == r.fenced then { l with core := g } else l }
  if !w.peers.isEmpty then preemptWork s k { w with window := some (w.lists.map (·.place)) } else restartWork s k w true

/-- SPARE_SELF_TEST_DONE (R453): a spare that fails is fenced, and the next one is tried (R454). -/
def execSpareSelfTestDone (core : Nat) (pass : Bool) (s : State) : Out :=
  onCore core (match s.recoveries.find? fun r => r.spare == some core with
    | none => .next s
    | some r =>
      let s := { s with recoveries := s.recoveries.filter fun x => !(x == r) }
      if !pass then .next (beginSpare (fenceCore s core false) { r with spare := none })
      else
        let s := if r.part = 0 then freeSpare s core else mapSpare s r core
        match r.work.bind fun k => (tget? s.works k).map fun w => (k, w) with
        | some (k, w) => if w.st = .recovering then .next (resumeOn s k w r core) else .next s
        | none => .next s)

/-! ## Retired links (R30, R457, R458) -/

/-- The route from die `a` to die `b` crosses the link. -/
def crosses (s : State) (link a b : Nat) : Bool := (pathLinks (diePath s.retiredLinks a b)).contains link

/-- Die that an arrival set out from. -/
def arrivalDie (s : State) (a : Arrival) : Nat :=
  match a.sender with
  | .local g _ _ => dieOf g
  | .packet k => match tget? s.rxTracks k with
    | some t => bridgeDie t.port
    | none => 0
  | .reduction g => dieOf g

/-- An arrival at a core is on the link. -/
def arrivalOn (s : State) (link core : Nat) (a : Arrival) : Bool := crosses s link (arrivalDie s a) (dieOf core)

/-- A die result on its way to the reducer of its root die is on the link (R118). -/
def resultOn (s : State) (link die : Nat) (x : Contribution) : Bool :=
  match x.dieResult with
  | some r => crosses s link r.1 die
  | none => false

/-- Cores whose rows were on the link when it was retired: of a packet's row, the core that it was for. -/
def rowsOnLink (s : State) (link : Nat) : List Nat :=
  (s.cores.flatMap fun e => (e.2.inbound.filter (arrivalOn s link e.1)).map fun a => match a.sender with
    | .local g _ _ => g
    | .reduction g => g
    | .packet _ => e.1) ++
  s.dies.flatMap fun e => (e.2.transit.filter (resultOn s link e.1)).flatMap fun x => match x.dieResult with
    | some r => r.2
    | none => []

/-- Packets with a row on the link: they draw no response, and no longer hold their channel (R404). -/
def tracksOnLink (s : State) (link : Nat) : List Nat :=
  s.cores.flatMap fun e => (e.2.inbound.filter (arrivalOn s link e.1)).filterMap fun a => match a.sender with
    | .packet k => some k
    | _ => none

/-- LINK_RETIRE (R457): rows on the link are lost, traffic takes the other order (R30), every work with a row on it takes a part
fault, and a work left with no route ends (R458). -/
def execLinkRetire (link : Nat) (s : State) : Out :=
  if 24 ≤ link then .fault .noSuchPart
  else if s.retiredLinks.contains link then .next s
  else
    let hit := rowsOnLink s link
    let cores := s.cores.map fun (e : Nat × Core) =>
      (e.1, { e.2 with inbound := e.2.inbound.filter fun a => !(arrivalOn s link e.1 a) })
    let dies := s.dies.map fun (e : Nat × Die) => (e.1, { e.2 with transit := e.2.transit.filter fun x => !(resultOn s link e.1 x) })
    let s := { s with cores := cores, dies := dies, rxTracks := (tracksOnLink s link).foldl tdel s.rxTracks }
    let s := { s with retiredLinks := insNat s.retiredLinks link,
                      partLog := s.partLog ++ [(s.refCount.toNat, 1, link)] }
    let s := failWorks s (routeLost s)
    .next (s.works.foldl (fun s e => match tget? s.works e.1 with
      | some w =>
        if w.st = .running && (workCores w).any (fun c => hit.contains c) then
          (if inWindow w then endAbandoned s e.1 w 0 else replayWork s e.1 w)
        else s
      | none => s) s)

/-! ## Built-in self tests (R462, R463) -/

/-- The result of a run_test command on a part is fixed (R491): `HW_FAIL` names the part. -/
def testResult (s : State) (kind index : Nat) (pass : Bool) : State :=
  s.cmds.foldl (fun s e =>
    if cmdOpcode e.2.bytes = 0x70 && e.2.begun && e.2.result.isNone && numAt e.2.bytes 16 1 = kind && numAt e.2.bytes 18 2 = index
    then (if pass then fixResult s e.1 stOk [] else fixResult s e.1 stHwFail (leBytes 4 index)) else s) s

/-- A core after a built-in self test: a fenced one returns to the dark spares when it was fenced for a failed rail switch and
has passed twice (R463); a dark one that fails is fenced (R445). -/
def afterTest (s : State) (c : Nat) (pass : Bool) : State :=
  let co := getCore s c
  let s := modCore (zeroRows s c fun _ _ => false) c fun co => { co with testing := false }
  if co.service = .dark then (if pass then s else fenceCore s c false)
  else if co.service = .fenced then
    let now := s.refCount.toNat
    let again := match co.passedAt with
      | some t => decide (t + dayTicks ≤ now)
      | none => false
    let s := if pass then s else recordForLife s c
    modCore s c fun co =>
      if !pass then { co with passedAt := none, fencedForSkim := false }
      else if co.fencedForSkim && again then { co with service := .dark, passedAt := none, fencedForSkim := false }
      else { co with passedAt := some (co.passedAt.getD now) }
  else s

/-- CORE_SELF_TEST_DONE (R462). -/
def execCoreSelfTestDone (core : Nat) (pass : Bool) (s : State) : Out :=
  onCore core (
    if (getCore s core).testing then .next (testResult (afterTest s core pass) 0 core pass) else .next s)

/-- DARK_SPARE_DAILY_TEST (R462). -/
def execDarkSpareDailyTest (core : Nat) (s : State) : Out :=
  onCore core (
    let co := getCore s core
    if co.service = .dark && !(s.recoveries.any fun r => r.spare == some core) then
      .next (setCore s core { co with testing := true, isolated := true })
    else .next s)

end Sys2Proof.Machine
end

