-- ==== Sys2Proof/Machine/Regulators.lean ====
section
/-! DEFINITION. The operating point of a compute die: what it should run at (R512), and the changes of frequency and voltage that
take it there (R513, R514). -/

namespace Sys2Proof.Machine

/-- The point that the votes and the ceiling ask for (R512). -/
def desiredPoint (f : Fuses) (p : DiePower) : Nat :=
  let want := match p.pointVotes with
    | [] => nominalPoint f.bin
    | v :: vs => vs.foldl (fun m x => fastest m x.2) v.2
  slowest want (ceilingOf f p)

/-- The clocks switch to the standby PLL, and the other relocks as the new standby (R513). -/
def switchTo (p : DiePower) (t : Nat) : DiePower :=
  { p with point := t, target := t, active := t, standby := slower t, locking := true, inChange := p.mv != pointMv t }

/-- A new target replaces the old (R514): a step that the locked standby PLL already holds is made at once when it is downward, and
otherwise the standby PLL is retargeted; a target at the present point abandons an upward change. -/
def aimAt (p : DiePower) (t : Nat) : DiePower :=
  if t = p.point then
    { p with target := t, standby := slower t, locking := p.locking || p.standby != slower t, inChange := p.mv != pointMv t }
  else if p.standby = t && !p.locking && speedRank p.point < speedRank t then switchTo p t
  else { p with target := t, standby := t, locking := p.locking || p.standby != t, inChange := true }

/-- A change of votes or ceilings reaches a die that is up. -/
def retarget (s : State) (d : Nat) : State :=
  if dieUp s d then modDie s d fun x => { x with power := aimAt x.power (desiredPoint s.fuses x.power) } else s

/-- The standby PLL locks: the switch is made, upward only once the voltage is there (R514). -/
def lockPll (p : DiePower) : DiePower :=
  let p := { p with locking := false }
  if p.target != p.point && p.standby = p.target && pointMv p.target ≤ p.mv then switchTo p p.target else p

/-- The regulators report the target voltage (R514). -/
def reachVoltage (p : DiePower) : DiePower :=
  let p := { p with mv := pointMv p.target }
  if p.target != p.point && p.standby = p.target && !p.locking then switchTo p p.target
  else { p with inChange := p.target != p.point }

/-- The regulators move the voltage toward a target: upward before the switch, downward only after it (R514). -/
def voltageMoves (p : DiePower) : Bool :=
  p.mv != pointMv p.target && (p.mv < pointMv p.target || p.target = p.point)

/-- A die wakes at the point its votes and ceiling ask for (R534). -/
def wakePoint (f : Fuses) (p : DiePower) : DiePower :=
  let t := desiredPoint f p
  { p with point := t, target := t, mv := pointMv t, active := t, standby := slower t, locking := true, inChange := false }

/-- PLL_LOCK (R513). -/
def execPllLock (die : Nat) (s : State) : Out :=
  onDie die (
    if dieUp s die && (getDie s die).power.locking then .next (modDie s die fun x => { x with power := lockPll x.power })
    else .next s)

/-- VOLTAGE_REACHED (R514). -/
def execVoltageReached (die : Nat) (s : State) : Out :=
  onDie die (
    if dieUp s die && voltageMoves (getDie s die).power then .next (modDie s die fun x => { x with power := reachVoltage x.power })
    else .next s)

/-! ## The skim rail (R133) -/

/-- SKIM_RAIL_SET (R133): from 480 to 600 mV in steps of 20 mV. -/
def execSkimRailSet (die mv : Nat) (s : State) : Out :=
  onDie die (
    if 480 ≤ mv && mv ≤ 600 && mv % 20 = 0 then .next (modDie s die fun x => { x with skimMv := mv, skimSettling := true })
    else .next s)

/-- SKIM_RAIL_SETTLED (R133). -/
def execSkimRailSettled (die : Nat) (s : State) : Out :=
  onDie die (.next (modDie s die fun x => { x with skimSettling := false }))

end Sys2Proof.Machine
end

