-- ==== Sys2Proof/Machine/Wake.lean ====
section
/-! DEFINITION. Domains coming up (R516, R528, R530, R548): what a core, a compute die and a photonic die hold once they have
left a state in which they were down, and the pads that this releases. -/

namespace Sys2Proof.Machine

/-- The domain is in a shallower state with no entry or wake left. -/
def settled (p : Power) (st : Nat) : Power := { p with st := st, entry := none, waking := false, stalled := [] }

/-- The state that an entry past its point of no return reaches, before the domain wakes again (R526, R527). -/
def committedTo (p : Power) : Option Nat :=
  match p.entry with
  | some e => if e.committed then some e.target else none
  | none => none

/-- A core leaves C2 or C3 for C1: its domain is reset and every row that did not keep its contents is zero, with valid check bits
and no mark (R261, R262, R548). -/
def coreUp (s : State) (c : Nat) : State :=
  let p := getPower s (.core c)
  let gone := committedTo p
  let st := gone.getD p.st
  let s := match gone with
    | some t => coreDown s c t
    | none => s
  if st < 2 then setPower s (.core c) { p with entry := none }
  else
    let keep := (getCore s c).napRetain
    let s := modCore (zeroRows s c fun store r => st == 2 && store == 0 && keep.getLsbD (bankOf 0 r)) c fun co =>
      coreDomainReset co (st == 2)
    setPower s (.core c) (settled p 1)

/-- Pads that the last step of a wake releases: the die's HBM pads, and those of links whose two ends are up (R530). -/
def releasePads (s : State) (d : Nat) : State :=
  { s with pads := { s.pads with
      hbm := delNat s.pads.hbm d, ucie := s.pads.ucie.filter fun x => !(dieUp s x.1 && dieUp s x.2) } }

/-- A compute die that leaves D3 is reset (R548). -/
def dieDomainReset (d : Die) : Die := { d with sets := [], transit := [], routeCache := [] }

/-- The stack of a die's controller leaves self refresh. -/
def stackUp (s : State) (d : Nat) : State :=
  (List.range Config.nStacks).foldl (fun s k =>
    if stackDie k = d then modStack s k fun x => { x with selfRefresh := false } else s) s

/-- A compute die leaves D2 or D3. -/
def dieWake (s : State) (d : Nat) : State :=
  let p := getPower s (.die d)
  let st := (committedTo p).getD p.st
  if st < 2 then setPower s (.die d) { p with entry := none }
  else
    let s := if st = 3 then modDie s d dieDomainReset else s
    let s := modDie s d fun x => { x with power := wakePoint s.fuses x.power }
    releasePads (stackUp (setPower s (.die d) (settled p 1)) d) d

/-- A port of a photonic die that leaves off: what links hold is reset, and the port is `DARK` (R421); bindings, policies and keys,
with the record counters that belong to them, are firmware's and Assay's (R548, log 94). -/
def portDomainReset (p : Port) : Port :=
  { Port.reset with part := p.part, forwarding := p.forwarding, policy := p.policy, encWanted := p.encWanted,
                    keyCur := p.keyCur, keyRx := p.keyRx, keyNext := p.keyNext, keyTxAt := p.keyTxAt,
                    keyRxAt := p.keyRxAt, txRecord := p.txRecord, rxRecord := p.rxRecord }

/-- A photonic die leaves off (R516). -/
def photonicUp (s : State) (k : Nat) : State :=
  let p := getPower s (.photonic k)
  if p.st = 0 then s
  else setPower ((portsOfPd k).foldl (fun s i => modPort s i portDomainReset) s) (.photonic k) (settled p 0)

/-- A core and its die are up, as an access by firmware leaves them (R528). -/
def coreAwake (s : State) (c : Nat) : State := coreUp (dieWake s (dieOf c)) c

end Sys2Proof.Machine
end

