-- ==== Sys2Proof/Machine/Records.lean ====
section
/-! DEFINITION. Resource records (R492), and the resources that releases and moves in progress lock (R432 step 1, R438). -/

namespace Sys2Proof.Machine

/-! ## Resource records (R492) -/

def recKind (r : Nat) : Nat := fld r 60 4
def recPlace (r : Nat) : Nat := fld r 32 10
def recCore (r : Nat) : Nat := fld r 0 10
def recPage (r : Nat) : Nat := fld r 32 25
def recPhys (r : Nat) : Nat := fld r 0 18
def recPort (r : Nat) : Nat := fld r 0 6
def recUnit (r : Nat) : Nat := fld r 8 4
def recGrains (r : Nat) : Nat := fld r 0 8
def recWatts (r : Nat) : Nat := fld r 0 12
def recMask (r : Nat) : Half := BitVec.ofNat 16 r
def recHostPage (r : Nat) : Nat := fld r 0 31

/-- Bits that a kind uses, below its kind field. -/
def recUsed (kind : Nat) : Nat :=
  match kind with
  | 0 => (0x3FF <<< 32) + 0x3FF
  | 1 => (0x1FFFFFF <<< 32) + 0x3FFFF
  | 2 => 0x7F
  | 3 => 0x7FF
  | 4 => 0xFFF
  | 5 => 0xFFF
  | 6 => (0x3FF <<< 32) + 0xFFFF
  | _ => (0x7FFFFFF <<< 32) + 0x7FFFFFFF

/-- A record with a refused encoding: an unknown kind, a bit set that its kind does not use, or a host page to bind with no
permission. -/
def recMalformed (bind : Bool) (r : Nat) : Bool :=
  recKind r > 7 || clearBits (r % 2 ^ 60) (recUsed (recKind r)) != 0 || (bind && recKind r == 7 && fld r 57 2 == 0)

/-- The records of a resource list in host memory. -/
def readRecords (s : State) (bs : List Byte) : List Nat :=
  let a := numAt bs 16 8
  (List.range (numAt bs 24 4 / 8)).map fun i => leNat (hostRead s (a + 8 * i) 8)

/-! ## Locks (R432 step 1, R438) -/

/-- What a list of records locks: cores (0), pages (1), ports (2), and of each partition named the places (10), page numbers (11),
host page numbers (12), grains of a controller (13) and of a die (14), and power (15). A bind takes grains and power that are free
and locks none. -/
def locksOf (s : State) (bind : Bool) (part : Nat) (recv : Option Nat) (recs : List Nat) : List (Nat × Nat × Nat) :=
  recs.flatMap fun r =>
    let p := (getPart s part).getD (Partition.empty 0)
    let both := fun (k n : Nat) => (k, part, n) :: (recv.toList.map fun q => (k, q, n))
    match recKind r with
    | 0 => (if bind then [(0, recCore r, 0)] else (tget? p.places (recPlace r)).toList.map fun g => (0, g, 0)) ++
        both 10 (recPlace r)
    | 1 => (if bind then [(1, recPhys r, 0)] else (tget? p.pages (recPage r)).toList.map fun g => (1, g, 0)) ++
        both 11 (recPage r)
    | 2 => [(2, recPort r, 0)]
    | 3 => if bind then [] else both 13 (recUnit r)
    | 4 => if bind then [] else both 14 (recUnit r)
    | 5 => if bind then [] else both 15 0
    | 6 => both 10 (recPlace r)
    | _ => both 12 (recPage r)

/-- Releasing and receiving partition of a release or move. -/
def recvOf (bs : List Byte) : Option Nat := if cmdOpcode bs = 0x14 then some (numAt bs 29 1) else none

/-- Locks that releases and moves in progress hold. -/
def heldLocks (s : State) : List (Nat × Nat × Nat) :=
  s.cmds.flatMap fun e =>
    if e.2.draining then locksOf s false (cmdPart e.2.bytes) (recvOf e.2.bytes) e.2.records else []

def anyLocked (s : State) (ks : List (Nat × Nat × Nat)) : Bool := let held := heldLocks s; ks.any fun k => held.contains k

/-- A release or move in progress names the core. -/
def coreLocked (s : State) (g : Nat) : Bool := anyLocked s [(0, g, 0)]

/-- A release or move in progress names the port. -/
def portLocked (s : State) (k : Nat) : Bool := anyLocked s [(2, k, 0)]

/-- A release or move in progress names one of these page numbers of a partition. -/
def pagesLocked (s : State) (part : Nat) (ks : List Nat) : Bool := anyLocked s (ks.map fun k => (11, part, k))

end Sys2Proof.Machine
end

