-- ==== Sys2Proof/Machine/Power.lean ====
section
/-! DEFINITION. Votes and wakes (R519 to R528), power limits (R539), temperature (R540, R541), coolant (R542) and regulator phases
(R535 to R538). -/

namespace Sys2Proof.Machine

/-! ## Wakes (R519, R526 to R528) -/

/-- IDs of R519. -/
def wakeId : WakeSource → Nat
  | .host => 0x00
  | .firmware => 0x01
  | .assay => 0x02
  | .linkManager => 0x03
  | .debug => 0x04
  | .partition p => 0x10 + p
  | .smbus => 0x80
  | .alarm => 0x81
  | .perst => 0x82

/-- The domain is one of the module (R516); else the command names no part. -/
def onDomain (d : Domain) (o : Out) : Out :=
  match d with
  | .core c => onCore c o
  | .die k => onDie k o
  | .photonic k => onPd k o
  | .module => o

/-- Shallowest state in which a domain must be woken. -/
def sleepState : Domain → Nat
  | .photonic _ => 1
  | _ => 2

/-- The wake latch: the first source and a count (R527). -/
def latchWake (l : Option (Nat × Nat)) (id : Nat) : Option (Nat × Nat) :=
  match l with
  | none => some (id, 1)
  | some (i, n) => some (i, n + 1)

/-- A wake event reaches a domain: it abandons an entry before its point of no return, is latched after it, joins a wake that runs,
or begins one. A domain that is up is not woken. -/
def wakeEvent (s : State) (d : Domain) (src : WakeSource) : State :=
  modPower s d fun p =>
    match p.entry with
    | some e =>
      if e.committed then { p with latch := latchWake p.latch (wakeId src) }
      else { p with entry := none, aborts := satInc 16 p.aborts, lastAborter := wakeId src }
    | none =>
      if p.waking then { p with stalled := p.stalled ++ [src] }
      else if sleepState d ≤ p.st then { p with waking := true, stalled := p.stalled ++ [src] }
      else p

/-- The dies on the way from the hub to a die (R38, R528). -/
def wakeRoute (s : State) (d : Nat) : List Nat := diePath s.retiredLinks (hubDie d) d

/-- ACCESS_WAKE (R528): the target, its die and the dies on the route wake; further accesses stall with the first. -/
def execAccessWake (dom : Domain) (src : WakeSource) (s : State) : Out :=
  match dom with
  | .core c => onCore c (.next (wakeEvent ((wakeRoute s (dieOf c)).foldl (fun s d => wakeEvent s (.die d) src) s) (.core c) src))
  | .die d => onDie d (.next ((wakeRoute s d).foldl (fun s d => wakeEvent s (.die d) src) s))
  | .photonic k => onPd k (.next (wakeEvent s (.photonic k) src))
  | .module => .next (wakeEvent s .module src)

/-! ## Votes (R520 to R523) -/

/-- A client's vote for a domain changes: a deeper request that another vote keeps from happening is refused and counted, and a
permitted state that has become shallower is a wake. -/
def setVote (s : State) (d : Domain) (src : WakeSource) (v : Option Nat) : State :=
  let id := wakeId src
  let p := getPower s d
  let old := (tget? p.votes id).getD (domainState s d)
  let new := v.getD (deepest d)
  let s := setPower s d { p with votes := match v with
    | some x => tput p.votes id x
    | none => tdel p.votes id }
  let block := ((allVotes s d).filter fun x => x.1 != id && x.2 < new).map (·.1)
  let s := match (if old < new then block else []) with
    | [] => s
    | b :: bs => modPower s d fun p => { p with refusals := satInc 16 p.refusals, lastRefuser := bs.foldl min b }
  let p := getPower s d
  let going := match p.entry with
    | some e => e.target
    | none => p.st
  if permitted s d < going then wakeEvent s d src else s

/-- The client of set_power_vote (R521). -/
def voteClient (bs : List Byte) : WakeSource := if cmdPart bs = 0 then .host else .partition (cmdPart bs)

def voteKind (bs : List Byte) : Nat := fld (numAt bs 16 2) 12 4
def voteIndex (bs : List Byte) : Nat := fld (numAt bs 16 2) 0 10
def voteState (bs : List Byte) : Nat := numAt bs 18 1

def isVote (k : Nat) (bs : List Byte) : Bool := voteKind bs == k && voteState bs != 0xFF
def isWithdraw (bs : List Byte) : Bool := voteState bs == 0xFF

/-- A partition votes only for its cores, and for the dies that hold them (R521). -/
def mayVote (s : State) (bs : List Byte) : Bool :=
  if cmdPart bs = 0 then true
  else match getPart s (cmdPart bs) with
    | none => false
    | some p =>
      match voteKind bs with
      | 0 => (partCores p).contains (voteIndex bs)
      | 1 => (partCores p).any fun g => dieOf g == voteIndex bs % 16
      | 4 => (partCores p).any fun g => dieOf g == voteIndex bs % 16
      | _ => false

def voteDomain (bs : List Byte) : Domain :=
  match voteKind bs with
  | 0 => .core (voteIndex bs)
  | 1 => .die (voteIndex bs % 16)
  | 2 => .photonic (voteIndex bs % 4)
  | _ => .module

/-- A vote for an operating point: the die follows it (R512). -/
def setPointVote (s : State) (d id : Nat) (v : Option Nat) : State :=
  let s := modDie s d fun x => { x with power := { x.power with pointVotes := match v with
    | some p => tput x.power.pointVotes id p
    | none => tdel x.power.pointVotes id } }
  retarget s d

/-- A vote that its client may give is recorded; one for a core that a release or move locks waits (R438). The entry of the
command itself does not keep the module up (R531): its result is fixed first. -/
def castVote (s : State) (seq : Nat) (bs : List Byte) (v : Option Nat) : State :=
  if voteKind bs = 0 && coreLocked s (voteIndex bs) then s
  else if !(mayVote s bs) then refusePerm s seq 0 0
  else if voteKind bs = 4 then fixResult (setPointVote s (voteIndex bs % 16) (wakeId (voteClient bs)) v) seq stOk []
  else setVote (fixResult s seq stOk []) (voteDomain bs) (voteClient bs) v

/-- VOTE_CORE_STATE (R521): 0 is taken as 1. -/
def execVoteCoreState (seq : Nat) (s : State) : Out :=
  runCmd s seq 0x51 (isVote 0) fun bs => castVote s seq bs (some (max 1 (voteState bs)))

/-- VOTE_DIE_STATE (R521). -/
def execVoteDieState (seq : Nat) (s : State) : Out := runCmd s seq 0x51 (isVote 1) fun bs => castVote s seq bs (some (voteState bs))

/-- VOTE_PHOTONIC_STATE (R521). -/
def execVotePhotonicState (seq : Nat) (s : State) : Out :=
  runCmd s seq 0x51 (isVote 2) fun bs => castVote s seq bs (some (voteState bs))

/-- VOTE_MODULE_STATE (R521). -/
def execVoteModuleState (seq : Nat) (s : State) : Out :=
  runCmd s seq 0x51 (isVote 3) fun bs => castVote s seq bs (some (voteState bs))

/-- VOTE_OPERATING_POINT (R521). -/
def execVoteOperatingPoint (seq : Nat) (s : State) : Out :=
  runCmd s seq 0x51 (isVote 4) fun bs => castVote s seq bs (some (voteState bs))

/-- VOTE_WITHDRAW (R521). -/
def execVoteWithdraw (seq : Nat) (s : State) : Out := runCmd s seq 0x51 isWithdraw fun bs => castVote s seq bs none

/-! ## Ceilings -/

/-- Every compute die. -/
def eachDie (s : State) (f : State → Nat → State) : State := (List.range Config.nDies).foldl f s

/-- A ceiling one point slower, counted from the bin ceiling when it is not set. -/
def dropCeil (f : Fuses) (c : Option Nat) : Option Nat := some (slower (c.getD (binCeiling f.bin)))

/-- A ceiling one point faster; at the bin ceiling it is no longer set. -/
def riseCeil (f : Fuses) (c : Option Nat) : Option Nat :=
  match c with
  | none => none
  | some x => if speedRank (faster x) ≤ speedRank (binCeiling f.bin) then none else some (faster x)

/-- A power alarm: its flag of `ALARM_STATUS` and its record in the event queue (R547, R589). -/
def powerAlarm (s : State) (bit code detail : Nat) : State := queueRec (raiseAlarm s bit) (fwRec s code 0 detail) 0 0

/-! ## Input power (R539) -/

/-- INPUT_POWER_SAMPLE (R539): the sample and the averages that the hub forms of its samples. -/
def execInputPowerSample (watts avg100 avg1ms avg10ms : Nat) (s : State) : Out :=
  if hubOn s then .next { s with meter := { watts := watts, avg100 := avg100, avg1ms := avg1ms, avg10ms := avg10ms } }
  else .next s

/-- The power ceiling of every compute die steps one point down, to no lower than P4. -/
def capStep (s : State) : State :=
  if (getDie s 0).power.powerCeil = some 4 then s
  else
    let s := eachDie s fun s d => retarget (modDie s d fun x => { x with power :=
      { x.power with powerCeil := dropCeil s.fuses x.power.powerCeil, powerCapped := true,
                     powerCapCount := satInc 32 x.power.powerCapCount } }) d
    powerAlarm s alPowerCapped cPowerCap
      (s.meter.avg100 % 2 ^ 16 + (((getDie s 0).power.powerCeil.getD (binCeiling s.fuses.bin)) <<< 16))

/-- POWER_TRANSIENT_STEP (R539): the 100 µs average is above 3,400 W. -/
def execPowerTransientStep (s : State) : Out := if s.meter.avg100 > s.assay.transient then .next (capStep s) else .next s

/-- POWER_SUSTAINED_STEP (R539): the 10 ms average is above the sustained limit, or, after a step, the 1 ms average is not below
it. -/
def execPowerSustainedStep (s : State) : Out :=
  if s.meter.avg10ms > s.assay.sustained || ((getDie s 0).power.powerCeil.isSome && s.meter.avg1ms ≥ s.assay.sustained)
  then .next (capStep s) else .next s

/-- POWER_CEILING_RISE (R539): the 10 ms average is at or below 95 % of the sustained limit. -/
def execPowerCeilingRise (s : State) : Out :=
  if 100 * s.meter.avg10ms ≤ 95 * s.assay.sustained then
    .next (eachDie s fun s d => retarget (modDie s d fun x => { x with power :=
      { x.power with powerCeil := riseCeil s.fuses x.power.powerCeil } }) d)
  else .next s

/-! ## Temperature (R540, R541) -/

/-- The first sensor at or above a temperature, and its reading. -/
def hotSensor (tp : Nat) (ts : List Nat) : Option (Nat × Nat) := (ts.zipIdx.find? fun x => tp ≤ x.1).map fun x => (x.2, x.1)

/-- The thermal ceiling of a die steps one point down, to no lower than P4. -/
def throttleStep (s : State) (d : Nat) (h : Nat × Nat) : State :=
  let c := (getDie s d).power.thermalCeil
  if c = some 4 then s
  else
    let s := retarget (modDie s d fun x => { x with power :=
      { x.power with thermalCeil := dropCeil s.fuses c, throttled := true, throttleCount := satInc 32 x.power.throttleCount } }) d
    powerAlarm s alThrottled cThrottle (d + (h.1 <<< 8) + ((h.2 % 256) <<< 16))

/-- The readings of a compute die: a sensor that has reached the throttle point steps its ceiling. -/
def readDie (s : State) (d : Nat) (ts : List Nat) : State :=
  let was := hotSensor s.assay.throttlePoint (getDie s d).power.temps
  let s := modDie s d fun x => { x with power := { x.power with temps := ts } }
  match hotSensor s.assay.throttlePoint ts with
  | some h => if was.isNone then throttleStep s d h else s
  | none => s

/-- The readings of a photonic die: `THROTTLE` and nothing else. -/
def readPd (s : State) (k : Nat) (ts : List Nat) : State :=
  let was := hotSensor s.assay.throttlePoint (getPd s k).temps
  let s := modPd s k fun x => { x with temps := ts }
  match hotSensor s.assay.throttlePoint ts with
  | some h =>
    if was.isNone then
      powerAlarm (modPd s k fun x => { x with throttled := true, throttleCount := satInc 32 x.throttleCount }) alThrottled cThrottle
        (16 + k + (h.1 <<< 8) + ((h.2 % 256) <<< 16))
    else s
  | none => s

/-- The readings of the hub. -/
def readHub (s : State) (ts : List Nat) : State :=
  let was := hotSensor s.assay.throttlePoint s.hubTemps
  let s := { s with hubTemps := ts }
  match hotSensor s.assay.throttlePoint ts with
  | some h =>
    if was.isNone then
      powerAlarm { s with hubThrottled := true, hubThrottleCount := satInc 32 s.hubThrottleCount } alThrottled cThrottle
        (20 + (h.1 <<< 8) + ((h.2 % 256) <<< 16))
    else s
  | none => s

/-- The comparators of the Rind follow the hottest sensor (R509, R543). -/
def comparators (s : State) (temps : List (List Nat)) : State :=
  { s with rind := { s.rind with hottest := temps.flatten.foldl max 0 } }

/-- SENSOR_READ (R540): the readings of dies 0 to 15 (compute), 16 to 19 (photonic) and 20 (hub). Without the hub only the
comparators see them. -/
def execSensorRead (temps : List (List Nat)) (s : State) : Out :=
  if s.m3 then .next s
  else if !(hubOn s) then .next (comparators s temps)
  else
    let s := eachDie s fun s d => readDie s d (nth temps d [])
    let s := (List.range Config.nPhotonic).foldl (fun s k => readPd s k (nth temps (16 + k) [])) s
    .next (comparators (readHub s (nth temps 20 [])) temps)

/-- THROTTLE_REPEAT (R541): a sensor is still at or above the throttle point. -/
def execThrottleRepeat (die : Nat) (s : State) : Out :=
  onDie die (match hotSensor s.assay.throttlePoint (getDie s die).power.temps with
    | some h => .next (throttleStep s die h)
    | none => .next s)

/-- THROTTLE_RISE (R541): every sensor is at or below the throttle point less 5 °C. -/
def execThrottleRise (die : Nat) (s : State) : Out :=
  onDie die (
    if (getDie s die).power.temps.all (fun t => t + 5 ≤ s.assay.throttlePoint) then
      .next (retarget (modDie s die fun x => { x with power :=
        { x.power with thermalCeil := riseCeil s.fuses x.power.thermalCeil } }) die)
    else .next s)

/-! ## Coolant (R542, R581) -/

/-- The coolant ceiling of every die is P3, and the alarm is raised. -/
def coolantStep (s : State) : State :=
  let s := eachDie s fun s d => retarget (modDie s d fun x => { x with power := { x.power with coolantCeil := some 3 } }) d
  powerAlarm s alCoolant cCoolant 0

/-- COOLANT_FAULT (R542): in M2 the Rind only latches it (R581, R597). -/
def execCoolantFault (s : State) : Out :=
  let old := alertConds s
  let s := { s with rind := { s.rind with coolantLow := true } }
  if s.modulePd.st ≥ 2 then .next (refreshAlert old { s with rind := { s.rind with coolantHeld := true } })
  else if firmwareRuns s then .next (coolantStep s) else .next s

/-- COOLANT_CLEAR (R542). -/
def execCoolantClear (s : State) : Out :=
  let s := { s with rind := { s.rind with coolantLow := false } }
  .next (eachDie s fun s d => retarget (modDie s d fun x => { x with power := { x.power with coolantCeil := none } }) d)

/-! ## Regulator phases (R535 to R538) -/

/-- One point down for too few phases: the flag, the count and the phase ceiling (R512, R537, R545). -/
def stepForPhases (p : DiePower) : DiePower :=
  let t := slower p.point
  let c := slowest (slowest t (phasePoint p.livePhases)) (p.phaseCeil.getD t)
  aimAt { p with phaseCeil := some c, phaseLost := true, phaseLostCount := satInc 32 p.phaseLostCount } t

/-- A compute die steps one point down for its phases (R537). -/
def phaseStep (s : State) (d : Nat) : State :=
  let p := (getDie s d).power
  powerAlarm (modDie s d fun x => { x with power := stepForPhases x.power }) alPhaseLost cPhaseLost
    (d + (p.livePhases <<< 8) + (slower p.point <<< 12))

/-- One phase fewer, and the phase ceiling that follows (R512, R536). -/
def losePhase (p : DiePower) : DiePower :=
  let c := phasePoint (p.livePhases - 1)
  { p with livePhases := p.livePhases - 1, phaseCeil := some (slowest c (p.phaseCeil.getD c)) }

/-- A compute die retires a phase; left with too few for its point, it steps down. One with fewer than three has failed (R458). -/
def retireDiePhase (s : State) (d : Nat) : State :=
  let s := modDie s d fun x => { x with power := losePhase x.power }
  let p := (getDie s d).power
  let s := if p.livePhases < pointPhases p.point then phaseStep s d else retarget s d
  if p.livePhases < 3 then failWorks s fun w => (workCores w).any fun c => dieOf c == d else s

/-- A photonic die retires a phase (R538). -/
def retirePdPhase (s : State) (k : Nat) : State :=
  let s := modPd s k fun x => { x with livePhases := x.livePhases - 1 }
  let n := (getPd s k).livePhases
  if n < 4 then
    let s := ((portsOfPd k).drop 8).foldl (fun s i => modPort (leaveUp s i .disabled) i fun p => { p with enabled := false }) s
    powerAlarm (modPd s k fun x => { x with phaseLost := true, phaseLostCount := satInc 32 x.phaseLostCount }) alPhaseLost
      cPhaseLost (16 + k + (n <<< 8))
  else s

/-- The hub retires a phase: with fewer than three it has failed (R458, R538). -/
def retireHubPhase (s : State) : State :=
  let s := { s with hubPhases := s.hubPhases - 1 }
  if s.hubPhases < 3 then
    failWorks (powerAlarm { s with hubPhaseLost := true, hubPhaseLostCount := satInc 32 s.hubPhaseLostCount } alPhaseLost
      cPhaseLost (20 + (s.hubPhases <<< 8))) fun _ => true
  else s

/-- A phase of a die is retired: dies 0 to 15 compute, 16 to 19 photonic, 20 the hub (R547). -/
def retirePhase (s : State) (die : Nat) : State :=
  if die < 16 then retireDiePhase s die else if die < 20 then retirePdPhase s (die - 16) else retireHubPhase s

def onAnyDie (d : Nat) (o : Out) : Out := if d < 21 then o else .fault .noSuchPart

/-- PHASE_FAIL_OPEN (R536). -/
def execPhaseFailOpen (die : Nat) (s : State) : Out := onAnyDie die (.next (retirePhase s die))

/-- PHASE_SENSE_MISMATCH (R536). -/
def execPhaseSenseMismatch (die : Nat) (s : State) : Out := onAnyDie die (.next (retirePhase s die))

/-- PHASE_STEP_REPEAT (R537): after a step the condition still holds. -/
def execPhaseStepRepeat (die : Nat) (s : State) : Out :=
  onDie die (
    let p := (getDie s die).power
    if p.phaseCeil.isSome && p.point != 4 then .next (phaseStep s die) else .next s)

/-- CURRENT_EXCEEDS_PHASE_CAPACITY (R537). -/
def execCurrentExceedsPhaseCapacity (die : Nat) (s : State) : Out :=
  onDie die (if (getDie s die).power.point = 4 then .next s else .next (phaseStep s die))

end Sys2Proof.Machine
end

