-- ==== Sys2Proof/Machine/Mailbox.lean ====
section
/-! DEFINITION. The mailbox: channels and their rings (R478 to R483), acceptance and its field checks (R485 to R487, R491), completion
records (R489, R501), the ledger area (R499, R502), the event queue (R498, R592) and legacy mode (R506). -/

namespace Sys2Proof.Machine

/-- The host reaches BAR0: the endpoint is out of reset and firmware is ready (R550, R586). -/
def busUp (s : State) : Bool := s.endpointUp && firmwareRuns s

/-- The channel exists in the mode in effect (R478, R506). -/
def channelHere (s : State) (ch : Nat) : Bool := ch < (if s.legacy then 8 else 16)

/-! ## Channels -/

/-- An enable is accepted (R479, R506). -/
def enableOk (s : State) (c : Channel) : Bool :=
  let top := if s.legacy then 10 else 12
  4 ≤ c.sqLog2 && c.sqLog2 ≤ top && 4 ≤ c.cqLog2 && c.cqLog2 ≤ top &&
  (s.legacy || (s.ledger.attached && c.cqLog2 ≤ s.ledger.areaLog2))

/-- A write of `CH_ENABLE` 1 (R479). -/
def enableChannel (s : State) (ch : Nat) : State :=
  let c := getCh s ch
  if !(channelHere s ch) || c.enable then s
  else if enableOk s c then
    setCh s ch { c with enable := true, active := true, sqTail := 0, cqHead := 0, sqHead := 0, cqTail := 0, cqPhase := true,
                        cqUsed := 0 }
  else setCh s ch (seeChError c)

/-- A write of `CH_ENABLE` 0 (R483). -/
def disableChannel (s : State) (ch : Nat) : State := modCh s ch fun c => { c with enable := false, active := false }

/-- CHANNEL_ENABLE (R479). -/
def execChannelEnable (ch : Nat) (host : List HostWrite) (s : State) : Out :=
  onCh ch (
    let s := applyHost s host
    if busUp s then .next (enableChannel s ch) else .next s)

/-- CHANNEL_DISABLE (R483). -/
def execChannelDisable (ch : Nat) (s : State) : Out :=
  onCh ch (if busUp s then .next (disableChannel s ch) else .next s)

/-- A doorbell write to a submission ring (R480): ignored on a channel that is not enabled. -/
def ringSq (s : State) (ch tail : Nat) : State :=
  let c := getCh s ch
  if !c.active then s
  else if tail ≥ 2 ^ c.sqLog2 then setCh s ch (seeChError c)
  else setCh s ch { c with sqTail := tail }

/-- Slots that a head doorbell frees: an unchanged head frees a full ring (log 28). -/
def freedSlots (size old new used : Nat) : Nat :=
  let d := (new + size - old) % size
  if d = 0 && used ≥ size then used else min d used

/-- A doorbell write to a completion ring (R480, R481). -/
def ringCq (s : State) (ch head : Nat) : State :=
  let c := getCh s ch
  if !c.active then s
  else if head ≥ 2 ^ c.cqLog2 then setCh s ch (seeChError c)
  else setCh s ch { c with cqHead := head, cqUsed := c.cqUsed - freedSlots (2 ^ c.cqLog2) c.cqHead head c.cqUsed }

/-- SQ_DOORBELL (R480). -/
def execSqDoorbell (ch : Nat) (tail : Word) (host : List HostWrite) (s : State) : Out :=
  onCh ch (
    let s := applyHost s host
    if busUp s then .next (ringSq s ch tail.toNat) else .next s)

/-- CQ_DOORBELL (R481). -/
def execCqDoorbell (ch : Nat) (head : Word) (s : State) : Out :=
  onCh ch (if busUp s then .next (ringCq s ch head.toNat) else .next s)

/-! ## Field checks (R485, R490, R491) -/

/-- Opcodes of R491, whether each acts on a partition (1) or on the module (0), whether it is in legacy mode, and its parameter
bytes as ranges (first, number). -/
def commandSet : List (Nat × Nat × Bool × List (Nat × Nat)) :=
  [(0x01, 0, true, []), (0x02, 0, false, [(16, 10), (32, 8)]), (0x03, 0, true, [(16, 8)]), (0x04, 0, false, [(16, 16)]),
   (0x10, 1, true, [(16, 4)]), (0x11, 1, true, []), (0x12, 1, true, [(16, 12)]), (0x13, 1, true, [(16, 13)]),
   (0x14, 1, false, [(16, 14)]), (0x15, 1, true, [(16, 8)])] ++
  [(0x20, 1, true, [(16, 10)]), (0x21, 0, false, [(16, 8)]), (0x22, 0, false, [(16, 16)]), (0x23, 0, false, [(16, 8)]),
   (0x30, 1, true, [(16, 16)]), (0x31, 0, true, [(16, 8)]), (0x32, 1, true, [(16, 20)]), (0x33, 1, true, [(16, 21)])] ++
  [(0x40, 0, false, [(16, 2)]), (0x41, 0, false, [(16, 16)]), (0x42, 0, false, [(16, 2)]), (0x43, 0, false, [(16, 1), (24, 10)]),
   (0x44, 0, false, [(16, 3)]), (0x50, 0, true, [(16, 1)]), (0x51, 2, true, [(16, 3)]), (0x52, 0, false, [(16, 1), (20, 4)]),
   (0x60, 0, true, [(16, 1), (18, 2), (24, 8)]), (0x61, 0, true, [(16, 1), (18, 10)]),
   (0x70, 0, false, [(16, 4)]), (0x71, 0, false, [])]

/-- A refused value: its byte offset when the condition holds. -/
def refuseIf (b : Bool) (off : Nat) : List Nat := if b then [off] else []

/-- A partition address of 8 bytes with bits [63:48] 0. -/
def paBad (bs : List Byte) (off : Nat) : Bool := numAt bs (off + 6) 2 != 0

/-- Index of a status kind or test kind out of range (R603, R491). -/
def kindIndexBad (kind index : Nat) : Bool :=
  if kind = 0 || kind = 3 then index ≥ Config.nCores else if kind = 1 then index ≥ Config.nPorts else false

def testIndexBad (kind index : Nat) : Bool :=
  if kind = 0 then index ≥ Config.nCores else if kind = 1 then index ≥ 24 else index ≥ Config.nStacks

/-- A domain of set_power_vote that is refused, and a state that its domain refuses (R521). -/
def voteDomainBad (d : Nat) : Bool :=
  let low := d % 4096
  match d / 4096 with
  | 0 => low ≥ Config.nCores
  | 1 => low ≥ Config.nDies
  | 2 => low ≥ Config.nPhotonic
  | 3 => low != 0
  | 4 => low ≥ Config.nDies
  | _ => true

def voteStateBad (bin d v : Nat) : Bool :=
  v != 0xFF && (match d / 4096 with
  | 0 => v > 3
  | 1 => v = 0 || v > 3
  | 2 => v > 1
  | 3 => v > 2
  | _ => v > 5 || (v = 5 && bin != 1))

/-- Offsets of the parameters whose encoding or range a command refuses. -/
def paramBad (bin : Nat) (bs : List Byte) : List Nat :=
  let b := fun (o : Nat) => numAt bs o 1
  let w := fun (o : Nat) => numAt bs o 4
  match cmdOpcode bs with
  | 0x02 => refuseIf (numAt bs 24 2 = 0 || numAt bs 24 2 > 4096) 24
  | 0x12 => refuseIf (w 24 % 8 != 0) 24
  | 0x13 => refuseIf (w 24 % 8 != 0) 24 ++ refuseIf (b 28 > 1) 28
  | 0x14 => refuseIf (w 24 % 8 != 0) 24 ++ refuseIf (b 28 > 1) 28 ++ refuseIf (b 29 = 0 || b 29 > 63) 29
  | 0x20 => refuseIf (numAt bs 24 2 = 0 || numAt bs 24 2 > 832) 24
  | 0x30 => refuseIf (w 16 ≥ 32768) 16 ++ refuseIf (w 20 = 0 || w 16 + w 20 > 32768) 20 ++
      refuseIf (paBad bs 24 || numAt bs 24 8 % 2 ^ 21 != 0 || region (numAt bs 24 6) != 0) 24
  | 0x31 => refuseIf (w 16 ≥ 32768) 16 ++ refuseIf (w 20 = 0 || w 16 + w 20 > 32768) 20
  | 0x32 => refuseIf (paBad bs 16) 16 ++ refuseIf (w 32 = 0 || w 32 > 1048576) 32
  | 0x33 => refuseIf (paBad bs 24) 24 ++ refuseIf (w 32 = 0 || w 32 > 1048576) 32 ++ refuseIf (b 36 = 0 || b 36 > 2) 36
  | 0x41 => refuseIf (w 24 > 65535) 24 ++ refuseIf (w 28 = 0 || w 24 + w 28 > 65536) 28
  | 0x42 => refuseIf (b 16 > 63) 16 ++ refuseIf (b 17 > 7) 17
  | 0x43 => refuseIf (b 16 > 63) 16 ++ refuseIf (numAt bs 32 2 != 146) 32
  | 0x44 => refuseIf (b 16 > 3) 16 ++ refuseIf (b 17 > 1) 17 ++ refuseIf (b 18 > 1) 18
  | 0x50 => refuseIf (b 16 > 1) 16
  | 0x51 => refuseIf (voteDomainBad (numAt bs 16 2)) 16 ++ refuseIf (voteStateBad bin (numAt bs 16 2) (b 18)) 18
  | 0x52 => refuseIf (b 16 > 1) 16
  | 0x60 => refuseIf (b 16 > 3) 16 ++ refuseIf (kindIndexBad (b 16) (numAt bs 18 2)) 18
  | 0x61 => refuseIf (b 16 > 3) 16 ++ refuseIf (kindIndexBad (b 16) (numAt bs 18 2)) 18
  | 0x70 => refuseIf (b 16 > 2) 16 ++ refuseIf (b 17 > 1) 17 ++ refuseIf (testIndexBad (b 16) (numAt bs 18 2)) 18
  | _ => []

/-- The parameter bytes that a command does not use and that are not 0. -/
def unusedBad (bs : List Byte) (ranges : List (Nat × Nat)) : List Nat :=
  ((List.range 48).map (· + 16)).filter fun o =>
    numAt bs o 1 != 0 && !(ranges.any fun r => r.1 ≤ o && o < r.1 + r.2)

/-- Byte offset of the first refused field of a command. DESIGN CHOICE: in legacy mode too it is the field's offset in the layout of
protocol 3, as R491 gives parameters (log 82). -/
def fieldRefused (s : State) (bs : List Byte) : Option Nat :=
  match commandSet.find? fun r => r.1 == cmdOpcode bs with
  | none => some 0
  | some (_, scope, legacy, ranges) =>
    if s.legacy && !legacy then some 0
    else
      let part := cmdPart bs
      let partBad := if scope = 0 then part != 0 else if scope = 1 then part = 0 || part > 63 else part > 63
      match refuseIf (cmdFlags bs > 1) 1 ++ refuseIf partBad 2 ++ paramBad s.fuses.bin bs ++ unusedBad bs ranges with
      | [] => none
      | o :: os => some (os.foldl min o)

/-! ## Acceptance (R482, R486, R487) -/

/-- Commands of a channel whose completion record is not written. -/
def openCmds (s : State) (ch : Nat) : Nat := (s.cmds.filter fun e => e.2.ch == ch).length

/-- The entry at the submission head, in the form of protocol 3 (R485, R506). -/
def headEntry (s : State) (c : Channel) : List Byte :=
  if s.legacy then
    let b := hostRead s (c.sqBase.toNat + 32 * c.sqHead) 32
    b.take 8 ++ zeros 8 ++ b.drop 8 ++ zeros 24
  else hostRead s (c.sqBase.toNat + 64 * c.sqHead) 64

def bumpSq (c : Channel) : Channel := { c with sqHead := (c.sqHead + 1) % 2 ^ c.sqLog2 }

/-- Commands whose ledger entry carries a common turn: works (R500). -/
def isWorkOp (op : Nat) : Bool := op == 0x20 || op == 0x22

/-- The acceptance record (R487, R500). No turn is known yet (log 39). -/
def newEntry (s : State) (seq : Nat) (bs : List Byte) : LedgerEntry :=
  { seq := BitVec.ofNat 64 seq, tag := BitVec.ofNat 32 (cmdTag bs), opcode := cmdOpcode bs, st := 1, status := 0,
    part := cmdPart bs % 256, turn := BitVec.ofNat 32 turnUnknown, epoch := s.stamp.epoch }

/-- A command is accepted with a sequence number: its ledger entry is written, then the channel advances; a refused field fixes
its result at once. -/
def acceptCmd (s : State) (ch seq : Nat) (bs : List Byte) : State :=
  let s := putLedger (ageLedger s seq) seq (newEntry s seq bs)
  let s := modCh s ch fun c => { bumpSq c with lastCount := seqCount seq }
  let cmd : Cmd := { ch := ch, bytes := bs, begun := false, result := none, draining := false, records := [] }
  let s := { s with cmds := tput s.cmds seq cmd }
  match fieldRefused s bs with
  | some o => refuseField s seq o 0
  | none => s

/-- COMMAND_ACCEPT (R487): the entry at the head is accepted, or discarded when its sequence number is not the next (R486). -/
def execCommandAccept (ch : Nat) (s : State) : Out :=
  onCh ch (
    let c := getCh s ch
    if !c.active || !(firmwareRuns s) || c.sqHead = c.sqTail || openCmds s ch + c.cqUsed ≥ 2 ^ c.cqLog2 then .next s
    else
      let bs := headEntry s c
      let seq := seqOf ch (c.lastCount + 1)
      if s.legacy || cmdSeq bs = seq then .next (acceptCmd s ch seq bs)
      else .next (setCh s ch (seeSeqErr (bumpSq c))))

/-! ## Completion records (R489, R501) -/

/-- The record of a result. -/
def recordBytes (legacy : Bool) (seq : Nat) (bs : List Byte) (r : Result) (phase : Bool) : List Byte :=
  if legacy then
    leBytes 4 (cmdTag bs) ++ leBytes 1 r.status ++ leBytes 1 (cmdOpcode bs) ++ leBytes 1 (flagBit phase 0) ++ zeros 1 ++
    r.detail.take 8
  else
    leBytes 8 seq ++ leBytes 4 (cmdTag bs) ++ leBytes 1 r.status ++ leBytes 1 (cmdOpcode bs) ++ leBytes 2 (flagBit phase 0) ++
    padTo 16 r.detail

/-- The completion tail after one record: the phase alternates at each pass (R481). -/
def bumpCq (c : Channel) : Channel :=
  let t := (c.cqTail + 1) % 2 ^ c.cqLog2
  { c with cqTail := t, cqPhase := if t = 0 then !c.cqPhase else c.cqPhase, cqUsed := c.cqUsed + 1 }

/-- COMPLETION_RECORD_WRITE (R501): the oldest command of the channel, once its result is fixed. -/
def execCompletionRecordWrite (ch : Nat) (s : State) : Out :=
  onCh ch (
    let c := getCh s ch
    if !c.active || !(firmwareRuns s) then .next s
    else match s.cmds.find? fun e => e.2.ch == ch with
      | none => .next s
      | some (seq, cmd) =>
        match cmd.result with
        | none => .next s
        | some r =>
          let size := if s.legacy then 16 else 32
          let s := hostWrite s (c.cqBase.toNat + size * c.cqTail) (recordBytes s.legacy seq cmd.bytes r c.cqPhase)
          let s := modCh { s with cmds := tdel s.cmds seq } ch bumpCq
          let s := modLedger s seq fun e => if e.st = 5 then { e with st := 6 } else e
          .next (signalVector s ch))

/-! ## The ledger area (R499, R502) -/

/-- Bytes of the host's memory become 0. -/
def hostClear (s : State) (a n : Nat) : State :=
  { s with mem := s.mem.filter fun c => !(hostBase + a ≤ c.1 && c.1 < hostBase + a + n) }

def areaLen (l : Ledger) : Nat := 16 * 2 ^ l.areaLog2 * 32

/-- Entries of the area whose check holds, by sequence number. -/
def areaEntries (s : State) : Tbl LedgerEntry :=
  let base := s.ledger.areaBase.toNat
  let slots := ((s.mem.filter fun c => hostBase + base ≤ c.1 && c.1 < hostBase + base + areaLen s.ledger).map fun c =>
    (c.1 - hostBase - base) / 32).dedup
  slots.foldl (fun t k => match ledgerRead (hostRead s (base + 32 * k) 32) with
    | some e => tput t e.seq.toNat e
    | none => t) []

/-- Highest count of a channel in the ledger. -/
def lastCountOf (t : Tbl LedgerEntry) (ch : Nat) : Nat :=
  (t.filter fun e => seqChannel e.1 == ch).foldl (fun m e => max m (seqCount e.1)) 0

/-- A command known only from its ledger entry. -/
def revived (e : LedgerEntry) (r : Option Result) : Cmd :=
  { ch := seqChannel e.seq.toNat,
    bytes := leBytes 1 e.opcode ++ zeros 1 ++ leBytes 2 e.part ++ leBytes 4 e.tag.toNat ++ leBytes 8 e.seq.toNat ++ zeros 48,
    begun := true, result := r, draining := false, records := [] }

/-- An entry that a system reset left without a result (R503, R505): a work goes to state 3 with its turn unknown while HBM has
kept its contents, and every other command ends not applied. -/
def reviveEntry (s : State) (e : LedgerEntry) : State :=
  let seq := e.seq.toNat
  if e.st = 0 || e.st ≥ 5 then s
  else if isWorkOp e.opcode && !s.hbmLost then
    ledgerTurn (ledgerState { s with cmds := tput s.cmds seq (revived e none) } seq 3) seq turnUnknown
  else
    fixResult (ledgerTurn { s with cmds := tput s.cmds seq (revived e none) } seq turnUnknown) seq stFailed (leBytes 4 turnUnknown)

/-- The channels' last sequence numbers follow the ledger. -/
def syncCounts (s : State) : State :=
  (List.range 16).foldl (fun s ch => modCh s ch fun c => { c with lastCount := lastCountOf s.ledger.entries ch }) s

/-- A module that holds a ledger writes its copy over the whole area (R502). -/
def writeArea (s : State) : State :=
  let s := hostClear s s.ledger.areaBase.toNat (areaLen s.ledger)
  s.ledger.entries.foldl (fun s e => hostWrite s (ledgerAddr s.ledger e.1) (ledgerBytes e.2)) s

/-- Attach the ledger area (R502). -/
def attachLedger (s : State) : State :=
  if s.legacy || s.ledger.log2 < 8 || s.ledger.log2 > 16 || (s.channels.any fun c => c.2.enable) then s
  else
    let s := { s with ledger := { s.ledger with areaBase := s.ledger.base, areaLog2 := s.ledger.log2 } }
    let t := areaEntries s
    if s.ledger.held then syncCounts (writeArea { s with ledger := { s.ledger with attached := true } })
    else if t.isEmpty then
      let s := hostClear s s.ledger.areaBase.toNat (areaLen s.ledger)
      syncCounts { s with hbmLost := false, ledger := { s.ledger with
        attached := true, held := true, entries := [], fresh := true, freshCount := satInc 32 s.ledger.freshCount } }
    else
      let s := { s with ledger := { s.ledger with attached := true, held := true, entries := t } }
      let s := t.foldl (fun s e => reviveEntry s e.2) s
      syncCounts { s with hbmLost := false }

/-- LEDGER_ATTACH (R502). -/
def execLedgerAttach (host : List HostWrite) (s : State) : Out :=
  let s := applyHost s host
  if busUp s then .next (attachLedger s) else .next s

/-! ## The event queue (R498, R592) -/

/-- A write of `EVQ_CTRL` (R591, R592). -/
def writeEvqCtrl (s : State) (v : Word) : State :=
  let log2 := fld v.toNat 8 5
  if !(v.getLsbD 0) then
    { s with evq := { s.evq with active := false, log2 := if s.evq.active then s.evq.log2 else log2 } }
  else if s.evq.active then s
  else if log2 < 4 || log2 > 16 then { s with evq := { s.evq with log2 := log2 } }
  else { s with evq := { s.evq with log2 := log2, active := true, head := 0, tail := 0, phase := true, used := 0 } }

/-- EVQ_ENABLE (R592): `value` is what is written to `EVQ_CTRL`; its bit 0 is 1. -/
def execEvqEnable (value : Word) (s : State) : Out :=
  if busUp s && value.getLsbD 0 then .next (writeEvqCtrl s value) else .next s

/-- EVQ_DISABLE (R592). -/
def execEvqDisable (s : State) : Out :=
  if busUp s then .next { s with evq := { s.evq with active := false } } else .next s

/-- A write of `EVQ_HEAD` (R498): ignored when out of range or while the queue is disabled. -/
def writeEvqHead (s : State) (head : Nat) : State :=
  let q := s.evq
  if !q.active || head ≥ 2 ^ q.log2 then s
  else { s with evq := { q with head := head, used := q.used - freedSlots (2 ^ q.log2) q.head head q.used } }

/-- EVQ_DOORBELL (R498). -/
def execEvqDoorbell (head : Word) (s : State) : Out :=
  if busUp s then .next (writeEvqHead s head.toNat) else .next s

/-- The record that firmware takes next: one it has taken already, or the oldest event of a core. -/
def takeRecord (s : State) : Option ((FaultRec × Nat × Nat) × State) :=
  match s.evq.waiting with
  | r :: rest => some (r, { s with evq := { s.evq with waiting := rest } })
  | [] =>
    let first := s.cores.foldl (fun (m : Option (Nat × FaultRec)) e => match e.2.events with
      | r :: _ => match m with
        | some x => if r.time < x.2.time then some (e.1, r) else m
        | none => some (e.1, r)
      | [] => m) none
    first.map fun x =>
      ((x.2, (getCore s x.1).place, (getCore s x.1).part), modCore s x.1 fun co => { co with events := co.events.drop 1 })

/-- The 32 bytes of an event record in the queue: place, partition and phase added (R370, R498). -/
def eventBytes (r : FaultRec) (place part : Nat) (phase : Bool) : List Byte :=
  leBytes 32 (recNat r + ((place % 1024) <<< 182) + ((part % 64) <<< 176) + flagBit phase 13)

/-- EVENT_RECORD_WRITE (R498): a record that finds the ring full, or the queue disabled, is lost (R592). -/
def execEventRecordWrite (s : State) : Out :=
  match (if firmwareRuns s then takeRecord s else none) with
  | none => .next s
  | some ((r, place, part), s) =>
    let q := s.evq
    if !q.active || q.used ≥ 2 ^ q.log2 then
      .next (raiseAlarm { s with evq := { q with ovfCount := satInc 32 q.ovfCount } } alEvqOverflow)
    else
      let s := hostWrite s (q.base.toNat + 32 * q.tail) (eventBytes r place part q.phase)
      let t := (q.tail + 1) % 2 ^ q.log2
      let s := { s with evq := { s.evq with tail := t, phase := if t = 0 then !q.phase else q.phase, used := q.used + 1 } }
      .next (signalVector s 16)

end Sys2Proof.Machine
end

