-- ==== Sys2Proof/Machine/Registers.lean ====
section
/-! DEFINITION. The host's side: the registers of BAR0 as read and written (R14, R15, R477, R478, R499, R585 to R595), the
configuration header (R584) and the BAR2 window (R496, R497). -/

namespace Sys2Proof.Machine

/-- The high and low halves of a 64-bit register. -/
def loHalf (n : Nat) : Nat := n % 2 ^ 32
def hiHalf (n : Nat) : Nat := n / 2 ^ 32 % 2 ^ 32

/-! ## Reads -/

/-- A register of a channel, by its offset (R478). -/
def channelRead (s : State) (ch off : Nat) : Nat :=
  let c := getCh s ch
  let last := if s.legacy || c.lastCount = 0 then 0 else seqOf ch c.lastCount
  match off with
  | 0x00 => loHalf c.sqBase.toNat
  | 0x04 => hiHalf c.sqBase.toNat
  | 0x08 => loHalf c.cqBase.toNat
  | 0x0C => hiHalf c.cqBase.toNat
  | 0x10 => ((c.cqLog2 % 16) <<< 16) + ((c.sqLog2 % 16) <<< 12) + flagBit c.enable 0
  | 0x14 => mbxStatus c
  | 0x18 => c.sqTail
  | 0x1C => c.cqHead
  | 0x20 => c.sqHead
  | 0x28 => loHalf last
  | 0x2C => hiHalf last
  | 0x30 => c.seqErrCount
  | 0x34 => c.chErrCount
  | _ => 0

/-- A 32-bit read of `0x0_0000` to `0x0_03FF` (R585). -/
def statusRead (s : State) (off : Nat) : Nat :=
  if off = 0x00 then modIdent s
  else if off = 0x08 then loHalf s.fuses.serial.toNat
  else if off = 0x0C then hiHalf s.fuses.serial.toNat
  else if off = 0x10 then s.boot.fwVersion.toNat
  else if off = 0x18 then modStatus s
  else if off = 0x20 then match s.moduleId with
    | some i => 2 ^ 16 + i.toNat
    | none => 0
  else if off = 0x40 then s.alarms.status.toNat
  else if off = 0x44 then s.alarms.enable.toNat
  else if 0x80 ≤ off && off < 0xA8 then nth s.alarms.counts ((off - 0x80) / 4) 0
  else if 0x200 ≤ off && off < 0x240 then diePwrStatus s ((off - 0x200) / 4)
  else if 0x240 ≤ off && off < 0x300 then
    let p := (getDie s ((off - 0x240) / 12)).power
    nth [p.phaseLostCount, p.throttleCount, p.powerCapCount] ((off - 0x240) % 12 / 4) 0
  else if off = 0x300 then s.pdSelect.toNat
  else if off = 0x308 || off = 0x30C then
    let r := match pdSelected s.pdSelect.toNat with
      | some d => pdRecord s d
      | none => 0
    if off = 0x308 then loHalf r else hiHalf r
  else if 0x320 ≤ off && off < 0x334 then auxPwrStatus s ((off - 0x320) / 4)
  else if 0x340 ≤ off && off < 0x368 then
    let d := (off - 0x340) / 8
    let low := off % 8 = 0
    if d < 4 then (if low then (getPd s d).phaseLostCount else (getPd s d).throttleCount)
    else (if low then s.hubPhaseLostCount else s.hubThrottleCount)
  else 0

/-- A 32-bit read of the ledger and event queue registers (R498, R499, R591). In legacy mode the ledger's read 0 (R506). -/
def queueRead (s : State) (off : Nat) : Nat :=
  match off with
  | 0x1000 => if s.legacy then 0 else loHalf s.ledger.base.toNat
  | 0x1004 => if s.legacy then 0 else hiHalf s.ledger.base.toNat
  | 0x1008 => ledgerCtrl s
  | 0x1010 => loHalf s.evq.base.toNat
  | 0x1014 => hiHalf s.evq.base.toNat
  | 0x1018 => evqCtrl s
  | 0x101C => s.evq.head
  | 0x1020 => s.evq.tail
  | 0x1024 => s.evq.ovfCount
  | 0x1028 => if s.legacy then 0 else s.ledger.freshCount
  | _ => 0

/-- What an aligned 32-bit read of BAR0 returns (R477, R585, R586). -/
def bar0Read (s : State) (off : Nat) : Nat :=
  if !(firmwareRuns s) then (if off = 0x18 then modStatus s else 0)
  else if off < 0x400 then statusRead s off
  else if off < 0x500 then numAt (assayStatusBytes s) (off - 0x400) 4
  else if 0x1000 ≤ off && off < 0x1100 then queueRead s off
  else if 0x2000 ≤ off && off < 0x3000 then
    (if channelHere s ((off - 0x2000) / 0x100) then channelRead s ((off - 0x2000) / 0x100) (off % 0x100) else 0)
  else if 0x8000 ≤ off && off < 0x8400 then (msixWord s ((off - 0x8000) / 4)).toNat
  else if off = 0x9000 then loHalf s.msix.pendingBits.toNat
  else if off = 0x9004 then hiHalf s.msix.pendingBits.toNat
  else 0

/-- The identity words of the configuration header (R584): device and vendor ID, subsystem ID and subsystem vendor ID, class
code and revision. -/
def configHeader (s : State) : List Nat :=
  [((if s.legacy then 0x0832 else 0x1664) <<< 16) + 0x1E9D,
   ((if s.fuses.bin = 1 then 0x0016 else 0x0014) <<< 16) + 0x1E9D,
   (0x120000 <<< 8) + s.fuses.siliconRev % 256]

/-! ## Writes -/

/-- A 64-bit register from its upper half, as written, and the lower half written before (R477). -/
def joinHalves (hi lo : Word) : Dword := hi ++ lo

/-- A write of `ALARM_ENABLE` (R590): vector 17 when an enable is written 1 while its flag is set. -/
def writeAlarmEnable (s : State) (v : Word) : State :=
  let on := v &&& 0x3FE
  let s := refreshWake { s with alarms := { s.alarms with enable := on } }
  if (on &&& s.alarms.status) != 0 then signalVector s 17 else s

/-- A write of an Assay register from outside Assay firmware (R465, R595). -/
def refuseAssayWrite (s : State) : State :=
  { s with stamp := { s.stamp with wrRefused := satInc 32 s.stamp.wrRefused } }

/-- A write of `PD_SELECT` (R593). A refused kind is held, and `PD_RECORD` then reads 0 (R594, log 80). -/
def writePdSelect (s : State) (v : Word) : State := { s with pdSelect := v &&& 0xF3FF }

/-- Which register of a channel a write changes (R478, R479, R483). -/
def channelWrite (s : State) (ch off : Nat) (v : Word) : State :=
  let c := getCh s ch
  match off with
  | 0x00 => if c.enable then s else setCh s ch { c with sqLow := v }
  | 0x08 => if c.enable then s else setCh s ch { c with cqLow := v }
  | 0x04 => if c.enable then s else setCh s ch { c with sqBase := joinHalves v c.sqLow }
  | 0x0C => if c.enable then s else setCh s ch { c with cqBase := joinHalves v c.cqLow }
  | 0x10 =>
    let c' := if c.enable then c else { c with sqLog2 := fld v.toNat 12 4, cqLog2 := fld v.toNat 16 4 }
    if v.getLsbD 0 then enableChannel (setCh s ch c') ch else disableChannel (setCh s ch c') ch
  | 0x14 => setCh s ch { c with chError := c.chError && !(v.getLsbD 1), seqErr := c.seqErr && !(v.getLsbD 0) }
  | 0x18 => ringSq s ch v.toNat
  | 0x1C => ringCq s ch v.toNat
  | _ => s

/-- A write of the MSI-X table: a vector unmasked while its bit is pending is signalled (R484; log 20). -/
def writeMsix (s : State) (k : Nat) (v : Word) : State :=
  let v' := if k % 4 = 3 then v &&& 1 else if k % 4 = 0 then v &&& 0xFFFFFFFC else v
  let s := { s with msix := { s.msix with table := tput s.msix.table k v' } }
  if k % 4 = 3 && !(v.getLsbD 0) && s.msix.pendingBits.getLsbD (k / 4) then signalVector (setPending s (k / 4) false) (k / 4)
  else s

/-- A write of `LEDGER_CTRL` (R499, R502). `LEDGER_LOG2` keeps its value when the encoding is reserved (R15). -/
def writeLedgerCtrl (s : State) (v : Word) : State :=
  if s.legacy then s
  else
    let n := fld v.toNat 8 5
    let s := { s with ledger := { s.ledger with
      log2 := if 8 ≤ n && n ≤ 16 then n else s.ledger.log2, fresh := s.ledger.fresh && !(v.getLsbD 3) } }
    if v.getLsbD 0 then attachLedger s else s

/-- A write of the ledger and event queue registers. -/
def queueWrite (s : State) (off : Nat) (v : Word) : State :=
  match off with
  | 0x1000 => if s.legacy then s else { s with ledger := { s.ledger with lowHalf := v } }
  | 0x1004 => if s.legacy then s else { s with ledger := { s.ledger with base := joinHalves v s.ledger.lowHalf } }
  | 0x1008 => writeLedgerCtrl s v
  | 0x1010 => if s.evq.active then s else { s with evq := { s.evq with lowHalf := v } }
  | 0x1014 => if s.evq.active then s else { s with evq := { s.evq with base := joinHalves v s.evq.lowHalf } }
  | 0x1018 => writeEvqCtrl s v
  | 0x101C => writeEvqHead s v.toNat
  | _ => s

/-- A write of the status registers of `0x0_0000` to `0x0_03FF`. -/
def statusWrite (s : State) (off : Nat) (v : Word) : State :=
  if off = 0x40 then clearAlarms s v
  else if off = 0x44 then writeAlarmEnable s v
  else if 0x200 ≤ off && off < 0x240 then
    modDie s ((off - 0x200) / 4) fun d => { d with power := diePwrClear d.power v.toNat }
  else if off = 0x300 then writePdSelect s v
  else if 0x320 ≤ off && off < 0x334 then auxPwrClear s ((off - 0x320) / 4) v.toNat
  else s

/-- An aligned 32-bit write of BAR0 (R477); a 64-bit write is one of its lower half and then one of its upper half. -/
def bar0Write (s : State) (off : Nat) (v : Word) : State :=
  if off % 4 != 0 then s
  else if off < 0x400 then statusWrite s off v
  else if off < 0x500 then refuseAssayWrite s
  else if 0x1000 ≤ off && off < 0x1100 then queueWrite s off v
  else if 0x2000 ≤ off && off < 0x3000 then
    (if channelHere s ((off - 0x2000) / 0x100) then channelWrite s ((off - 0x2000) / 0x100) (off % 0x100) v else s)
  else if 0x8000 ≤ off && off < 0x8400 then writeMsix s ((off - 0x8000) / 4) v
  else s

/-- ALARM_ENABLE_WRITE (R590). -/
def execAlarmEnableWrite (value : Word) (s : State) : Out :=
  if busUp s then .next (writeAlarmEnable s value) else .next s

/-- ASSAY_STATUS_WRITE (R595). -/
def execAssayStatusWrite (offset : Nat) (_value : Word) (s : State) : Out :=
  if busUp s && 0x400 ≤ offset && offset < 0x500 then .next (refuseAssayWrite s) else .next s

/-- REGISTER_WRITE (R14). -/
def execRegisterWrite (offset : Nat) (value : Word) (s : State) : Out :=
  if busUp s then .next (bar0Write s offset value) else .next s

/-! ## BAR2 (R496, R497) -/

/-- Parts of a byte range that lie in one 512-byte row each: first byte and number. -/
def rowParts (off len : Nat) : List (Nat × Nat) :=
  let base := off / 512
  (List.range (cdiv (off % 512 + len) 512)).map fun i =>
    let lo := max off (512 * (base + i))
    (lo, min (off + len) (512 * (base + i + 1)) - lo)

/-- Words of its row that a part touches. -/
def partWords (lo n : Nat) : Nat := maskOf (idxs 8 fun k => lo % 512 / 64 ≤ k && k ≤ (lo % 512 + n - 1) / 64)

/-- Physical address that an offset reaches through an open window page. -/
def windowPhys (s : State) (off : Nat) : Option Nat :=
  (tget? s.windows (off / 2 ^ 21)).map fun pg => pg * 2 ^ 21 + off % 2 ^ 21

/-- The parts of an access with their physical addresses; none when one lies in a closed window page. -/
def windowParts (s : State) (off len : Nat) : Option (List (Nat × Nat)) :=
  (rowParts off len).mapM fun p => (windowPhys s p.1).map fun a => (a, p.2)

/-- Read the parts: the data, the state after, and whether a poisoned word was met. -/
def windowRead (s : State) (ps : List (Nat × Nat)) : List Byte × State × Bool :=
  ps.foldl (fun x p =>
    let row := p.1 / 512
    let used := partWords p.1 p.2
    (x.1 ++ rdBytes x.2.1 p.1 p.2, checkRead x.2.1 row used, x.2.2 || (readVerdict x.2.1 row used).isSome)) ([], s, false)

/-- BAR2_READ (R497). An access whose target sleeps stalls until it is up (R528). -/
def execBar2Read (offset len : Nat) (s : State) : Out :=
  if !s.endpointUp then .next s
  else if !(firmwareRuns s) then .next { s with bar2 := .unsupported }
  else match windowParts s offset len with
    | none => .next { s with bar2 := .unsupported }
    | some ps =>
      if ps.any fun p => asleep s (p.1 / 512) then .next s
      else match windowRead s ps with
        | (data, s, false) => .next { s with bar2 := .ok data }
        | (_, s, true) => .next (raiseAlarm { s with bar2 := .poisoned } alBar2Poison)

/-- One part of a write: a refused one is dropped, counted and logged with its address. -/
def windowWrite (s : State) (a : Nat) (data : List Byte) : State :=
  let row := a / 512
  match putRow s row (padTo 512 (zeros (a % 512) ++ data)) ((2 ^ data.length - 1) <<< (a % 512)) with
  | (s, none) => s
  | (s, some bad) => queueRec (raiseAlarm s alBar2Refused) (fwRec s cEcc a bad) 0 0

/-- BAR2_WRITE (R497). -/
def execBar2Write (offset : Nat) (data : List Byte) (s : State) : Out :=
  if !(busUp s) then .next s
  else match windowParts s offset data.length with
    | none => .next (raiseAlarm s alBar2Refused)
    | some ps =>
      if ps.any fun p => asleep s (p.1 / 512) then .next s
      else .next (ps.foldl (fun x p => (windowWrite x.1 p.1 (x.2.take p.2), x.2.drop p.2)) (s, data)).1

/-! ## The link -/

/-- LINK_REACHES_L0 (R533). -/
def execLinkReachesL0 (s : State) : Out :=
  if s.endpointUp then .next (refreshWake { s with l0 := true }) else .next s

end Sys2Proof.Machine
end

