-- ==== Sys2Proof/Machine/Reset.lean ====
section
/-! DEFINITION. Resets (R476, R548, R549), the end of entries and wakes (R525 to R531), trips and supply faults (R543, R544), the
links and pins of the host (R476, R551), and the Rind's wakes (R526, R532). -/

namespace Sys2Proof.Machine

/-! ## The endpoint reset (R476, R548) -/

/-- Legacy mode keeps no work and no command through an endpoint or system reset (R507). -/
def dropLegacy (s : State) : State :=
  let s := s.works.foldl (fun s e =>
    if e.2.st = .running || e.2.st = .recovering then stopCores s (workCores e.2) else s) s
  { s with works := [], cmds := [], reproWait := [] }

/-- The endpoint, the channel and queue registers and the MSI-X table are reset; works, commands and the module's copy of the ledger
stand. -/
def endpointReset (s : State) : State :=
  let s := if s.legacy then dropLegacy s else s
  refreshWake { s with
    channels := [], msix := .reset, bar2 := .none, l0 := false, endpointUp := false,
    evq := { EventQueue.reset with waiting := s.evq.waiting },
    ledger := { Ledger.reset with held := s.ledger.held, entries := s.ledger.entries } }

/-! ## The system reset (R548, R549) -/

/-- HBM and host memory: the rows that a system reset keeps. -/
def keptRow (row : Nat) : Bool := match placeOf row with
  | .hbm => true
  | .host => true
  | _ => false

/-- A processor held in reset. -/
def holdMp (p : Processor) : Processor := { p with held := true, current := false, claim := none }

/-- The works that a system reset leaves: running ones are preempted and their common turn unknown (R503, R505). -/
def preemptedWorks (ws : Tbl Work) : Tbl Work :=
  ws.map fun e => (e.1, if e.2.st = .running || e.2.st = .recovering then
    { e.2 with st := .preempted, turn := none, window := none, replaced := [] } else e.2)

/-- A stack after a system reset: its repairs and their log stand. -/
def resetStack (k : Stack) : Stack :=
  { Stack.reset with selfRefresh := true, repairLog := k.repairLog, hardRepaired := k.hardRepaired }

/-- The Rind, the fuse map, what HBM and host memory hold, the repair log of the flash, the stamp's epoch and counters, and the
straps last sampled are kept; everything else is as after reset. Boot has not begun. `lost`: HBM contents are treated as lost
(R549). -/
def systemReset (s : State) (lost : Bool) : State :=
  let s := endpointReset s
  refreshWake { State.reset with
    pending := s.pending, freeCtr := s.freeCtr, acc40 := s.acc40, fuses := s.fuses,
    mem := s.mem.filter (fun c => keptRow (c.1 / 512)),
    poison := s.poison.filter (fun w => keptRow (w / 8)),
    errOne := s.errOne.filter (fun w => keptRow (w / 8)),
    errMany := s.errMany.filter (fun w => keptRow (w / 8)),
    hbmStacks := s.hbmStacks.map (fun e => (e.1, resetStack e.2)),
    works := preemptedWorks s.works, spares := s.fuses.mapped, boot := { Boot.reset with bootSrc := s.boot.bootSrc },
    hbmLost := s.hbmLost || lost,
    perstN := s.perstN, endpointUp := s.perstN, legacy := s.legacy,
    stamp := { s.stamp with holder := 0, mpA := { holdMp s.stamp.mpA with releases := [] },
                            mpB := { holdMp s.stamp.mpB with releases := [] } },
    smbus := .reset s.smbus.strap,
    rind := s.rind, pads := { s.pads with hbm := [], ucie := [] }, m3 := s.m3, restarted := s.restarted }

/-- The Rind reset (R548, R466, R472): what the Rind holds, the counters that clear on it alone, and the strap that is sampled at
its end. -/
def rindReset (s : State) (strap : BitVec 2) : State :=
  { s with rind := .reset, stamp := .reset, smbus := .reset strap, restarted := [], pads := .reset, acc40 := 0 }

/-- A Rind reset is followed by a system reset, after which HBM contents are treated as lost (R548, R549). -/
def fullReset (s : State) (strap : BitVec 2) : State := systemReset (rindReset s strap) true

/-- AON_RST (R548). Without `VAON` nothing is powered. -/
def execAonRst (smbAddr : BitVec 2) (s : State) : Out := if s.m3 then .next s else .next (fullReset s smbAddr)

/-- SYS_RST (R548): in M2 and M3 there is no powered domain to reset. -/
def execSysRst (s : State) : Out :=
  if s.m3 || s.modulePd.st ≥ 2 then .next s else .next (systemReset s false)

/-- VAON_LOSS (R544): M3; nothing is kept but the fuse map and the flash. -/
def execVaonLoss (s : State) : Out :=
  let s := fullReset s 0
  .next { s with m3 := true, mem := s.mem.filter (fun c => placeOf (c.1 / 512) == .host), poison := [], errOne := [], errMany := [],
                 works := [] }

/-- VAON_RISE (R544, R548): from M3. -/
def execVaonRise (smbAddr : BitVec 2) (s : State) : Out :=
  if s.m3 then .next (fullReset { s with m3 := false } smbAddr) else .next s

/-! ## M2 (R525, R530, R531) -/

/-- Pads of the hub that are held in M2. -/
def holdHubPads (s : State) : State := { s with pads := { s.pads with xspi := true, elsfp := true, tdo := true } }

/-- Hub power is off: the module is in M2. -/
def inM2 (s : State) (lost : Bool) : State :=
  let s := systemReset (holdHubPads s) lost
  { s with modulePd := Power.reset 2, endpointUp := false }

/-- The module leaves M2: the hub is powered and boot may begin (R531). The SMBus port goes on with a stretched transaction
(R532). -/
def leaveM2 (s : State) : State :=
  { s with modulePd := settled s.modulePd 0, endpointUp := s.perstN, smbus := { s.smbus with sclHeld := false } }

/-! ## Entries (R525) -/

/-- The entry's conditions hold: a core asked to leave C1 (R259), a die's cores (R518), the module's dies (R518). -/
def canEnter (s : State) : Domain → Bool
  | .core c =>
    let co := getCore s c
    !(coreActive co) && co.startReq.isNone && !co.testing && co.hoops.all (fun h => !h.2.isOpen)
  | .die d => (coresOf d).all fun c => (getPower s (.core c)).st ≥ 2
  | .photonic _ => true
  | .module => (List.range Config.nDies).all (fun d => (getPower s (.die d)).st = 3) &&
      (List.range Config.nPhotonic).all fun k => (getPower s (.photonic k)).st = 1

/-- DOMAIN_ENTRY_BEGIN (R520, R525): the domain's permitted state is deeper than its state, and down. -/
def execDomainEntryBegin (dom : Domain) (s : State) : Out :=
  let p := getPower s dom
  let t := permitted s dom
  onDomain dom (if firmwareRuns s && p.entry.isNone && !p.waking && p.st < t && sleepState dom ≤ t && canEnter s dom then
    .next (setPower s dom { p with entry := some { target := t, committed := false } })
  else .next s)

/-- Neighbours of a die on the grid (R21, R39). -/
def dieLinks (d : Nat) : List (Nat × Nat) := ((List.range 24).map linkEnds).filter fun x => x.1 == d || x.2 == d

/-- What the point of no return leaves: held pads, and the stack in self refresh (R525, R530). -/
def passPoint (s : State) (dom : Domain) : State :=
  match dom with
  | .die d =>
    let s := (List.range Config.nStacks).foldl (fun s k =>
      if stackDie k = d then modStack s k fun x => { x with selfRefresh := true } else s) s
    let hbm := if (List.range Config.nStacks).any (fun k => stackDie k == d) then insNat s.pads.hbm d else s.pads.hbm
    { s with pads := { s.pads with
        hbm := hbm, ucie := s.pads.ucie ++ (dieLinks d).filter fun x => !(s.pads.ucie.contains x) } }
  | .module => holdHubPads s
  | _ => s

/-- Power is removed: the domain is in its deeper state; a latched wake is replayed at once (R527). -/
def finishEntry (s : State) (dom : Domain) (e : Entry) : State :=
  let latched := (getPower s dom).latch.isSome
  let s := match dom with
    | .module => inM2 s false
    | .photonic k => (portsOfPd k).foldl (fun s i =>
        if (getPort s i).link = .disabled then s else leaveUp s i .dark) s
    | .core c => coreDown s c e.target
    | .die _ => s
  modPower s dom fun p =>
    { p with st := e.target, entry := none, latch := none, waking := latched,
             replays := if latched then satInc 8 p.replays else p.replays }

/-- ENTRY_COMPLETE (R525): the first passes the point of no return, the next completes the entry. -/
def execEntryComplete (dom : Domain) (s : State) : Out :=
  let p := getPower s dom
  onDomain dom (match p.entry with
    | none => .next s
    | some e =>
      if e.committed then .next (finishEntry s dom e)
      else .next (passPoint (setPower s dom { p with entry := some { e with committed := true } }) dom))

/-- WAKE_COMPLETE (R528): the domain is ready and what stalled proceeds. A core waits for its die. -/
def execWakeComplete (dom : Domain) (s : State) : Out :=
  onDomain dom (
    if !((getPower s dom).waking) then .next s
    else match dom with
      | .core c => if dieUp s (dieOf c) then .next (coreUp s c) else .next s
      | .die d => .next (dieWake s d)
      | .photonic k => .next (photonicUp s k)
      | .module => .next (leaveM2 s))

/-- Every end of a link, or the domain of the pad, is ready (R530, R531). -/
def padReady (s : State) : Pad → Bool
  | .hbmPhy d => dieUp s d
  | .ucie a b => dieUp s a && dieUp s b
  | .xspi => s.modulePd.st < 2 && s.boot.begun
  | .elsfp => s.boot.stage == 3 || s.boot.stage == 4
  | .tdo => s.modulePd.st < 2 && s.rind.debugOpen

/-- The dies of a pad exist (R530). -/
def onPad (p : Pad) (o : Out) : Out :=
  match p with
  | .hbmPhy d => onDie d o
  | .ucie a b => onDie a (onDie b o)
  | .xspi => o
  | .elsfp => o
  | .tdo => o

/-- PAD_RELEASE (R531): ignored before the domain is ready. -/
def execPadRelease (pad : Pad) (s : State) : Out :=
  onPad pad (if !(padReady s pad) then .next s
  else match pad with
    | .hbmPhy d => .next { s with pads := { s.pads with hbm := delNat s.pads.hbm d } }
    | .ucie a b => .next { s with pads := { s.pads with
        ucie := s.pads.ucie.filter fun x => !(x == (a, b) || x == (b, a)) } }
    | .xspi => .next { s with pads := { s.pads with xspi := false } }
    | .elsfp => .next { s with pads := { s.pads with elsfp := false } }
    | .tdo => .next { s with pads := { s.pads with tdo := false } })

/-! ## Trips and supply faults (R543, R544, R581) -/

/-- THERM_TRIP (R543): power goes from every domain but the Rind, with no entry sequence. -/
def execThermTrip (die sensor : Nat) (s : State) : Out :=
  onAnyDie die (
    if s.m3 then .next s
    else
      let old := alertConds s
      let s := inM2 s true
      .next (refreshAlert old { s with
        rind := { s.rind with trip := true, thermtripN := false, hottest := max 115 s.rind.hottest },
        restarted := s.restarted ++ [(cThermTrip, die + (sensor <<< 8))] }))

/-- SUPPLY_FAULT (R544): the supply is latched. -/
def execSupplyFault (supply : Nat) (s : State) : Out :=
  if s.m3 || supply ≥ 5 then .next s
  else
    let old := alertConds s
    let s := inM2 s true
    .next (refreshAlert old { s with
      rind := { s.rind with supply := setNth s.rind.supply supply true },
      restarted := s.restarted ++ [(cSupply, supply)] })

/-! ## Wakes of the Rind (R526, R532) -/

/-- RIND_ALARM (R526): the alarm timer wakes the module from M2. -/
def execRindAlarm (s : State) : Out := .next (wakeEvent { s with rind := { s.rind with alarm := none } } .module .alarm)

/-- The module's SMBus address (R551). -/
def smbAddress (s : State) : BitVec 7 := 0x5A + s.smbus.strap.setWidth 7

/-- SMBUS_ADDRESS_MATCH (R532): in M2 the matcher acknowledges its own address, stretches the clock and wakes the module; another
address does neither. -/
def execSmbusAddressMatch (address : BitVec 7) (s : State) : Out :=
  if s.m3 || (s.modulePd.st < 2 && s.modulePd.entry.isNone) then .next s
  else if address != smbAddress s then .next { s with smbus := { s.smbus with acked := false } }
  else
    let held := s.modulePd.st ≥ 2 || (match s.modulePd.entry with
      | some e => e.committed
      | none => false)
    .next (wakeEvent { s with smbus := { s.smbus with acked := true, sclHeld := held } } .module .smbus)

/-! ## The host's pins and link (R476, R551, R557) -/

/-- PERST_ASSERT (R476). -/
def execPerstAssert (s : State) : Out := .next { endpointReset s with perstN := false }

/-- HOST_LINK_LOSS (R476): the endpoint is reset as by `PERST_N`, and trains again. -/
def execHostLinkLoss (s : State) : Out :=
  if s.endpointUp then .next { endpointReset s with endpointUp := true } else .next s

/-- CDI_M (R557): the management image's header measured with the mailbox mode. -/
def deriveCdiM (b : Boot) (mode : Byte) : BitVec 384 :=
  Config.hmac384 b.cdiA (leBytes 48 (Config.sha384 b.mgmtHeader).toNat ++ [mode])

/-- PERST_DEASSERT (R551): the mailbox mode is sampled and the endpoint trains; a mode other than the one measured is measured
afresh (R557), and a module in M2 wakes (R526). DESIGN CHOICE: works and commands of ledger mode end unrecorded when the mode sampled
is legacy (R476 and R507 do not say; log 83). -/
def execPerstDeassert (legacyStrap : Bool) (s : State) : Out :=
  if s.perstN then .next s
  else
    let s := if legacyStrap && !s.legacy then dropLegacy s else s
    let mode : Byte := if legacyStrap then 1 else 0
    let b := s.boot
    let up := !s.m3 && s.modulePd.st < 2
    let b' := if up then
        { b with modeByte := mode, cdiM := if b.modeByte != mode && !b.mgmtHeader.isEmpty then deriveCdiM b mode else b.cdiM }
      else b
    let s := { s with perstN := true, endpointUp := up, legacy := legacyStrap, boot := b' }
    .next (if s.m3 then s else wakeEvent s .module .perst)

end Sys2Proof.Machine
end

