-- ==== Sys2Proof/Machine/Smbus.lean ====
section
/-! DEFINITION. The SMBus port (R577, R596 to R598). `smbus.reply` holds what a read returns, without the bus framing (log 29). -/

namespace Sys2Proof.Machine

/-! ## Transactions -/

/-- The hub has power to answer, and no entry to M2 is past its point of no return. -/
def smbUp (s : State) : Bool :=
  hubOn s && (match s.modulePd.entry with
    | some e => !e.committed
    | none => true)

/-- A transaction that reaches the module: in M2 it wakes it and is answered later (R532, R598); an entry in progress is turned
back by it. Without `VAON` nothing answers. -/
def smbTalk (s : State) (f : State → State) : Out :=
  if s.m3 then .next s
  else if smbUp s then .next (f (if s.modulePd.entry.isSome then wakeEvent s .module .smbus else s))
  else .next (wakeEvent { s with smbus := { s.smbus with acked := true, sclHeld := true } } .module .smbus)

def smbReply (s : State) (bs : List Byte) : State := { s with smbus := { s.smbus with reply := bs, acked := true } }

/-- A transaction that is not acknowledged changes nothing else. -/
def smbNack (s : State) : State := { s with smbus := { s.smbus with reply := [], acked := false } }

/-! ## Registers -/

/-- SMB_IDENT_READ (R596, R587). -/
def execSmbIdentRead (s : State) : Out :=
  smbTalk s fun s => smbReply s (leBytes 8 s.fuses.serial.toNat ++ leBytes 2 0x1664 ++ leBytes 1 s.fuses.bin ++
    leBytes 1 s.fuses.siliconRev)

/-- `SMB_STATE` (R596). -/
def smbState (s : State) : Nat :=
  ((s.boot.stage % 16) <<< 4) + ((moduleState s % 4) <<< 2) + flagBit (smbLatch s.rind != 0) 1 + flagBit s.rind.debugOpen 0

/-- SMB_STATE_READ (R596). -/
def execSmbStateRead (s : State) : Out := smbTalk s fun s => smbReply s (leBytes 1 (smbState s))

/-- SMB_LATCH_READ (R597). -/
def execSmbLatchRead (s : State) : Out := smbTalk s fun s => smbReply s (leBytes 1 (smbLatch s.rind))

/-- A write of ones to `SMB_LATCH` (R597): a clear of `TRIP` while a comparator reads 95 °C or more is refused. -/
def clearLatch (r : Rind) (v : Byte) : Rind :=
  let b := fun (i : Nat) => v.getLsbD i
  let supply := r.supply.zipIdx.map fun x => x.1 && !(b (6 - x.2))
  let r := { r with supply := supply, coolantHeld := r.coolantHeld && !(b 1), clrRefused := r.clrRefused && !(b 0) }
  if !(b 7) || !r.trip then r
  else if 95 ≤ r.hottest then { r with clrRefused := true }
  else { r with trip := false, thermtripN := true, clrRefused := false }

/-- SMB_LATCH_WRITE (R597): without a good packet error code nothing changes. -/
def execSmbLatchWrite (pecOk : Bool) (value : Byte) (s : State) : Out :=
  smbTalk s fun s =>
    if pecOk then { s with rind := clearLatch s.rind value, smbus := { s.smbus with reply := [], acked := true } } else smbNack s

/-- The hottest of the sensors of a die as last read. -/
def hottestOf (ts : List Nat) : Byte := BitVec.ofNat 8 (ts.foldl max 0)

/-- `SMB_TEMP` (R596). -/
def smbTemps (s : State) : List Byte :=
  ((List.range Config.nDies).map fun d =>
    if (getPower s (.die d)).st = 3 then 0xFF else hottestOf (getDie s d).power.temps) ++
  ((List.range Config.nPhotonic).map fun k =>
    if (getPower s (.photonic k)).st = 1 then 0xFF else hottestOf (getPd s k).temps) ++ [hottestOf s.hubTemps]

/-- SMB_TEMP_READ (R596). -/
def execSmbTempRead (s : State) : Out := smbTalk s fun s => smbReply s (smbTemps s)

/-- SMB_POWER_READ (R596). -/
def execSmbPowerRead (s : State) : Out := smbTalk s fun s => smbReply s (leBytes 2 s.meter.avg100)

/-- SMB_ALARM_READ (R596). -/
def execSmbAlarmRead (s : State) : Out := smbTalk s fun s => smbReply s (leBytes 2 s.alarms.status.toNat)

/-- SMB_ALERT_EN_READ (R596). -/
def execSmbAlertEnRead (s : State) : Out := smbTalk s fun s => smbReply s (leBytes 2 s.smbus.alertEn.toNat)

/-- SMB_ALERT_EN_WRITE (R596, R598): bits with no flag ignore writes. -/
def execSmbAlertEnWrite (pecOk : Bool) (value : Half) (s : State) : Out :=
  smbTalk s fun s =>
    if pecOk then
      refreshAlert (alertConds s) { s with smbus := { s.smbus with alertEn := value &&& 0x3FE, reply := [], acked := true } }
    else smbNack s

/-- Assay firmware runs (R555, R556). -/
def assayRuns (s : State) : Bool := !s.boot.assayHeader.isEmpty && s.boot.stage ≥ 2

/-- A new nonce is a free value. -/
def issueNonce (s : State) : State :=
  match takeFree s with
  | (v, s) => smbReply { s with assay := { s.assay with nonce := some (leBytes 32 v) } } (leBytes 32 v)

/-- SMB_NONCE_READ (R596, R562): Assay firmware issues the nonce; while none runs the code is not acknowledged. -/
def execSmbNonceRead (s : State) : Out := smbTalk s fun s => if assayRuns s then issueNonce s else smbNack s

/-! ## The alert response and the bus timeout -/

/-- SMBUS_ALERT_RESPONSE (R598): while it asserts `ALERT_N` the module answers with its own address and lets go of the line. -/
def execSmbusAlertResponse (s : State) : Out :=
  if alertN s then .next (smbNack s)
  else smbTalk s fun s =>
    let s := smbReply s (leBytes 1 (2 * (smbAddress s).toNat))
    { s with smbus := { s.smbus with alertReleased := true } }

/-- SMBUS_TIMEOUT (R577): both lines are released and the port is reset; its registers stand. -/
def execSmbusTimeout (s : State) : Out :=
  .next { s with smbus := { s.smbus with reply := [], acked := false, sclHeld := false, mctp := [] } }

end Sys2Proof.Machine
end

