-- ==== Sys2Proof/Machine/LinkCommands.lean ====
section
/-! DEFINITION. The commands on links: module ID and routes (R408, R409), port_control (R390, R394, R411, R413), install_key (R561),
laser_service (R419); and set_reproducible (R145, R146). -/

namespace Sys2Proof.Machine

/-- SET_MODULE_ID (R408). -/
def execSetModuleId (seq : Nat) (s : State) : Out :=
  runCmd s seq 0x40 anyCmd fun bs =>
    fixResult { s with moduleId := some (BitVec.ofNat 16 (numAt bs 16 2)) } seq stOk []

/-- Write one entry of the route table: the dies' copies of it go (R409). -/
def writeRoute (s : State) (id : Nat) (e : Word) : State :=
  { s with routes := if e = 0 then tdel s.routes id else tput s.routes id e,
           dies := s.dies.map fun (d : Nat × Die) => (d.1, { d.2 with routeCache := tdel d.2.routeCache id }) }

/-- SET_ROUTES (R409, R491): together or not at all. Packets that wait for a route are tried again (R411). -/
def execSetRoutes (seq : Nat) (s : State) : Out :=
  runCmd s seq 0x41 anyCmd fun bs =>
    let n := numAt bs 28 4
    let data := hostRead s (numAt bs 16 8) (4 * n)
    let first := numAt bs 24 4
    match (List.range n).find? fun i => routeRefused (numAt data (4 * i) 4) with
    | some i => refuseField s seq 16 i
    | none =>
      fixResult (retryForwards
        ((List.range n).foldl (fun s i => writeRoute s (first + i) (BitVec.ofNat 32 (numAt data (4 * i) 4))) s)) seq stOk []

/-! ## port_control -/

def portOf (bs : List Byte) : Nat := numAt bs 16 1

/-- A command that names a port: it waits while a release or move locks the port (R438). -/
def onFreePort (s : State) (bs : List Byte) (act : State) : State := if portLocked s (portOf bs) then s else act

/-- The command carries an action of port_control. -/
def portAction (n : Nat) (bs : List Byte) : Bool := numAt bs 17 1 == n

/-- PORT_DISABLE (R390). -/
def execPortDisable (seq : Nat) (s : State) : Out :=
  runCmd s seq 0x42 (portAction 0) fun bs =>
    onFreePort s bs (fixResult (modPort (leaveUp s (portOf bs) .disabled) (portOf bs) fun p => { p with enabled := false }) seq stOk [])

/-- PORT_ENABLE (R390): in a state other than `DISABLED` nothing changes. -/
def execPortEnable (seq : Nat) (s : State) : Out :=
  runCmd s seq 0x42 (portAction 1) fun bs =>
    onFreePort s bs (fixResult (modPort s (portOf bs) fun p =>
      if p.link = .disabled then { p with link := .dark, enabled := true } else p) seq stOk [])

/-- FORWARDING_OFF (R411). -/
def execForwardingOff (seq : Nat) (s : State) : Out :=
  runCmd s seq 0x42 (portAction 2) fun bs =>
    onFreePort s bs (fixResult (modPort s (portOf bs) fun p => { p with forwarding := false }) seq stOk [])

/-- FORWARDING_ON (R411): packets that wait for a forwarding port are tried again. -/
def execForwardingOn (seq : Nat) (s : State) : Out :=
  runCmd s seq 0x42 (portAction 3) fun bs =>
    onFreePort s bs (fixResult (retryForwards (modPort s (portOf bs) fun p => { p with forwarding := true })) seq stOk [])

/-- PREFER_LEADER (R394): a follower that is `UP` asks for the role. -/
def execPreferLeader (seq : Nat) (s : State) : Out :=
  runCmd s seq 0x42 (portAction 4) fun bs =>
    onFreePort s bs (fixResult (modPort s (portOf bs) fun p =>
      { p with policy := 1, requestPending := p.requestPending || (p.link == .up && !p.leader) }) seq stOk [])

/-- PREFER_FOLLOWER (R394): a leader that is `UP` offers the role. -/
def execPreferFollower (seq : Nat) (s : State) : Out :=
  runCmd s seq 0x42 (portAction 5) fun bs =>
    onFreePort s bs (fixResult (modPort s (portOf bs) fun p =>
      { p with policy := 2, requestPending := p.requestPending || (p.link == .up && p.leader) }) seq stOk [])

/-- ENCRYPTION_OFF (R413): from the next training on. -/
def execEncryptionOff (seq : Nat) (s : State) : Out :=
  runCmd s seq 0x42 (portAction 6) fun bs =>
    onFreePort s bs (fixResult (modPort s (portOf bs) fun p => { p with encWanted := false }) seq stOk [])

/-- ENCRYPTION_ON (R413, R564). -/
def execEncryptionOn (seq : Nat) (s : State) : Out :=
  runCmd s seq 0x42 (portAction 7) fun bs =>
    onFreePort s bs (if s.rind.debugOpen then refuseState s seq 16
      else fixResult (modPort s (portOf bs) fun p => { p with encWanted := true }) seq stOk [])

/-! ## install_key (R561, R564) -/

/-- A key and its salt from the 36 bytes that an unwrap gives. -/
def linkKeyOf (bs : List Byte) : LinkKey := { key := BitVec.ofNat 256 (numAt bs 0 32), salt := BitVec.ofNat 32 (numAt bs 32 4) }

/-- INSTALL_KEY (R561). -/
def execInstallKey (seq : Nat) (s : State) : Out :=
  runCmd s seq 0x43 anyCmd fun bs =>
    let w := hostRead s (numAt bs 24 8) 146
    onFreePort s bs (if s.rind.debugOpen then refuseState s seq 16
      else if numAt w 0 1 != 1 then refuseField s seq 24 0
      else match Config.unwrapKey s.boot.agreement ((w.drop 1).take 97) s.fuses.serial (BitVec.ofNat 8 (portOf bs)) (w.drop 98) with
        | none => refusePerm s seq 0 0
        | some k => fixResult (modPort s (portOf bs) fun p => { p with keyNext := some (linkKeyOf k) }) seq stOk [])

/-! ## laser_service (R419) -/

def laserAction (n : Nat) (bs : List Byte) : Bool := numAt bs 18 1 == n

def laserOf (d : Photonic) (b : Bool) : Laser := if b then d.lsB else d.lsA

def setLaser (d : Photonic) (b : Bool) (l : Laser) : Photonic := if b then { d with lsB := l } else { d with lsA := l }

/-- LASER_RELEASE (R419 steps 1 and 2): all ports take the other input, at full output, and the module is powered down. -/
def execLaserRelease (seq : Nat) (s : State) : Out :=
  runCmd s seq 0x44 (laserAction 0) fun bs =>
    let k := numAt bs 16 1
    let b := numAt bs 17 1 == 1
    let d := getPd s k
    if d.service.isSome || !(laserOf d b).present then refuseState s seq 17
    else if !(laserOk (laserOf d (!b))) then refuseState s seq 16
    else
      let s := switchInputs s k (!b) (!b)
      fixResult (modPd s k fun d =>
        let d := setLaser d b { present := false, full := false, failed := false }
        { setLaser d (!b) { laserOf d (!b) with full := true } with service := some b }) seq stOk []

/-- LASER_RESTORE (R419 steps 3 and 4): whether the new module passes its check is not the module's to say: a free value. -/
def execLaserRestore (seq : Nat) (s : State) : Out :=
  runCmd s seq 0x44 (laserAction 1) fun bs =>
    let k := numAt bs 16 1
    let b := numAt bs 17 1 == 1
    if (getPd s k).service != some b then refuseState s seq 17
    else match takeFree s with
      | (v, s) =>
        if v % 2 = 0 then fixResult s seq stHwFail (leBytes 4 k)
        else
          let s := modPd s k fun d =>
            { setLaser (setLaser d b { present := true, full := false, failed := false }) (!b)
                { laserOf d (!b) with full := false } with service := none }
          fixResult (switchInputs s k false true) seq stOk []

/-! ## set_reproducible (R145, R146) -/

/-- Layers that have begun, with their cores. -/
def runningLayers (s : State) : List (Nat × Nat) :=
  s.cores.flatMap fun (e : Nat × Core) => (e.2.press.filter fun j => j.st != .queued).map fun j => (e.1, j.idx)

/-- SET_REPRODUCIBLE (R146): the mode changes for checks that begin from here; the command completes once the layers that began
before have drained. -/
def execSetReproducible (seq : Nat) (s : State) : Out :=
  runCmd s seq 0x50 anyCmd fun bs =>
    let s := { s with reproducible := numAt bs 16 1 == 1 }
    match runningLayers s with
    | [] => fixResult s seq stOk []
    | ls => { beginCmd s seq with reproWait := s.reproWait ++ [(seq, ls)] }

end Sys2Proof.Machine
end

