-- ==== Sys2Proof/Machine/Stamp.lean ====
section
/-! DEFINITION. The stamp (R466 to R472), hub control writes (R469) and the requests to Assay firmware (R465). -/

namespace Sys2Proof.Machine

/-- `HOLDER` code of a processor (R472). -/
def mpCode : Mp → Nat
  | .a => 1
  | .b => 2

def otherMp : Mp → Mp
  | .a => .b
  | .b => .a

def mpOf (t : Stamp) : Mp → Processor
  | .a => t.mpA
  | .b => t.mpB

def setMp (t : Stamp) (m : Mp) (p : Processor) : Stamp :=
  match m with
  | .a => { t with mpA := p }
  | .b => { t with mpB := p }

/-- The processor that holds the stamp. -/
def holderMp (t : Stamp) : Option Mp := if t.holder = 1 then some .a else if t.holder = 2 then some .b else none

/-- Management processors have been released by Assay firmware (R555). -/
def mpsReleased (s : State) : Bool := s.boot.stage == 3 || s.boot.stage == 4

/-- The epoch has reached its largest value: no other processor is granted the stamp (R466). -/
def epochMax (t : Stamp) : Bool := t.epoch == 0xFFFFFFFF

/-- Grant the stamp to a processor that does not hold it (R466): the epoch rises by one. A grant that takes it from the other
processor is an alarm (R589). -/
def grantStamp (s : State) (m : Mp) (prev : Option Mp) : State :=
  let t := s.stamp
  let p := mpOf t m
  let t := setMp { t with epoch := t.epoch + 1, holder := mpCode m, grantCount := satInc 32 t.grantCount } m
    { p with held := false, current := true, claim := none, lastEpoch := t.epoch + 1 }
  let s := { s with stamp := t }
  if prev = some (otherMp m) then raiseAlarm s alStampPassed else s

/-- Hold a processor in reset. -/
def holdOne (s : State) (m : Mp) : State := { s with stamp := setMp s.stamp m (holdMp (mpOf s.stamp m)) }

/-- HEARTBEAT (R468). -/
def execHeartbeat (mp : Mp) (s : State) : Out :=
  let p := mpOf s.stamp mp
  if mpsReleased s && !p.held then .next { s with stamp := setMp s.stamp mp { p with current := true } } else .next s

/-- HEARTBEAT_LAPSE (R468): a lapsed processor is not live, so its claim of this cycle does not count (R471). -/
def execHeartbeatLapse (mp : Mp) (s : State) : Out :=
  .next { s with stamp := setMp s.stamp mp { mpOf s.stamp mp with current := false, claim := none } }

/-- STAMP_CLAIM (R467, R471): the holder's claim against its own stamp changes nothing. -/
def execStampClaim (mp : Mp) (epoch : Word) (s : State) : Out :=
  let p := mpOf s.stamp mp
  if !(mpsReleased s) || p.held || holderMp s.stamp = some mp then .next s
  else .next { s with stamp := setMp s.stamp mp { p with claim := some epoch } }

/-- The higher epoch wins; on equal ones MP-A does (R467 step 3). -/
def winner (m : Mp) (own other : Word) : Mp :=
  if own.toNat > other.toNat then m else if other.toNat > own.toNat then otherMp m else .a

/-- Claims are gone at the end of the cycle. -/
def dropClaims (s : State) : State :=
  { s with stamp := { s.stamp with mpA := { s.stamp.mpA with claim := none }, mpB := { s.stamp.mpB with claim := none } } }

/-- No processor holds the stamp: the claims are compared with each other (R467 steps 2 to 4). -/
def settleClaims (s : State) (prev : Option Mp) : State :=
  match s.stamp.mpA.claim, s.stamp.mpB.claim with
  | some a, some b => let w := winner .a a b; holdOne (grantStamp s w prev) (otherMp w)
  | some _, none => grantStamp s .a prev
  | none, some _ => grantStamp s .b prev
  | none, none => s

/-- The holder has lapsed (R467 step 1, R471): the other processor is granted the stamp when it claims it or its heartbeat is
current; else a lapsed processor is restarted and granted it, MP-A when both have lapsed. -/
def afterLapse (s : State) (h : Mp) : State :=
  let o := mpOf s.stamp (otherMp h)
  let s := { holdOne s h with stamp := { (holdOne s h).stamp with holder := 0 } }
  if epochMax s.stamp then
    let p := { mpOf s.stamp h with held := false, current := true, claim := none }
    { s with stamp := setMp { s.stamp with holder := mpCode h } h p }
  else if !o.held && (o.current || o.claim.isSome) then grantStamp s (otherMp h) (some h)
  else if o.held then grantStamp s h (some h)
  else grantStamp (holdOne s (otherMp h)) .a (some h)

/-- ASSAY_CYCLE (R467). -/
def execAssayCycle (s : State) : Out :=
  if !(mpsReleased s) then .next s
  else match holderMp s.stamp with
    | none => .next (dropClaims (if epochMax s.stamp then s else settleClaims s none))
    | some h =>
      if !((mpOf s.stamp h).current) then .next (dropClaims (afterLapse s h))
      else match (mpOf s.stamp (otherMp h)).claim with
        | none => .next s
        | some e =>
          if winner h s.stamp.epoch e = h || epochMax s.stamp then .next (dropClaims (holdOne s (otherMp h)))
          else .next (dropClaims (holdOne (grantStamp s (otherMp h) (some h)) h))

/-- STANDBY_RELEASE (R468): at most three times in an hour. -/
def execStandbyRelease (mp : Mp) (s : State) : Out :=
  let p := mpOf s.stamp mp
  if mpsReleased s && p.held && !(spentReleases s p) then
    let p := { p with held := false, current := false, releases := p.releases ++ [s.rind.time.toNat] }
    .next { s with stamp := setMp s.stamp mp p }
  else .next s

/-- RESTART_STANDBY (R468): a processor held after three releases. -/
def execRestartStandby (seq : Nat) (s : State) : Out :=
  runCmd s seq 0x71 anyCmd fun _ =>
    match (holderMp s.stamp).map otherMp with
    | none => refuseState s seq 0
    | some m =>
      let p := mpOf s.stamp m
      if p.held && spentReleases s p then
        fixResult { s with stamp := setMp s.stamp m { p with held := false, current := false, releases := [] } } seq stOk []
      else refuseState s seq 0

/-! ## Hub control state (R469) -/

/-- What an accepted write changes. -/
def applyHubWrite (s : State) : HubWrite → State
  | .route id e => writeRoute s id.toNat e
  | .retain c m => modCore s c fun co => { co with retain := m }
  | .vote d v => setVote s d .firmware (some (min v (deepest d)))

/-- The parts that a write names exist. -/
def onHubWrite (w : HubWrite) (o : Out) : Out :=
  match w with
  | .route _ _ => o
  | .retain c _ => onCore c o
  | .vote d _ => onDomain d o

/-- HUB_CONTROL_WRITE (R469): a write whose epoch is not the present one is dropped and counted. No processor that runs, no
write. -/
def execHubControlWrite (epoch : Word) (write : HubWrite) (s : State) : Out :=
  onHubWrite write (if !(mpsReleased s) then .next s
  else if epoch != s.stamp.epoch then .next { s with stamp := { s.stamp with staleCount := satInc 32 s.stamp.staleCount } }
  else .next (applyHubWrite s write))

/-! ## The Assay request port (R465) -/

/-- What Assay firmware applies; none when it refuses. -/
def assayApply (s : State) : AssayReq → Option State
  | .sustained w => if 1600 ≤ w && w ≤ 2800 then some { s with assay := { s.assay with sustained := w } } else none
  | .throttlePoint c =>
    if 85 ≤ c && c ≤ s.assay.throttlePoint then some { s with assay := { s.assay with throttlePoint := c } } else none
  | .fenceForLife c =>
    if (getCore s c).service == .fenced && c < Config.nCores then
      some (recordForLife s c) else none
  | .transient _ => none
  | .trip _ => none

/-- A request is answered either way. -/
def askAssay (s : State) (r : AssayReq) : State × Bool :=
  match assayApply s r with
  | some s => ({ s with assay := { s.assay with answer := some true } }, true)
  | none => ({ s with assay := { s.assay with answer := some false } }, false)

/-- ASSAY_REQUEST (R465). -/
def execAssayRequest (request : AssayReq) (s : State) : Out :=
  if mpsReleased s then .next (askAssay s request).1 else .next s

/-- A request_limit command: a refused limit is a failed Assay check (R490). -/
def requestLimit (seq : Nat) (s : State) (r : AssayReq) : State :=
  match askAssay s r with
  | (s, true) => fixResult s seq stOk []
  | (s, false) => refusePerm s seq 0 0

def limitKind (k : Nat) (bs : List Byte) : Bool := numAt bs 16 1 == k

/-- REQUEST_POWER_LIMIT (R465). -/
def execRequestPowerLimit (seq : Nat) (s : State) : Out :=
  runCmd s seq 0x52 (limitKind 0) fun bs => requestLimit seq s (.sustained (numAt bs 20 4))

/-- REQUEST_THROTTLE_POINT (R465). -/
def execRequestThrottlePoint (seq : Nat) (s : State) : Out :=
  runCmd s seq 0x52 (limitKind 1) fun bs => requestLimit seq s (.throttlePoint (numAt bs 20 4))

end Sys2Proof.Machine
end

