-- ==== Sys2Proof/Machine/Boot.lean ====
section
/-! DEFINITION. Boot (R550 to R556), measurement (R557) and the debug port (R562 to R564). -/

namespace Sys2Proof.Machine

/-! ## Images (R553, R554) -/

def allZero (bs : List Byte) (off n : Nat) : Bool := ((bs.drop off).take n).all (· == 0)

/-- An image is valid: its fields, size, key, signature, payload and security version (R554). -/
def imageValid (f : Fuses) (kind : Nat) (img : List Byte) : Bool :=
  let k := numAt img 6 2
  let len := numAt img 12 4
  let pub := (img.drop 64).take 97
  let payload := (img.drop 512).take len
  numAt img 0 4 == 0x4741494F && numAt img 4 1 == kind && numAt img 5 1 == 1 &&
  allZero img 20 44 && allZero img 161 15 && allZero img 320 192 &&
  512 + len ≤ img.length && 512 + len ≤ (if kind = 1 then 2 ^ 20 else 2 ^ 24) &&
  k < 4 && Config.sha384 pub == nth f.rootKeyHash k 0 && !(nth f.keyRevoked k true) &&
  Config.ecdsaVerify pub (Config.sha384 (img.take 224)) ((img.drop 224).take 96) &&
  numAt img 176 48 == (Config.sha384 payload).toNat &&
  (if kind = 1 then f.svnAssay else f.svnMgmt) ≤ numAt img 8 4

/-! ## The chain (R555, R556) -/

/-- Both management processors are held in reset, and boot stays at a failure. -/
def bootFails (s : State) (stage : Nat) : State :=
  { s with boot := { s.boot with stage := stage },
           stamp := { s.stamp with holder := 0, mpA := holdMp s.stamp.mpA, mpB := holdMp s.stamp.mpB } }

/-- The Rind lets boot begin: the hub is powered and no trip or supply latch is set (R550, R597). -/
def bootMayBegin (s : State) : Bool :=
  !s.m3 && s.modulePd.st < 2 && !s.boot.begun && !s.rind.trip && !(s.rind.supply.any id)

/-- BOOT_BEGIN (R550, R555): `BOOT_SRC` is sampled and the boot ROM runs the hub self test, checks the fuse map, releases the flash
pads and resets the flash. -/
def execBootBegin (bootSrc : Bool) (selfTest fuseCheck flashAnswers : Bool) (s : State) : Out :=
  if !(bootMayBegin s) then .next s
  else
    let s := { s with boot := { s.boot with begun := true, bootSrc := bootSrc, slot := bootSrc, tried := [] } }
    if !selfTest then .next (bootFails s 9)
    else if !fuseCheck then .next (bootFails s 12)
    else
      let s := { s with pads := { s.pads with xspi := false } }
      if !flashAnswers then .next (bootFails s 10)
      else .next { s with boot := { s.boot with stage := 1 } }

/-- A slot's pair is given up: the boot ROM takes the other slot, or boot fails (R555, R556). -/
def giveUpSlot (s : State) : State :=
  let b := s.boot
  let tried := b.slot :: b.tried
  if tried.contains (!b.slot) then bootFails { s with boot := { b with tried := tried } } 8
  else { s with boot := { b with tried := tried, slot := !b.slot, stage := 1 } }

/-- The configuration byte of R557. -/
def configByte (s : State) : Byte := BitVec.ofNat 8 (flagBit s.rind.debugOpen 0 + flagBit s.boot.slot 1)

/-- ASSAY_IMAGE_READ (R555): a valid image is measured into CDI_A and its firmware starts. -/
def execAssayImageRead (image : List Byte) (s : State) : Out :=
  if s.boot.stage != 1 then .next s
  else if !(imageValid s.fuses 1 image) then .next (giveUpSlot s)
  else
    let h := image.take 224
    let cdi := Config.hmac384 s.fuses.uds (leBytes 48 (Config.sha384 h).toNat ++ [configByte s])
    .next { s with boot := { s.boot with stage := 2, assayHeader := h, cdiA := cdi, agreement := Config.deriveAgreement cdi } }

/-- Assay firmware releases both processors and grants the stamp to MP-A (R555, R466). At the largest epoch it grants it to no
other. -/
def startProcessors (s : State) : State :=
  let up := fun (p : Processor) => { p with held := false, current := true, claim := none }
  let s := { s with stamp := { s.stamp with mpA := up s.stamp.mpA, mpB := up s.stamp.mpB } }
  if epochMax s.stamp then s else grantStamp s .a none

/-- MANAGEMENT_IMAGE_READ (R555): a valid image is measured into CDI_M, loaded and started. -/
def execManagementImageRead (image : List Byte) (s : State) : Out :=
  if s.boot.stage != 2 then .next s
  else if !(imageValid s.fuses 2 image) then .next (giveUpSlot s)
  else
    let b := { s.boot with stage := 3, mgmtHeader := image.take 224,
                           fwVersion := BitVec.ofNat 32 (leNat ((image.drop 16).take 4).reverse) }
    .next (startProcessors { s with boot := { b with cdiM := deriveCdiM b b.modeByte } })

/-- The live phases that the phase tests of stage 3 find: dies 0 to 15, 16 to 19 and 20. A test that gives none finds all. -/
def setPhases (s : State) (phases : List Nat) : State :=
  let s := eachDie s fun s d =>
    let n := min 14 (nth phases d 14)
    if n = 14 then s
    else modDie s d fun x => { x with power := { x.power with livePhases := n, phaseCeil := some (phasePoint n) } }
  let s := (List.range Config.nPhotonic).foldl (fun s k => modPd s k fun x => { x with livePhases := min 6 (nth phases (16 + k) 6) }) s
  eachDie { s with hubPhases := min 4 (nth phases 20 4) } retarget

/-- What has to be reported after a restart (R543, R544, R547, R589). -/
def reportRestart (s : State) : State :=
  if s.restarted.isEmpty then s
  else
    let s' := raiseAlarm { s with restarted := [] } alRestarted
    s.restarted.foldl (fun s e => queueRec s (fwRec s e.1 0 e.2) 0 0) s'

/-- FIRMWARE_READY (R555): the mailbox is served from here. Rows of the repair log have had their hard repair (R319). A coolant
input still low acts now (R581). -/
def execFirmwareReady (phases : List Nat) (s : State) : Out :=
  if s.boot.stage != 3 then .next s
  else
    let s := { s with boot := { s.boot with stage := 4 }, pads := { s.pads with elsfp := false },
                      hbmStacks := s.hbmStacks.map fun (e : Nat × Stack) => (e.1, { e.2 with selfRefresh := false }) }
    let s := reportRestart (setPhases (hardRepair s) phases)
    .next (if s.rind.coolantLow then coolantStep s else s)

/-- BOOT_TIMEOUT (R556). -/
def execBootTimeout (s : State) : Out := if s.boot.stage = 3 then .next (bootFails s 11) else .next s

/-! ## The debug port (R562 to R564) -/

/-- A debug token is valid (R562). -/
def tokenValid (s : State) (t : List Byte) : Bool :=
  t.length == 256 && numAt t 0 2 == 1 && allZero t 2 2 && allZero t 141 19 && numAt t 4 8 == s.fuses.serial.toNat &&
  s.assay.nonce == some ((t.drop 12).take 32) && Config.sha384 ((t.drop 44).take 97) == s.fuses.debugKeyHash &&
  Config.ecdsaVerify ((t.drop 44).take 97) (Config.sha384 (t.take 160)) (t.drop 160)

/-- The keys of a port are zeroised. -/
def eraseKeys (p : Port) : Port := { p with keyCur := .reset, keyRx := .reset, keyNext := none, keyTxAt := none, keyRxAt := none }

/-- Assay firmware opens the debug port (R563). -/
def openDebug (s : State) : State :=
  let ports := List.range Config.nPorts
  let s := ports.foldl (fun s k =>
    if (getPort s k).encOn then modPort (leaveUp s k .disabled) k fun p => { p with enabled := false } else s) s
  let s := ports.foldl (fun s k => modPort s k eraseKeys) s
  { s with boot := { s.boot with agreement := 0 }, rind := { s.rind with debugOpen := true }, pads := { s.pads with tdo := false } }

/-- DEBUG_UNLOCK (R562): ignored after 8 invalid tokens. -/
def execDebugUnlock (token : List Byte) (s : State) : Out :=
  if !(assayRuns s) || s.rind.debugOpen || s.assay.unlockBarred then .next s
  else if tokenValid s token then .next (openDebug s)
  else
    let n := satInc 32 s.assay.debugRefused
    .next { s with assay := { s.assay with debugRefused := n, unlockBarred := decide (n ≥ 8) } }

end Sys2Proof.Machine
end

