-- ==== Sys2Proof/Machine/Partitions.lean ====
section
/-! DEFINITION. Partitions (R424 to R444): creation and destruction, lists of resource records (R492), binding (R430), release and move
(R431 to R438), the power of partitions and their gating (R442, R443). -/

namespace Sys2Proof.Machine

/-! ## Lists of records (R492) -/

/-- A list of records applied one after another: the state after all, or the first refused one, as a field or a resource. -/
inductive Applied where
  | done (s : State)
  | refused (field : Bool) (i : Nat)

def applyRecords (bad : Nat → Bool) (f : State → Nat → Option State) : Nat → List Nat → State → Applied
  | _, [], s => .done s
  | i, r :: rs, s =>
    if bad r then .refused true i
    else match f s r with
      | some s => applyRecords bad f (i + 1) rs s
      | none => .refused false i

/-- The result of a command whose list is refused; it changes nothing else (R426). -/
def refuseList (s : State) (seq : Nat) (field : Bool) (i : Nat) : State :=
  if field then refuseField s seq 16 i else refuseResource s seq i

/-! ## Limits (R425, R442) -/

/-- `PWR_PART` (R442). -/
def pwrPart (s : State) : Nat := s.assay.sustained - 400

def sumParts (s : State) (f : Partition → Nat) : Nat := s.partitions.foldl (fun n e => n + f e.2) 0

/-- Host pages of the host window (R317). -/
def hostPages : Nat := (2 ^ 52 - 2 ^ 44) / 2 ^ 21

/-- Hoops of a partition that name a place translate it again, and accept the core bound into it (R249). -/
def renameHoops (s : State) (part place : Nat) (g : Option Nat) : State :=
  { s with cores := s.cores.map fun (e : Nat × Core) =>
      if e.2.part == part then
        (e.1, { e.2 with hoops := e.2.hoops.map fun (h : Nat × Hoop) =>
          if h.2.srcKind == 0 && h.2.src == place then (h.1, { h.2 with srcCore := g, fenced := h.2.fenced && g.isNone }) else h })
      else e }

/-! ## Binding (R430) -/

/-- A core's place in the tables: hoops that name the place find it, and it issues in every cycle. -/
def enterPlace (s : State) (part place g : Nat) (retain : Half) : State :=
  let s := modPart s part fun p => { p with places := tput p.places place g }
  let s := modCore s g fun co => { co with part := part, place := place, retain := retain, ctu := [], gate := 16 }
  renameHoops s part place (some g)

/-- A core takes a place: it is awake in C1 under the partition's vote (R430, R522). -/
def placeCore (s : State) (part place g : Nat) (retain : Half) : State :=
  modPower (enterPlace (coreAwake s g) part place g retain) (.core g) fun p => { p with votes := tput p.votes (0x10 + part) 1 }

/-- A moved core takes its place. One in C3 stays there through the move, and the receiving partition's vote wakes it (R438, R522). -/
def moveCore (s : State) (part place g : Nat) (retain : Half) : State :=
  if (getPower s (.core g)).st = 3 then setVote (enterPlace s part place g retain) (.core g) (.partition part) (some 1)
  else placeCore s part place g retain

/-- A core of the free pool with a poisoned row is zeroised before it is bound (R460). -/
def clearMarked (s : State) (g : Nat) : State :=
  let poisoned := s.poison.any fun x => match placeOf (x / 8) with
    | .store c _ _ => c == g
    | _ => false
  if poisoned then zeroiseCore s g else s

/-- Bind one record's resource from the free pool into a partition; `all` is the whole list (a retention record may stand before
the core that it is for). None when R426 refuses it. -/
def bindRecord (part : Nat) (all : List Nat) (s : State) (r : Nat) : Option State :=
  match getPart s part with
  | none => none
  | some p =>
    match recKind r with
    | 0 =>
      let g := recCore r
      let c := recPlace r
      if g < Config.nCores && c < 896 && (getCore s g).service == .inService && (getCore s g).part == 0 &&
         (tget? p.places c).isNone && !(s.recoveries.any fun x => x.spare == some g)
      then some (placeCore (clearMarked s g) part c g (tget p.retain c 0)) else none
    | 1 =>
      if pagePopulated (recPhys r) && (tget? p.pages (recPage r)).isNone &&
         !(s.partitions.any fun e => e.2.pages.any fun x => x.2 == recPhys r)
      then some (setPart s part { p with pages := tput p.pages (recPage r) (recPhys r) }) else none
    | 2 =>
      let k := recPort r
      if (getPort s k).part == 0 then
        some (modPort (setPart s part { p with ports := insNat p.ports k }) k fun x =>
          { x with part := part, forwarding := bitAt r 6 })
      else none
    | 3 =>
      let k := recUnit r
      if sumParts s (fun x => tget x.hbmGrains k 0) + recGrains r ≤ 240 then
        some (setPart s part { p with hbmGrains := tput p.hbmGrains k (tget p.hbmGrains k 0 + recGrains r) }) else none
    | 4 =>
      let k := recUnit r
      if sumParts s (fun x => tget x.meshGrains k 0) + recGrains r ≤ 240 then
        some (setPart s part { p with meshGrains := tput p.meshGrains k (tget p.meshGrains k 0 + recGrains r) }) else none
    | 5 =>
      if sumParts s (·.power) + recWatts r ≤ pwrPart s then some (setPart s part { p with power := p.power + recWatts r })
      else none
    | 6 =>
      let c := recPlace r
      let s := setPart s part { p with retain := tput p.retain c (recMask r) }
      match tget? p.places c with
      | some g => some (modCore s g fun co => { co with retain := recMask r })
      | none => if all.any fun x => recKind x == 0 && recPlace x == c then some s else none
    | _ =>
      let k := recPage r
      if recHostPage r < hostPages && (tget? p.hostPages k).isNone && !(p.hostPages.any fun x => x.2.page == recHostPage r) &&
         sumParts s (fun x => x.hostPages.length) < 131072
      then some (setPart s part { p with
        hostPages := tput p.hostPages k { page := recHostPage r, rd := bitAt r 57, wr := bitAt r 58 } })
      else none

/-! ## create_partition, destroy_partition (R424, R427) -/

/-- CREATE_PARTITION (R424). -/
def execCreatePartition (seq : Nat) (s : State) : Out :=
  runCmd s seq 0x10 anyCmd fun bs =>
    let p := cmdPart bs
    if (getPart s p).isSome then refuseState s seq 2
    else fixResult (setPart s p (Partition.empty (BitVec.ofNat 32 (numAt bs 16 4)))) seq stOk []

/-- The partition holds no resource. -/
def holdsNothing (p : Partition) : Bool :=
  p.places.isEmpty && p.pages.isEmpty && p.hostPages.isEmpty && p.ports.isEmpty && p.power == 0 &&
  p.hbmGrains.all (fun x => x.2 == 0) && p.meshGrains.all (fun x => x.2 == 0)

/-- DESTROY_PARTITION (R427). A release or move of the partition that is in progress holds it back (R438). -/
def execDestroyPartition (seq : Nat) (s : State) : Out :=
  runCmd s seq 0x11 anyCmd fun bs =>
    match getPart s (cmdPart bs) with
    | some p =>
      if s.cmds.any fun e => e.2.draining && (cmdPart e.2.bytes == cmdPart bs || recvOf e.2.bytes == some (cmdPart bs)) then s
      else if holdsNothing p then fixResult { s with partitions := tdel s.partitions (cmdPart bs) } seq stOk []
      else refuseState s seq 2
    | none => refuseState s seq 2

/-! ## bind_resources (R430) -/

/-- Pages of the free pool that a bind names and a mark has reached since they were zeroised (R460). -/
def markedPages (s : State) (recs : List Nat) : List Nat :=
  (recs.filter fun r => recKind r == 1).map recPhys |>.filter fun pg =>
    !(s.partitions.any fun e => e.2.pages.any fun x => x.2 == pg) &&
    s.poison.any fun w => w / 2 ^ 15 == pg

/-- Pages join the queues of those to be zeroised (R436). -/
def queuePages (s : State) (pages : List Nat) : State :=
  pages.foldl (fun s pg => modStack s (pg / 32768 % 8) fun k => { k with zeroQueue := k.zeroQueue ++ [pg] }) s

/-- A page of the list waits to be zeroised (R436). -/
def pagesQueued (s : State) (recs : List Nat) : Bool :=
  recs.any fun r => recKind r == 1 && (getStack s (recPhys r / 32768 % 8)).zeroQueue.contains (recPhys r)

/-- BIND_RESOURCES (R430). A bind that names a locked resource or a page that is being zeroised waits (R436, R438); one that a
mark has reached is zeroised first (R460). -/
def execBindResources (seq : Nat) (s : State) : Out :=
  runCmd s seq 0x12 anyCmd fun bs =>
    let part := cmdPart bs
    let recs := readRecords s bs
    if (getPart s part).isNone then refuseState s seq 2
    else if anyLocked s (locksOf s true part none recs) || pagesQueued s recs then s
    else if !(markedPages s recs).isEmpty then queuePages s (markedPages s recs)
    else match applyRecords (recMalformed true) (bindRecord part recs) 0 recs s with
      | .done s => fixResult s seq stOk []
      | .refused field i => refuseList s seq field i

/-! ## release_resources, move_resources (R431 to R438) -/

/-- Take one record's resource out of a partition's tables and, in a move, put it into the receiver's (R432 steps 4 and 6, R492). A
moved resource keeps its place, number, enable and permissions. None when the record is refused. -/
def takeRecord1 (part : Nat) (recv : Option Nat) (all : List Nat) (s : State) (r : Nat) : Option State :=
  match getPart s part with
  | none => none
  | some p =>
    let give := fun (s : State) (f : Partition → Partition) => match recv with
      | some q => modPart s q f
      | none => s
    let free := fun (ok : Partition → Bool) => match recv.bind (getPart s) with
      | some q => ok q
      | none => recv.isNone
    match recKind r with
    | 0 =>
      let c := recPlace r
      match tget? p.places c with
      | some g =>
        if free (fun q => (tget? q.places c).isNone) then
          some (give (setPart s part { p with places := tdel p.places c, retain := tdel p.retain c })
            fun q => { q with places := tput q.places c g })
        else none
      | none => none
    | 1 =>
      let k := recPage r
      match tget? p.pages k with
      | some g =>
        if free (fun q => (tget? q.pages k).isNone) then
          some (give (setPart s part { p with pages := tdel p.pages k }) fun q => { q with pages := tput q.pages k g })
        else none
      | none => none
    | 2 =>
      let k := recPort r
      if p.ports.contains k then
        some (give (setPart s part { p with ports := delNat p.ports k }) fun q => { q with ports := insNat q.ports k })
      else none
    | 3 =>
      let k := recUnit r
      let n := recGrains r
      if n ≤ tget p.hbmGrains k 0 then
        some (give (setPart s part { p with hbmGrains := tput p.hbmGrains k (tget p.hbmGrains k 0 - n) })
          fun q => { q with hbmGrains := tput q.hbmGrains k (tget q.hbmGrains k 0 + n) })
      else none
    | 4 =>
      let k := recUnit r
      let n := recGrains r
      if n ≤ tget p.meshGrains k 0 then
        some (give (setPart s part { p with meshGrains := tput p.meshGrains k (tget p.meshGrains k 0 - n) })
          fun q => { q with meshGrains := tput q.meshGrains k (tget q.meshGrains k 0 + n) })
      else none
    | 5 =>
      let n := recWatts r
      if n ≤ p.power then
        some (give (setPart s part { p with power := p.power - n }) fun q => { q with power := q.power + n })
      else none
    | 6 =>
      let c := recPlace r
      if recv.isNone then some s
      else if all.any fun x => recKind x == 0 && recPlace x == c then
        some (give s fun q => { q with retain := tput q.retain c (recMask r) })
      else none
    | _ =>
      let k := recPage r
      match tget? p.hostPages k with
      | some h =>
        if free (fun q => (tget? q.hostPages k).isNone && !(q.hostPages.any fun x => x.2.page == h.page)) then
          some (give (setPart s part { p with hostPages := tdel p.hostPages k })
            fun q => { q with hostPages := tput q.hostPages k h })
        else none
      | none => none

/-- Cores that the records name, with their places, while the places hold them. -/
def namedCores (s : State) (part : Nat) (recs : List Nat) : List (Nat × Nat) :=
  (recs.filter fun r => recKind r == 0).filterMap fun r =>
    ((getPart s part).bind fun p => tget? p.places (recPlace r)).map fun g => (recPlace r, g)

def namedPages (s : State) (part : Nat) (recs : List Nat) : List Nat :=
  (recs.filter fun r => recKind r == 1).filterMap fun r => (getPart s part).bind fun p => tget? p.pages (recPage r)

def namedPorts (recs : List Nat) : List Nat := (recs.filter fun r => recKind r == 2).map recPort

/-- The core runs a list, or its work still runs (R431). -/
def runsList (s : State) (g : Nat) : Bool :=
  (workOf s g).isSome || ((getCore s g).seq.running && !(getCore s g).seq.stopped) || (getCore s g).startReq.isSome

/-- A work is stopped for the host to resume; in legacy mode, which has no ledger, it ends (R431, R507). -/
def preemptOrEnd (s : State) (k : Nat) (w : Work) : State := if s.legacy then endFailed s k w else preemptWork s k w

/-- The works of some cores are stopped. -/
def preemptAll (s : State) (gs : List Nat) : State :=
  gs.foldl (fun s g => match workOf s g with
    | some (k, w) => preemptOrEnd s k w
    | none => s) s

/-- Steps 1 to 3 of R432 begin: the cores stop, each that is not in C3 is held in C1, and the ports are fenced. -/
def beginRelease (s : State) (part : Nat) (recs : List Nat) : State :=
  let gs := (namedCores s part recs).map (·.2)
  let s := preemptAll s gs
  let s := stopCores s gs
  let s := gs.foldl (fun s g =>
    if (getPower s (.core g)).st ≤ 2 then
      modPower (coreUp s g) (.core g) fun p => { p with votes := tput p.votes 0x01 1, entry := none }
    else s) s
  (namedPorts recs).foldl startFence s

/-- A release or a move, as its command begins. -/
def runRelease (s : State) (seq : Nat) (bs : List Byte) : State :=
  let part := cmdPart bs
  let recv := recvOf bs
  let recs := readRecords s bs
  if (getPart s part).isNone then refuseState s seq 2
  else if recv.any fun q => (getPart s q).isNone || q == part then refuseState s seq 29
  else if anyLocked s (locksOf s false part recv recs) then s
  else match applyRecords (recMalformed false) (takeRecord1 part recv recs) 0 recs s with
    | .refused field i => refuseList s seq field i
    | .done _ =>
      if numAt bs 28 1 = 0 && (namedCores s part recs).any (fun x => runsList s x.2) then refuseState s seq 16
      else
        let s := beginRelease s part recs
        match tget? s.cmds seq with
        | some c => { s with cmds := tput s.cmds seq { c with begun := true, draining := true, records := recs } }
        | none => s

/-- RELEASE_RESOURCES (R432). -/
def execReleaseResources (seq : Nat) (s : State) : Out := runCmd s seq 0x13 anyCmd fun bs => runRelease s seq bs

/-- MOVE_RESOURCES (R432). -/
def execMoveResources (seq : Nat) (s : State) : Out := runCmd s seq 0x14 anyCmd fun bs => runRelease s seq bs

/-- The drain of step 3 has ended: no row to or from a released core is on its way, every fence is complete, and no spare is being
brought in for a released place (R438). -/
def drained (s : State) (part : Nat) (recs : List Nat) : Bool :=
  let gs := (namedCores s part recs).map (·.2)
  gs.all (fun g => (getCore s g).inbound.isEmpty && (getCore s g).unacked.isEmpty) &&
  s.cores.all (fun (e : Nat × Core) => e.2.inbound.all fun a => match a.source with
    | .core g => !(gs.contains g)
    | _ => true) &&
  s.dies.all (fun (e : Nat × Die) => e.2.transit.all fun x => !(gs.contains x.core)) &&
  (namedPorts recs).all (fun k => !(getPort s k).fencing) &&
  !(s.recoveries.any fun r => r.part == part && recs.any fun x => recKind x == 0 && recPlace x == r.place)

/-- The rows of a released core that a move hands over (R434). -/
def handedOver (s : State) (part : Nat) (recv : Option Nat) (c g : Nat) (st r : Nat) : Bool :=
  match recv.bind (getPart s), getPart s part with
  | some q, some p => p.owner == q.owner && retained (getCore s g) st r && (tget q.retain c 0).getLsbD (bankOf 0 r)
  | _, _ => false

/-- Steps 4 to 7 of R432 on one released core: zeroised, and bound into the receiver or free. A core of the free pool holds no vote
(R522). -/
def freeCore (part : Nat) (recv : Option Nat) (s : State) (x : Nat × Nat) : State :=
  let c := x.1
  let g := x.2
  let s := renameHoops s part c none
  let s := modCore (zeroRows s g fun st r => handedOver s part recv c g st r) g fun co =>
    { clearCore co with part := 0, place := 0, retain := 0, ctu := [], portBusy := false, gate := 16 }
  match recv with
  | some q =>
    let s := modPower s (.core g) fun p => { p with votes := tdel (tdel p.votes (0x10 + part)) 0x01 }
    moveCore s q c g (((getPart s q).map fun p => tget p.retain c 0).getD 0)
  | none => modPower s (.core g) fun p => { p with votes := [] }

/-- Steps 4 to 7 of R432. Places that have lost their core stay empty (R438). -/
def endRelease (s : State) (seq : Nat) (bs : List Byte) (recs : List Nat) : State :=
  let part := cmdPart bs
  let recv := recvOf bs
  let cs := namedCores s part recs
  let pages := namedPages s part recs
  let ports := namedPorts recs
  let empty := ((recs.filter fun r => recKind r == 0).map recPlace).filter fun c => !(cs.any fun x => x.1 == c)
  let s := recs.foldl (fun s r => (takeRecord1 part recv recs s r).getD s) s
  let s := { s with
    cores := s.cores.map (fun (e : Nat × Core) => if e.2.part == part then (e.1, { e.2 with ctu := [] }) else e),
    windows := s.windows.filter fun x => !(pages.contains x.2) }
  let s := cs.foldl (freeCore part recv) s
  let s := queuePages s pages
  let s := ports.foldl (fun s k => modPort s k fun p =>
    { p with part := recv.getD 0, forwarding := p.forwarding && recv.isSome }) s
  if recv.isSome && !empty.isEmpty then fixResult s seq stPlaceEmpty (leBytes 16 (maskOf (empty.filter (· < 128))))
  else fixResult s seq stOk []

/-- RELEASE_DRAIN_END (R432). -/
def execReleaseDrainEnd (seq : Nat) (s : State) : Out :=
  match tget? s.cmds seq with
  | some c =>
    if c.draining && c.result.isNone && drained s (cmdPart c.bytes) c.records
    then .next (endRelease s seq c.bytes c.records) else .next s
  | none => .next s

/-! ## query_partition (R491, R492) -/

/-- A record of a kind. -/
def mkRecord (kind v : Nat) : Nat := (kind <<< 60) + v

/-- The resources of a partition as records: kinds in order, each by rising name. -/
def partRecords (s : State) (p : Partition) : List Nat :=
  p.places.map (fun x => mkRecord 0 ((x.1 <<< 32) + x.2)) ++
  p.pages.map (fun x => mkRecord 1 ((x.1 <<< 32) + x.2)) ++
  p.ports.map (fun k => mkRecord 2 (flagBit (getPort s k).forwarding 6 + k)) ++
  (p.hbmGrains.filter (fun x => x.2 != 0)).map (fun x => mkRecord 3 ((x.1 <<< 8) + x.2)) ++
  (p.meshGrains.filter (fun x => x.2 != 0)).map (fun x => mkRecord 4 ((x.1 <<< 8) + x.2)) ++
  (if p.power = 0 then [] else [mkRecord 5 p.power]) ++
  (p.retain.filter (fun x => x.2 != 0)).map (fun x => mkRecord 6 ((x.1 <<< 32) + x.2.toNat)) ++
  p.hostPages.map (fun x => mkRecord 7 (flagBit x.2.wr 58 + flagBit x.2.rd 57 + (x.1 <<< 32) + x.2.page))

/-- QUERY_PARTITION (R491). -/
def execQueryPartition (seq : Nat) (s : State) : Out :=
  runCmd s seq 0x15 anyCmd fun bs =>
    match getPart s (cmdPart bs) with
    | none => refuseState s seq 2
    | some p =>
      fixResult (hostWrite s (numAt bs 16 8) (leBytes 8 p.owner.toNat ++ (partRecords s p).flatMap (leBytes 8))) seq stOk []

/-! ## Power of partitions (R442, R443) -/

/-- Issue rate of the cores of a partition. -/
def gatePart (s : State) (p : Partition) (n : Nat) : State :=
  (partCores p).foldl (fun s g => modCore s g fun co => { co with gate := n }) s

/-- PARTITION_POWER_SAMPLE (R442): entry k of `watts` is the measured power of partition k + 1. Once the total fits, no core is
gated. -/
def execPartitionPowerSample (watts : List Nat) (s : State) : Out :=
  let s := { s with partitions := s.partitions.map fun (e : Nat × Partition) =>
      (e.1, { e.2 with watts := nth watts (e.1 - 1) 0 }) }
  if sumParts s (·.watts) ≤ pwrPart s then .next (s.partitions.foldl (fun s e => gatePart s e.2 16) s) else .next s

/-- The cycles of every 16 in which the cores of a partition issue, once its power has been cut by its part of the excess. -/
def gateOf (s : State) (old : Nat) (p : Partition) : Nat :=
  let over1 := fun (x : Partition) => x.watts - x.power
  let cut := cdiv ((sumParts s (·.watts) - pwrPart s) * over1 p) (sumParts s over1)
  max 1 (old * (p.watts - cut) / p.watts)

/-- POWER_GATING (R443): partitions above their share are gated in proportion to their excess, and no other. -/
def execPowerGating (s : State) : Out :=
  if sumParts s (·.watts) ≤ pwrPart s then .next s
  else .next (s.partitions.foldl (fun s' e =>
    if e.2.power < e.2.watts then
      let old := match partCores e.2 with
        | g :: _ => (getCore s g).gate
        | [] => 16
      gatePart s' e.2 (gateOf s old e.2)
    else gatePart s' e.2 16) s)

end Sys2Proof.Machine
end

