-- ==== Sys2Proof/Machine/WorkCommands.lean ====
section
/-! DEFINITION. The commands on works (R493, R494), windows (R496) and store rows (R495). -/

namespace Sys2Proof.Machine

/-! ## start_work (R493) -/

/-- An entry of the list table: place and base, and whether its encoding is refused. -/
def listEntry (s : State) (bs : List Byte) (i : Nat) : Nat × Nat × Bool :=
  let e := hostRead s (numAt bs 16 8 + 16 * i) 16
  (numAt e 0 2, numAt e 8 6, numAt e 2 6 != 0 || numAt e 14 2 != 0)

/-- The core bound at a place that runs no list. -/
def idleAt (s : State) (part place : Nat) : Option Nat :=
  match (getPart s part).bind fun p => tget? p.places place with
  | some g => if runsList s g then none else some g
  | none => none

/-- What a table of lists gives: the lists, or the index of the first refused entry and whether its encoding is refused. -/
inductive Lists where
  | ok (ls : List WList)
  | refused (field : Bool) (i : Nat)
  deriving DecidableEq, Repr

def newList (place core base : Nat) : WList :=
  { place := place, core := core, base := base, listId := 0, commit := none, ended := none, faulted := none }

/-- Check the entries of the table one after another. -/
def readLists (s : State) (bs : List Byte) : Nat → Nat → List WList → Lists
  | 0, _, acc => .ok acc
  | n + 1, i, acc =>
    match listEntry s bs i with
    | (c, base, bad) =>
      if bad then .refused true i
      else match idleAt s (cmdPart bs) c with
        | some g =>
          if (getPower s (.core g)).st ≥ 2 || acc.any (fun l => l.place == c) then .refused false i
          else readLists s bs n (i + 1) (acc ++ [newList c g base])
        | none => .refused false i

/-- Cores of a table of lists, for the locks of R438. -/
def tableCores (s : State) (bs : List Byte) : List Nat :=
  (List.range (numAt bs 24 2)).filterMap fun i =>
    (getPart s (cmdPart bs)).bind fun p => tget? p.places (listEntry s bs i).1

/-- START_WORK (R493): one list a place, all or none; the work's result comes when it ends. -/
def execStartWork (seq : Nat) (s : State) : Out :=
  runCmd s seq 0x20 anyCmd fun bs =>
    if (getPart s (cmdPart bs)).isNone then refuseState s seq 2
    else if (tableCores s bs).any (coreLocked s) then s
    else match readLists s bs (numAt bs 24 2) 0 [] with
      | .refused true i => refuseField s seq 16 i
      | .refused false _ => refuseState s seq 16
      | .ok ls =>
        let s := ls.foldl (fun s l => giveStart s l.core (freshStart l.base seq)) (beginCmd s seq)
        let w : Work := { part := cmdPart bs, lists := ls, st := .running, turn := none, window := none, peers := [],
                          status := 0, replaced := [] }
        ledgerState (putWork s seq w) seq 2

/-! ## preempt_work, resume_work, discard_work (R494) -/

/-- The work that a command names. -/
def namedWork (s : State) (bs : List Byte) : Option (Nat × Work) :=
  let k := numAt bs 16 8
  (tget? s.works k).map fun w => (k, w)

/-- PREEMPT_WORK (R494). -/
def execPreemptWork (seq : Nat) (s : State) : Out :=
  runCmd s seq 0x21 anyCmd fun bs =>
    match namedWork s bs with
    | some (k, w) => if w.st = .running then fixResult (preemptWork s k w) seq stOk [] else refuseState s seq 16
    | none => refuseState s seq 16

/-- The ledger says that the work is completed and not applied (R450, R494). -/
def notApplied (s : State) (k : Nat) : Bool :=
  match tget? s.ledger.entries k with
  | some e => (e.st == 5 || e.st == 6) && (e.status == stAbandoned || e.status == stFailed)
  | none => false

/-- The lists of a work on the places of a placement table, or on their own; none when a place is unbound or busy or stands twice. -/
def placeLists (s : State) (w : Work) (table : Nat) : Option (List WList) :=
  let ps := w.lists.zipIdx.map fun x => if table = 0 then x.1.place else numAt (hostRead s (table + 2 * x.2) 2) 0 2
  if !(allDistinct ps) then none
  else (w.lists.zip ps).mapM fun x => (idleAt s w.part x.2).map fun g =>
    { x.1 with place := x.2, core := g, ended := none, faulted := none }

/-- A commit record with another work's sequence number, its check formed again (R362, R494). -/
def signRecord (r seq : Nat) : List Byte :=
  let b := patchAt (leBytes 60 r) 16 (leBytes 8 seq)
  b ++ leBytes 4 (crc32c b)

/-- Write 64 bytes at a partition address. -/
def writeSlot (s : State) (part a : Nat) (bs : List Byte) : State :=
  match tableLookup s part a true with
  | .ok row => (putRow s row (padTo 512 (zeros (a % 512) ++ bs)) ((2 ^ 64 - 1) <<< (a % 512))).1
  | _ => s

/-- Both commit slots of every list take the record of the common turn, under the resume's number. -/
def resignSlots (s : State) (old new turn : Nat) (w : Work) : State :=
  w.lists.foldl (fun s l =>
    match l.commit, recordOf (listSlots s w.part old l) turn with
    | some a, some r =>
      let b := signRecord r new
      writeSlot (writeSlot s w.part a b) w.part (a + 64) b
    | _, _ => s) s

/-- Every list of the work can resume from a turn (R448, R449). -/
def canResume (s : State) (k turn : Nat) (w : Work) : Bool :=
  turn = 0 || w.lists.all fun l => (recordOf (listSlots s w.part k l) turn).isSome

/-- A not-applied work becomes a new work of the resume. -/
def resumeAnew (s : State) (seq k : Nat) (w : Work) : State :=
  let s := noteSlots (beginCmd (ledgerState s k 7) seq) w
  let new := fun (t : Option Nat) => { w with st := .running, turn := t, window := none, status := 0, replaced := [] }
  match commonTurn s k w with
  | none => finishWork s seq (new none) stFailed turnUnknown (leBytes 4 turnUnknown)
  | some t =>
    if canResume s k t w then restartWork (if t = 0 then s else resignSlots s k seq t w) seq (new (some t)) false
    else finishWork s seq (new (some t)) stFailed t (leBytes 4 t)

/-- RESUME_WORK (R494). -/
def execResumeWork (seq : Nat) (s : State) : Out :=
  runCmd s seq 0x22 anyCmd fun bs =>
    match namedWork s bs with
    | none => refuseState s seq 16
    | some (k, w) =>
      if w.st != .preempted && !(notApplied s k) then refuseState s seq 16
      else
        let table := numAt bs 24 8
        match placeLists s w table with
        | none => refuseState s seq (if table = 0 then 16 else 24)
        | some ls =>
          let w := { w with lists := ls }
          if (workCores w).any (coreLocked s) then s
          else if w.st = .preempted then fixResult (restartWork s k w false) seq stOk []
          else resumeAnew s seq k w

/-- DISCARD_WORK (R494). -/
def execDiscardWork (seq : Nat) (s : State) : Out :=
  runCmd s seq 0x23 anyCmd fun bs =>
    match namedWork s bs with
    | none => refuseState s seq 16
    | some (k, w) =>
      if w.st = .preempted then
        let t := w.turn.getD turnUnknown
        fixResult (finishWork s k w stDiscarded t (leBytes 4 t)) seq stOk []
      else if notApplied s k then fixResult (ledgerState s k 8) seq stOk []
      else refuseState s seq 16

/-! ## open_window, close_window (R496) -/

def windowRange (bs : List Byte) : List Nat := (List.range (numAt bs 20 4)).map (· + numAt bs 16 4)

/-- OPEN_WINDOW (R496). It waits while a release or move locks a page of the window (R438). -/
def execOpenWindow (seq : Nat) (s : State) : Out :=
  runCmd s seq 0x30 anyCmd fun bs =>
    match getPart s (cmdPart bs) with
    | none => refuseState s seq 2
    | some p =>
      let ws := windowRange bs
      let first := numAt bs 24 8 / 2 ^ 21
      let pages := ws.zipIdx.mapM fun x => (tget? p.pages (first + x.2)).map fun g => (x.1, g)
      if pagesLocked s (cmdPart bs) (ws.zipIdx.map fun x => first + x.2) then s
      else if ws.any fun k => (tget? s.windows k).isSome then refuseState s seq 16
      else match pages with
        | none => refuseState s seq 24
        | some gs => fixResult { s with windows := gs.foldl (fun t x => tput t x.1 x.2) s.windows } seq stOk []

/-- CLOSE_WINDOW (R496). -/
def execCloseWindow (seq : Nat) (s : State) : Out :=
  runCmd s seq 0x31 anyCmd fun bs =>
    fixResult { s with windows := (windowRange bs).foldl tdel s.windows } seq stOk []

/-! ## read_rows, write_rows (R495) -/

/-- What the translation of a scratchpad address by a partition's tables gives: a physical row, or a refusal code. -/
def rowsLookup (s : State) (part a : Nat) (write : Bool) : Xl :=
  if region a != 1 then .bad cXlate else tableLookup s part a write

/-- The rows of a range whose core sleeps: the access wakes it and stalls (R495, R528). A locked core holds the command back
(R438), and so does a row that an operation of its core holds (R243). -/
def rowsBusy (s : State) (part a n : Nat) (write : Bool) : Bool :=
  (rowParts a n).any fun p => match rowsLookup s part p.1 write with
    | .ok row => asleep s row || (match placeOf row with
      | .store g _ _ => coreLocked s g || (getCore s g).holds.any (fun h => h.1 == row)
      | _ => false)
    | _ => false

/-- Read the parts of a range into host memory; a refusal ends it. -/
def readParts (seq part : Nat) : List (Nat × Nat) → Nat → State → State
  | [], _, s => fixResult s seq stOk []
  | (a, n) :: ps, dst, s =>
    match rowsLookup s part a false with
    | .ok row =>
      let used := partWords a n
      match readVerdict s row used with
      | some (code, _) =>
        fixResult (checkRead s row used) seq (if code = cEcc then stEcc else stPoison) (addrDetail 0 a)
      | none =>
        let data := rdBytes s (row * 512 + a % 512) n
        readParts seq part ps (dst + n) (hostWrite (checkRead s row used) dst data)
    | .bad code => refusePerm s seq code a
    | .miss _ => s

/-- READ_ROWS (R495): raw, whatever the tags. -/
def execReadRows (seq : Nat) (s : State) : Out :=
  runCmd s seq 0x32 anyCmd fun bs =>
    let part := cmdPart bs
    let a := numAt bs 16 8
    let n := numAt bs 32 4
    if (getPart s part).isNone then refuseState s seq 2
    else if rowsBusy s part a n false then s
    else readParts seq part (rowParts a n) (numAt bs 24 8) s

/-- Write the parts of a range from bytes of the host; a refusal ends it and rows written before it stand. -/
def writeParts (seq part : Nat) (tag : Nat) : List (Nat × Nat) → List Byte → State → State
  | [], _, s => fixResult s seq stOk []
  | (a, n) :: ps, data, s =>
    match rowsLookup s part a true with
    | .ok row =>
      match placeOf row with
      | .store g st r =>
        if inOpenHoop (getCore s g) st r then refusePerm s seq cProt a
        else match putRow s row (padTo 512 (zeros (a % 512) ++ data.take n)) ((2 ^ n - 1) <<< (a % 512)) with
          | (s, some _) => fixResult s seq stEcc (addrDetail 0 a)
          | (s, none) => writeParts seq part tag ps (data.drop n) (if tag = 1 then setTag s row true else s)
      | _ => refusePerm s seq cXlate a
    | .bad code => refusePerm s seq code a
    | .miss _ => s

/-- WRITE_ROWS (R495): under overwrite or raw. -/
def execWriteRows (seq : Nat) (s : State) : Out :=
  runCmd s seq 0x33 anyCmd fun bs =>
    let part := cmdPart bs
    let a := numAt bs 24 8
    let n := numAt bs 32 4
    if (getPart s part).isNone then refuseState s seq 2
    else if rowsBusy s part a n true then s
    else writeParts seq part (numAt bs 36 1) (rowParts a n) (hostRead s (numAt bs 16 8) n) s

end Sys2Proof.Machine
end

