-- ==== Sys2Proof/Machine/Query.lean ====
section
/-! DEFINITION. The commands that report (R491, R603) and the tests (R462, R464). -/

namespace Sys2Proof.Machine

/-! ## identify, query_ledger, query_cores, read_fault (R491) -/

/-- The detail of identify. -/
def identDetail (s : State) : List Byte :=
  leBytes 1 3 ++ leBytes 1 2 ++ leBytes 1 (if s.legacy then 2 else 3) ++ leBytes 1 (if s.legacy then 1 else 0) ++
  leBytes 1 (if s.legacy then 8 else 16) ++ leBytes 1 s.fuses.bin ++ leBytes 2 (inServiceCount s) ++ leBytes 8 s.fuses.serial.toNat

/-- IDENTIFY (R491). -/
def execIdentify (seq : Nat) (s : State) : Out := runCmd s seq 0x01 anyCmd fun _ => fixResult s seq stOk (identDetail s)

/-- The bytes of the entry of a sequence number: zeros when the ledger holds none. -/
def ledgerSlot (s : State) (seq : Nat) : List Byte :=
  match tget? s.ledger.entries seq with
  | some e => ledgerBytes e
  | none => zeros 32

/-- QUERY_LEDGER (R491): entries of consecutive sequence numbers. -/
def execQueryLedger (seq : Nat) (s : State) : Out :=
  runCmd s seq 0x02 anyCmd fun bs =>
    let data := (List.range (numAt bs 24 2)).flatMap fun i => ledgerSlot s (numAt bs 16 8 + i)
    fixResult (hostWrite s (numAt bs 32 8) data) seq stOk []

/-- The mask of the cores of a die that meet a condition, in 7 bytes. -/
def coreMask (s : State) (d : Nat) (ok : Core → Bool) : List Byte :=
  leBytes 7 (maskOf (idxs Config.coresPerDie fun k => ok (getCore s (d * Config.coresPerDie + k))))

/-- The record of a die: in service, dark, fenced, free pool (R5, R31, R424, R455). -/
def coreRecord (s : State) (d : Nat) : List Byte :=
  coreMask s d (fun co => co.service == .inService) ++ coreMask s d (fun co => co.service == .dark) ++
  coreMask s d (fun co => co.service == .fenced) ++ coreMask s d (fun co => co.service == .inService && co.part == 0) ++ zeros 4

/-- QUERY_CORES (R491). -/
def execQueryCores (seq : Nat) (s : State) : Out :=
  runCmd s seq 0x03 anyCmd fun bs =>
    fixResult (hostWrite s (numAt bs 16 8) ((List.range Config.nDies).flatMap (coreRecord s))) seq stOk []

/-- A list to its place, in order. -/
def byPlace (ls : List WList) : Tbl WList := ls.foldl (fun t l => tput t l.place l) []

/-- The records of the lists of a work that faulted, in place order, with place and partition (R370). -/
def faultRecords (w : Work) : List (List Byte) :=
  (byPlace w.lists).filterMap fun (e : Nat × WList) => e.2.faulted.map fun r => leBytes 32 (recNat r)

/-- READ_FAULT (R491): a work with no list that faulted has nothing to read. -/
def execReadFault (seq : Nat) (s : State) : Out :=
  runCmd s seq 0x04 anyCmd fun bs =>
    match namedWork s bs with
    | none => refuseState s seq 16
    | some (_, w) =>
      let rs := faultRecords w
      if rs.isEmpty then refuseState s seq 16 else fixResult (hostWrite s (numAt bs 24 8) rs.flatten) seq stOk []

/-! ## read_status, clear_status (R603) -/

/-- A status register and its counters. -/
def statusWords (st : Nat) (counts : List Nat) : List Byte := padTo 64 (leBytes 4 st ++ counts.flatMap (leBytes 4))

/-- The 64 bytes of a kind and index. -/
def statusBytes (s : State) (kind index : Nat) : List Byte :=
  match kind with
  | 0 => statusWords (spErrStatus (getCore s index).spErr) (spErrCounts (getCore s index).spErr)
  | 1 => statusWords (jpStatus (getPort s index)) (jpCounts (getPort s index))
  | 2 => padTo 64 (assayStatusBytes s)
  | _ => statusWords (evLostWord (getCore s index).evLost) (getCore s index).evLost.counts

/-- READ_STATUS (R603). -/
def execReadStatus (seq : Nat) (s : State) : Out :=
  runCmd s seq 0x60 anyCmd fun bs =>
    fixResult (hostWrite s (numAt bs 24 8) (statusBytes s (numAt bs 16 1) (numAt bs 18 2))) seq stOk []

/-- Clear the flags of one mask and write 0 into the counters of the other. Kind 2 clears nothing. -/
def clearStatus (s : State) (kind index flags counts : Nat) : State :=
  match kind with
  | 0 => modCore s index fun co => { co with spErr := spErrZero (spErrClear co.spErr flags) counts }
  | 1 => modPort s index fun p => jpZero (jpClear p flags) counts
  | 2 => s
  | _ => modCore s index fun co => { co with evLost := evLostZero (evLostClear co.evLost flags) counts }

/-- CLEAR_STATUS (R603). -/
def execClearStatus (seq : Nat) (s : State) : Out :=
  runCmd s seq 0x61 anyCmd fun bs =>
    fixResult (clearStatus s (numAt bs 16 1) (numAt bs 18 2) (numAt bs 20 4) (numAt bs 24 4)) seq stOk []

/-! ## run_test (R462, R464) -/

def testKind (k : Nat) (bs : List Byte) : Bool := numAt bs 16 1 == k

/-- RUN_TEST_CORE (R462): the core's port is isolated while its built-in self test runs. A core that is in service, or that a
recovery tests, is not tested. -/
def execRunTestCore (seq : Nat) (s : State) : Out :=
  runCmd s seq 0x70 (testKind 0) fun bs =>
    let c := numAt bs 18 2
    if (getCore s c).service = .inService || s.recoveries.any (fun r => r.spare == some c) then refuseState s seq 18
    else modCore (beginCmd s seq) c fun co => { co with testing := true, isolated := true }

/-- A test that stops the works that depend on a part: they are preempted when the command's option says so, else it is refused
(R431, R464). What the test finds is the part's, a free value. -/
def runTest (seq : Nat) (s : State) (bs : List Byte) (uses : Work → Bool) : State :=
  let ws := s.works.filter fun e => (e.2.st == .running || e.2.st == .recovering) && uses e.2
  if !ws.isEmpty && numAt bs 17 1 = 0 then refuseState s seq 16
  else
    let s := ws.foldl (fun s e => preemptOrEnd s e.1 e.2) s
    match takeFree s with
    | (v, s) => if v % 2 = 0 then fixResult s seq stHwFail (leBytes 4 (numAt bs 18 2)) else fixResult s seq stOk []

/-- RUN_TEST_LINK (R464): the works with a list on either die. -/
def execRunTestLink (seq : Nat) (s : State) : Out :=
  runCmd s seq 0x70 (testKind 1) fun bs =>
    let ends := linkEnds (numAt bs 18 2)
    runTest seq s bs fun w => (workCores w).any fun c => dieOf c == ends.1 || dieOf c == ends.2

/-- RUN_TEST_STACK (R464): the works with a page in the stack. -/
def execRunTestStack (seq : Nat) (s : State) : Out :=
  runCmd s seq 0x70 (testKind 2) fun bs =>
    runTest seq s bs fun w => match getPart s w.part with
      | some p => p.pages.any fun x => x.2 / 32768 % 8 == numAt bs 18 2
      | none => false

end Sys2Proof.Machine
end

