-- ==== Sys2Proof/Machine/Spdm.lean ====
section
/-! DEFINITION. Attestation over the SMBus port (R559): the answers of Assay firmware to the seven requests. The forms of the messages
are those of DSP0274 (log 30). -/

namespace Sys2Proof.Machine

/-! ## Messages -/

/-- Header of a message: version 1.2, code and two parameters. -/
def spdmHead (code p1 p2 : Nat) : List Byte := leBytes 1 0x12 ++ leBytes 1 code ++ leBytes 1 p1 ++ leBytes 1 p2

/-- An ERROR message. -/
def spdmError (why : Nat) : List Byte := spdmHead 0x7F why 0

/-- The answer goes out, and the exchange enters the transcript that is signed. -/
def spdmSend (s : State) (request answer : List Byte) : State :=
  { s with smbus := { s.smbus with mctp := answer, acked := true },
           spdm := { s.spdm with transcript := s.spdm.transcript ++ request ++ answer } }

def spdmFail (s : State) (why : Nat) : State := { s with smbus := { s.smbus with mctp := spdmError why, acked := true } }

/-- A request is taken while Assay firmware runs; a request whose code or length is wrong is answered as invalid. -/
def spdmTake (s : State) (request : List Byte) (code len : Nat) (ready : Spdm → Bool) (f : State → State) : Out :=
  smbTalk s fun s =>
    if !(assayRuns s) then smbNack s
    else if numAt request 1 1 != code || request.length < len then spdmFail s 0x01
    else if !(ready s.spdm) then spdmFail s 0x04
    else f s

/-! ## Version, capabilities, algorithms -/

/-- SPDM_GET_VERSION (R559): version 1.2. The exchange begins again. -/
def execSpdmGetVersion (request : List Byte) (s : State) : Out :=
  spdmTake s request 0x84 4 (fun _ => true) fun s =>
    spdmSend { s with spdm := { Spdm.reset with version := true } } request
      (leBytes 1 0x10 ++ leBytes 1 0x04 ++ zeros 3 ++ leBytes 1 1 ++ leBytes 2 0x1200)

/-- SPDM_GET_CAPABILITIES (R559): certificates, challenge and signed measurements. Its time exponent and sizes are free. -/
def execSpdmGetCapabilities (request : List Byte) (s : State) : Out :=
  spdmTake s request 0xE1 4 (·.version) fun s =>
    match takeFree s with
    | (v, s) => spdmSend { s with spdm := { s.spdm with capabilities := true } } request
        (spdmHead 0x61 0 0 ++ zeros 1 ++ leBytes 1 v ++ zeros 2 ++ leBytes 4 0x16 ++ leBytes 8 (v / 256))

/-- SPDM_NEGOTIATE_ALGORITHMS (R559): ECDSA P-384 and SHA-384 only. -/
def execSpdmNegotiateAlgorithms (request : List Byte) (s : State) : Out :=
  spdmTake s request 0xE3 4 (·.capabilities) fun s =>
    spdmSend { s with spdm := { s.spdm with algorithms := true } } request
      (spdmHead 0x63 0 0 ++ leBytes 2 36 ++ leBytes 1 1 ++ zeros 1 ++ leBytes 4 0x4 ++ leBytes 4 0x80 ++ leBytes 4 0x2 ++ zeros 16)

/-! ## Certificates (R558) -/

def certs (s : State) : List Byte := Config.certChain s.boot.cdiA s.boot.cdiM

/-- A digest in byte order. -/
def digestBytes (d : BitVec 384) : List Byte := leBytes 48 d.toNat

/-- SPDM_GET_DIGESTS (R559): one slot. -/
def execSpdmGetDigests (request : List Byte) (s : State) : Out :=
  spdmTake s request 0x81 4 (·.algorithms) fun s =>
    spdmSend s request (spdmHead 0x01 0 1 ++ digestBytes (Config.sha384 (certs s)))

/-- SPDM_GET_CERTIFICATE (R559): the asked part of the chain of slot 0. -/
def execSpdmGetCertificate (request : List Byte) (s : State) : Out :=
  spdmTake s request 0x82 8 (·.algorithms) fun s =>
    let off := numAt request 4 2
    let c := certs s
    if numAt request 2 1 % 16 != 0 || off ≥ c.length then spdmFail s 0x01
    else
      let part := (c.drop off).take (numAt request 6 2)
      spdmSend s request (spdmHead 0x02 0 0 ++ leBytes 2 part.length ++ leBytes 2 (c.length - off - part.length) ++ part)

/-! ## Measurements and the challenge -/

/-- The configuration measurement (R559): configuration byte, mode byte in effect, SVN floors, `BOOT_STAGE`. -/
def configMeasure (s : State) : List Byte :=
  [configByte s, s.boot.modeByte] ++ leBytes 1 s.fuses.svnAssay ++ leBytes 1 s.fuses.svnMgmt ++ leBytes 1 s.boot.stage

/-- One measurement: its index, and its value with its kind. -/
def measureBlock (index kind : Nat) (v : List Byte) : List Byte :=
  leBytes 1 index ++ leBytes 1 1 ++ leBytes 2 (v.length + 3) ++ leBytes 1 kind ++ leBytes 2 v.length ++ v

/-- The measurements, indices 1 to 4. -/
def measurements (s : State) : List (List Byte) :=
  [measureBlock 1 0x00 (digestBytes Config.bootRomMeasure), measureBlock 2 0x01 (digestBytes (Config.sha384 s.boot.assayHeader)),
   measureBlock 3 0x01 (digestBytes (Config.sha384 s.boot.mgmtHeader)), measureBlock 4 0x83 (configMeasure s)]

/-- An answer signed with the alias key over the transcript, the request and the answer. -/
def spdmSign (s : State) (request answer : List Byte) : List Byte :=
  answer ++ Config.ecdsaSign s.boot.cdiA (Config.sha384 (s.spdm.transcript ++ request ++ answer))

/-- SPDM_CHALLENGE (R559, R564): an error while the debug port is open. The responder's nonce is a free value. -/
def execSpdmChallenge (request : List Byte) (s : State) : Out :=
  spdmTake s request 0x83 36 (·.algorithms) fun s =>
    if s.rind.debugOpen then spdmFail s 0x05
    else match takeFree s with
      | (v, s) =>
        let sum := if numAt request 3 1 = 0 then [] else digestBytes (Config.sha384 (measurements s).flatten)
        let body := spdmHead 0x03 0 1 ++ digestBytes (Config.sha384 (certs s)) ++ leBytes 32 v ++ sum ++ zeros 2
        spdmSend s request (spdmSign s request body)

/-- SPDM_GET_MEASUREMENTS (R559): their number, one of them, or all. -/
def execSpdmGetMeasurements (request : List Byte) (s : State) : Out :=
  spdmTake s request 0xE0 4 (·.algorithms) fun s =>
    let op := numAt request 3 1
    let all := measurements s
    let blocks := if op = 0 then [] else if op = 0xFF then all else (all.drop (op - 1)).take 1
    if op != 0 && blocks.isEmpty then spdmFail s 0x01
    else match takeFree s with
      | (v, s) =>
        let body := spdmHead 0x60 (if op = 0 then 4 else 0) 0 ++ leBytes 1 blocks.length ++ leBytes 3 blocks.flatten.length ++
          blocks.flatten ++ leBytes 32 v ++ zeros 2
        spdmSend s request (if numAt request 2 1 % 2 = 1 then spdmSign s request body else body)

end Sys2Proof.Machine
end

