-- ==== Sys2Proof/Machine/Dispatch.lean ====
section
/-! DEFINITION. One arm for each command. -/

namespace Sys2Proof.Machine

def exec (i : Instr) (s : State) : Host.Outcome State Fault Refusal :=
  match i with
  | .listStart core => Sys2Proof.Machine.execListStart core s
  | .listFetchReturn core ahead => Sys2Proof.Machine.execListFetchReturn core ahead s
  | .endList core => Sys2Proof.Machine.execEndList core s
  | .runLayer core => Sys2Proof.Machine.execRunLayer core s
  | .skimDownUnconfirmed core => Sys2Proof.Machine.execSkimDownUnconfirmed core s
  | .skimBackUnconfirmed core => Sys2Proof.Machine.execSkimBackUnconfirmed core s
  | .layerDrainEnd core => Sys2Proof.Machine.execLayerDrainEnd core s
  | .moveCopy core => Sys2Proof.Machine.execMoveCopy core s
  | .moveCompress core => Sys2Proof.Machine.execMoveCompress core s
  | .moveZeroRunStore core => Sys2Proof.Machine.execMoveZeroRunStore core s
  | .moveMaskTranspose core => Sys2Proof.Machine.execMoveMaskTranspose core s
  | .moveScatterAdd core => Sys2Proof.Machine.execMoveScatterAdd core s
  | .moveReduceContribution core => Sys2Proof.Machine.execMoveReduceContribution core s
  | .moveSelectiveFetch core => Sys2Proof.Machine.execMoveSelectiveFetch core s
  | .dieDmaMoveStart core => Sys2Proof.Machine.execDieDmaMoveStart core s
  | .moveComplete core idx => Sys2Proof.Machine.execMoveComplete core idx s
  | .hbmWriteAck core stack => Sys2Proof.Machine.execHbmWriteAck core stack s
  | .fill core => Sys2Proof.Machine.execFill core s
  | .markEmpty core => Sys2Proof.Machine.execMarkEmpty core s
  | .markFull core => Sys2Proof.Machine.execMarkFull core s
  | .copy core => Sys2Proof.Machine.execCopy core s
  | .rowEngineComplete core => Sys2Proof.Machine.execRowEngineComplete core s
  | .waitCount core => Sys2Proof.Machine.execWaitCount core s
  | .waitCountMet core => Sys2Proof.Machine.execWaitCountMet core s
  | .waitTag core => Sys2Proof.Machine.execWaitTag core s
  | .waitTagMet core => Sys2Proof.Machine.execWaitTagMet core s
  | .signal core => Sys2Proof.Machine.execSignal core s
  | .signalSend core => Sys2Proof.Machine.execSignalSend core s
  | .openHoop core => Sys2Proof.Machine.execOpenHoop core s
  | .hoopOpened core => Sys2Proof.Machine.execHoopOpened core s
  | .closeHoop core => Sys2Proof.Machine.execCloseHoop core s
  | .closeHoopComplete core => Sys2Proof.Machine.execCloseHoopComplete core s
  | .histogramArm core => Sys2Proof.Machine.execHistogramArm core s
  | .histogramStop core => Sys2Proof.Machine.execHistogramStop core s
  | .histogramDump core => Sys2Proof.Machine.execHistogramDump core s
  | .histogramDumpAndClear core => Sys2Proof.Machine.execHistogramDumpAndClear core s
  | .turn core => Sys2Proof.Machine.execTurn core s
  | .turnCommitWrite core => Sys2Proof.Machine.execTurnCommitWrite core s
  | .turnDone core => Sys2Proof.Machine.execTurnDone core s
  | .branchOnCount core => Sys2Proof.Machine.execBranchOnCount core s
  | .branchDecrement core => Sys2Proof.Machine.execBranchDecrement core s
  | .loopLoad core => Sys2Proof.Machine.execLoopLoad core s
  | .quantise core => Sys2Proof.Machine.execQuantise core s
  | .scaleGradient core => Sys2Proof.Machine.execScaleGradient core s
  | .optimiserUpdate core => Sys2Proof.Machine.execOptimiserUpdate core s
  | .topK core => Sys2Proof.Machine.execTopK core s
  | .rowOperation core => Sys2Proof.Machine.execRowOperation core s
  | .vectorOpComplete core => Sys2Proof.Machine.execVectorOpComplete core s
  | .fsuJob core => Sys2Proof.Machine.execFsuJob core s
  | .fsuJobComplete core => Sys2Proof.Machine.execFsuJobComplete core s
  | .accessGrantAfterWait core unit => Sys2Proof.Machine.execAccessGrantAfterWait core unit s
  | .watchdogExpiry core unit => Sys2Proof.Machine.execWatchdogExpiry core unit s
  | .remoteWriteArrival core k => Sys2Proof.Machine.execRemoteWriteArrival core k s
  | .reduceAddArrival core k => Sys2Proof.Machine.execReduceAddArrival core k s
  | .signalArrival core k => Sys2Proof.Machine.execSignalArrival core k s
  | .remoteRead core k => Sys2Proof.Machine.execRemoteRead core k s
  | .remoteReadRetry core unit => Sys2Proof.Machine.execRemoteReadRetry core unit s
  | .conflictQueueRetire core => Sys2Proof.Machine.execConflictQueueRetire core s
  | .scrubVisit core upsets => Sys2Proof.Machine.execScrubVisit core upsets s
  | .spareCopy core store row => Sys2Proof.Machine.execSpareCopy core store row s
  | .reducerContribution die k => Sys2Proof.Machine.execReducerContribution die k s
  | .ctuTranslationFill core unit => Sys2Proof.Machine.execCtuTranslationFill core unit s
  | .routeEntryFill die id => Sys2Proof.Machine.execRouteEntryFill die id s
  | .hbmPatrolScrub stack upsets => Sys2Proof.Machine.execHbmPatrolScrub stack upsets s
  | .hbmSoftRepair addr => Sys2Proof.Machine.execHbmSoftRepair addr s
  | .frameReceive port frame => Sys2Proof.Machine.execFrameReceive port frame s
  | .flitTransmit port => Sys2Proof.Machine.execFlitTransmit port s
  | .recordCloseEarly port => Sys2Proof.Machine.execRecordCloseEarly port s
  | .replayTimeout port => Sys2Proof.Machine.execReplayTimeout port s
  | .packetRoute core unit => Sys2Proof.Machine.execPacketRoute core unit s
  | .packetArrival port vc => Sys2Proof.Machine.execPacketArrival port vc s
  | .forwardTimeout port vc => Sys2Proof.Machine.execForwardTimeout port vc s
  | .appliedResponseSend k => Sys2Proof.Machine.execAppliedResponseSend k s
  | .appliedResponse port => Sys2Proof.Machine.execAppliedResponse port s
  | .refusedResponse port => Sys2Proof.Machine.execRefusedResponse port s
  | .unreachableResponse port => Sys2Proof.Machine.execUnreachableResponse port s
  | .readDataResponse port => Sys2Proof.Machine.execReadDataResponse port s
  | .notReadyResponse port => Sys2Proof.Machine.execNotReadyResponse port s
  | .managementMessage port => Sys2Proof.Machine.execManagementMessage port s
  | .lightDetected port mask => Sys2Proof.Machine.execLightDetected port mask s
  | .trainingComplete port peer => Sys2Proof.Machine.execTrainingComplete port peer s
  | .trainingFail port => Sys2Proof.Machine.execTrainingFail port s
  | .frameLockLost port => Sys2Proof.Machine.execFrameLockLost port s
  | .frameLockReturn port => Sys2Proof.Machine.execFrameLockReturn port s
  | .holdTimeout port => Sys2Proof.Machine.execHoldTimeout port s
  | .downRetrain port => Sys2Proof.Machine.execDownRetrain port s
  | .laneDegrade port lane => Sys2Proof.Machine.execLaneDegrade port lane s
  | .laneMove port => Sys2Proof.Machine.execLaneMove port s
  | .laneTest port wl pass => Sys2Proof.Machine.execLaneTest port wl pass s
  | .roleRequest port => Sys2Proof.Machine.execRoleRequest port s
  | .handover port => Sys2Proof.Machine.execHandover port s
  | .roleChangeover port => Sys2Proof.Machine.execRoleChangeover port s
  | .fenceRequest port => Sys2Proof.Machine.execFenceRequest port s
  | .fenceMarker port vc => Sys2Proof.Machine.execFenceMarker port vc s
  | .fenceTimeout port => Sys2Proof.Machine.execFenceTimeout port s
  | .laserInputLoss pd input => Sys2Proof.Machine.execLaserInputLoss pd input s
  | .pageZeroiseDone stack => Sys2Proof.Machine.execPageZeroiseDone stack s
  | .partitionPowerSample watts => Sys2Proof.Machine.execPartitionPowerSample watts s
  | .powerGating => Sys2Proof.Machine.execPowerGating s
  | .releaseDrainEnd seq => Sys2Proof.Machine.execReleaseDrainEnd seq s
  | .faultClassify source => Sys2Proof.Machine.execFaultClassify source s
  | .spareSelfTestDone core pass => Sys2Proof.Machine.execSpareSelfTestDone core pass s
  | .linkRetire link => Sys2Proof.Machine.execLinkRetire link s
  | .coreSelfTestDone core pass => Sys2Proof.Machine.execCoreSelfTestDone core pass s
  | .darkSpareDailyTest core => Sys2Proof.Machine.execDarkSpareDailyTest core s
  | .heartbeat mp => Sys2Proof.Machine.execHeartbeat mp s
  | .heartbeatLapse mp => Sys2Proof.Machine.execHeartbeatLapse mp s
  | .stampClaim mp epoch => Sys2Proof.Machine.execStampClaim mp epoch s
  | .assayCycle => Sys2Proof.Machine.execAssayCycle s
  | .standbyRelease mp => Sys2Proof.Machine.execStandbyRelease mp s
  | .hubControlWrite epoch write => Sys2Proof.Machine.execHubControlWrite epoch write s
  | .assayRequest request => Sys2Proof.Machine.execAssayRequest request s
  | .channelEnable ch host => Sys2Proof.Machine.execChannelEnable ch host s
  | .channelDisable ch => Sys2Proof.Machine.execChannelDisable ch s
  | .sqDoorbell ch tail host => Sys2Proof.Machine.execSqDoorbell ch tail host s
  | .cqDoorbell ch head => Sys2Proof.Machine.execCqDoorbell ch head s
  | .commandAccept ch => Sys2Proof.Machine.execCommandAccept ch s
  | .completionRecordWrite ch => Sys2Proof.Machine.execCompletionRecordWrite ch s
  | .ledgerAttach host => Sys2Proof.Machine.execLedgerAttach host s
  | .evqEnable value => Sys2Proof.Machine.execEvqEnable value s
  | .evqDisable => Sys2Proof.Machine.execEvqDisable s
  | .evqDoorbell head => Sys2Proof.Machine.execEvqDoorbell head s
  | .eventRecordWrite => Sys2Proof.Machine.execEventRecordWrite s
  | .alarmEnableWrite value => Sys2Proof.Machine.execAlarmEnableWrite value s
  | .assayStatusWrite offset value => Sys2Proof.Machine.execAssayStatusWrite offset value s
  | .registerWrite offset value => Sys2Proof.Machine.execRegisterWrite offset value s
  | .bar2Read offset len => Sys2Proof.Machine.execBar2Read offset len s
  | .bar2Write offset data => Sys2Proof.Machine.execBar2Write offset data s
  | .perstAssert => Sys2Proof.Machine.execPerstAssert s
  | .perstDeassert legacyStrap => Sys2Proof.Machine.execPerstDeassert legacyStrap s
  | .hostLinkLoss => Sys2Proof.Machine.execHostLinkLoss s
  | .identify seq => Sys2Proof.Machine.execIdentify seq s
  | .queryLedger seq => Sys2Proof.Machine.execQueryLedger seq s
  | .queryCores seq => Sys2Proof.Machine.execQueryCores seq s
  | .readFault seq => Sys2Proof.Machine.execReadFault seq s
  | .createPartition seq => Sys2Proof.Machine.execCreatePartition seq s
  | .destroyPartition seq => Sys2Proof.Machine.execDestroyPartition seq s
  | .bindResources seq => Sys2Proof.Machine.execBindResources seq s
  | .releaseResources seq => Sys2Proof.Machine.execReleaseResources seq s
  | .moveResources seq => Sys2Proof.Machine.execMoveResources seq s
  | .queryPartition seq => Sys2Proof.Machine.execQueryPartition seq s
  | .startWork seq => Sys2Proof.Machine.execStartWork seq s
  | .preemptWork seq => Sys2Proof.Machine.execPreemptWork seq s
  | .resumeWork seq => Sys2Proof.Machine.execResumeWork seq s
  | .discardWork seq => Sys2Proof.Machine.execDiscardWork seq s
  | .openWindow seq => Sys2Proof.Machine.execOpenWindow seq s
  | .closeWindow seq => Sys2Proof.Machine.execCloseWindow seq s
  | .readRows seq => Sys2Proof.Machine.execReadRows seq s
  | .writeRows seq => Sys2Proof.Machine.execWriteRows seq s
  | .setModuleId seq => Sys2Proof.Machine.execSetModuleId seq s
  | .setRoutes seq => Sys2Proof.Machine.execSetRoutes seq s
  | .portDisable seq => Sys2Proof.Machine.execPortDisable seq s
  | .portEnable seq => Sys2Proof.Machine.execPortEnable seq s
  | .forwardingOff seq => Sys2Proof.Machine.execForwardingOff seq s
  | .forwardingOn seq => Sys2Proof.Machine.execForwardingOn seq s
  | .preferLeader seq => Sys2Proof.Machine.execPreferLeader seq s
  | .preferFollower seq => Sys2Proof.Machine.execPreferFollower seq s
  | .encryptionOff seq => Sys2Proof.Machine.execEncryptionOff seq s
  | .encryptionOn seq => Sys2Proof.Machine.execEncryptionOn seq s
  | .installKey seq => Sys2Proof.Machine.execInstallKey seq s
  | .laserRelease seq => Sys2Proof.Machine.execLaserRelease seq s
  | .laserRestore seq => Sys2Proof.Machine.execLaserRestore seq s
  | .setReproducible seq => Sys2Proof.Machine.execSetReproducible seq s
  | .voteCoreState seq => Sys2Proof.Machine.execVoteCoreState seq s
  | .voteDieState seq => Sys2Proof.Machine.execVoteDieState seq s
  | .votePhotonicState seq => Sys2Proof.Machine.execVotePhotonicState seq s
  | .voteModuleState seq => Sys2Proof.Machine.execVoteModuleState seq s
  | .voteOperatingPoint seq => Sys2Proof.Machine.execVoteOperatingPoint seq s
  | .voteWithdraw seq => Sys2Proof.Machine.execVoteWithdraw seq s
  | .requestPowerLimit seq => Sys2Proof.Machine.execRequestPowerLimit seq s
  | .requestThrottlePoint seq => Sys2Proof.Machine.execRequestThrottlePoint seq s
  | .readStatus seq => Sys2Proof.Machine.execReadStatus seq s
  | .clearStatus seq => Sys2Proof.Machine.execClearStatus seq s
  | .runTestCore seq => Sys2Proof.Machine.execRunTestCore seq s
  | .runTestLink seq => Sys2Proof.Machine.execRunTestLink seq s
  | .runTestStack seq => Sys2Proof.Machine.execRunTestStack seq s
  | .restartStandby seq => Sys2Proof.Machine.execRestartStandby seq s
  | .domainEntryBegin dom => Sys2Proof.Machine.execDomainEntryBegin dom s
  | .entryComplete dom => Sys2Proof.Machine.execEntryComplete dom s
  | .accessWake dom src => Sys2Proof.Machine.execAccessWake dom src s
  | .wakeComplete dom => Sys2Proof.Machine.execWakeComplete dom s
  | .pllLock die => Sys2Proof.Machine.execPllLock die s
  | .voltageReached die => Sys2Proof.Machine.execVoltageReached die s
  | .padRelease pad => Sys2Proof.Machine.execPadRelease pad s
  | .inputPowerSample watts avg100 avg1ms avg10ms => Sys2Proof.Machine.execInputPowerSample watts avg100 avg1ms avg10ms s
  | .powerTransientStep => Sys2Proof.Machine.execPowerTransientStep s
  | .powerSustainedStep => Sys2Proof.Machine.execPowerSustainedStep s
  | .powerCeilingRise => Sys2Proof.Machine.execPowerCeilingRise s
  | .sensorRead temps => Sys2Proof.Machine.execSensorRead temps s
  | .throttleRepeat die => Sys2Proof.Machine.execThrottleRepeat die s
  | .throttleRise die => Sys2Proof.Machine.execThrottleRise die s
  | .thermTrip die sensor => Sys2Proof.Machine.execThermTrip die sensor s
  | .coolantFault => Sys2Proof.Machine.execCoolantFault s
  | .coolantClear => Sys2Proof.Machine.execCoolantClear s
  | .supplyFault supply => Sys2Proof.Machine.execSupplyFault supply s
  | .vaonLoss => Sys2Proof.Machine.execVaonLoss s
  | .phaseFailOpen die => Sys2Proof.Machine.execPhaseFailOpen die s
  | .phaseSenseMismatch die => Sys2Proof.Machine.execPhaseSenseMismatch die s
  | .phaseStepRepeat die => Sys2Proof.Machine.execPhaseStepRepeat die s
  | .rindAlarm => Sys2Proof.Machine.execRindAlarm s
  | .smbusAddressMatch address => Sys2Proof.Machine.execSmbusAddressMatch address s
  | .aonRst smbAddr => Sys2Proof.Machine.execAonRst smbAddr s
  | .sysRst => Sys2Proof.Machine.execSysRst s
  | .bootBegin bootSrc selfTest fuseCheck flashAnswers => Sys2Proof.Machine.execBootBegin bootSrc selfTest fuseCheck flashAnswers s
  | .assayImageRead image => Sys2Proof.Machine.execAssayImageRead image s
  | .managementImageRead image => Sys2Proof.Machine.execManagementImageRead image s
  | .firmwareReady phases => Sys2Proof.Machine.execFirmwareReady phases s
  | .bootTimeout => Sys2Proof.Machine.execBootTimeout s
  | .debugUnlock token => Sys2Proof.Machine.execDebugUnlock token s
  | .spdmGetVersion request => Sys2Proof.Machine.execSpdmGetVersion request s
  | .spdmGetCapabilities request => Sys2Proof.Machine.execSpdmGetCapabilities request s
  | .spdmNegotiateAlgorithms request => Sys2Proof.Machine.execSpdmNegotiateAlgorithms request s
  | .spdmGetDigests request => Sys2Proof.Machine.execSpdmGetDigests request s
  | .spdmGetCertificate request => Sys2Proof.Machine.execSpdmGetCertificate request s
  | .spdmChallenge request => Sys2Proof.Machine.execSpdmChallenge request s
  | .spdmGetMeasurements request => Sys2Proof.Machine.execSpdmGetMeasurements request s
  | .smbIdentRead => Sys2Proof.Machine.execSmbIdentRead s
  | .smbStateRead => Sys2Proof.Machine.execSmbStateRead s
  | .smbLatchRead => Sys2Proof.Machine.execSmbLatchRead s
  | .smbLatchWrite pecOk value => Sys2Proof.Machine.execSmbLatchWrite pecOk value s
  | .smbTempRead => Sys2Proof.Machine.execSmbTempRead s
  | .smbPowerRead => Sys2Proof.Machine.execSmbPowerRead s
  | .smbAlarmRead => Sys2Proof.Machine.execSmbAlarmRead s
  | .smbAlertEnRead => Sys2Proof.Machine.execSmbAlertEnRead s
  | .smbAlertEnWrite pecOk value => Sys2Proof.Machine.execSmbAlertEnWrite pecOk value s
  | .smbNonceRead => Sys2Proof.Machine.execSmbNonceRead s
  | .smbusAlertResponse => Sys2Proof.Machine.execSmbusAlertResponse s
  | .smbusTimeout => Sys2Proof.Machine.execSmbusTimeout s
  | .skimRailSet die mv => Sys2Proof.Machine.execSkimRailSet die mv s
  | .skimRailSettled die => Sys2Proof.Machine.execSkimRailSettled die s
  | .currentExceedsPhaseCapacity die => Sys2Proof.Machine.execCurrentExceedsPhaseCapacity die s
  | .vaonRise smbAddr => Sys2Proof.Machine.execVaonRise smbAddr s
  | .linkReachesL0 => Sys2Proof.Machine.execLinkReachesL0 s

end Sys2Proof.Machine
end

