-- ==== Sys2Proof/WellFormed.lean ====
section
/-! DEFINITION. Well-formed commands: every part that a command names is a part of the module, and every operand lies in
its range. -/

namespace Sys2Proof

/-- Rows of a store (R228). -/
def storeLen (store : Nat) : Nat := if store = 1 then 1024 else 2048

/-- The domain exists (R516). -/
def Domain.wf : Domain → Bool
  | .core n => n < Config.nCores
  | .die n => n < Config.nDies
  | .photonic n => n < Config.nPhotonic
  | .module => true

/-- A partition client has an ID from 1 to 63 (R519, R424). -/
def WakeSource.wf : WakeSource → Bool
  | .partition p => 1 ≤ p && p ≤ Config.maxPartition
  | .host => true
  | .firmware => true
  | .assay => true
  | .linkManager => true
  | .debug => true
  | .smbus => true
  | .alarm => true
  | .perst => true

/-- The pads exist (R530): HBM PHYs stand on dies, die-to-die pads between two of them. -/
def Pad.wf : Pad → Bool
  | .hbmPhy d => d < Config.nDies
  | .ucie a b => a < Config.nDies && b < Config.nDies
  | .xspi => true
  | .elsfp => true
  | .tdo => true

def FaultSource.wf : FaultSource → Bool
  | .record c => c < Config.nCores
  | .checkError c => c < Config.nCores
  | .dieFailed d => d < Config.nDies
  | .stackFailed k => k < Config.nStacks
  | .spareExhausted c => c < Config.nCores
  | .hubFailed => true

def HubWrite.wf : HubWrite → Bool
  | .route _ _ => true
  | .retain c _ => c < Config.nCores
  | .vote d _ => d.wf

/-- A container holds a flit of 256 bytes (R378, R380). -/
def Container.wf (c : Container) : Bool := c.flit.length == 256

def Instr.wf : Instr → Bool
  | .listStart core => core < Config.nCores
  | .listFetchReturn core ahead => core < Config.nCores && ahead < 4
  | .endList core => core < Config.nCores
  | .runLayer core => core < Config.nCores
  | .skimDownUnconfirmed core => core < Config.nCores
  | .skimBackUnconfirmed core => core < Config.nCores
  | .layerDrainEnd core => core < Config.nCores
  | .moveCopy core => core < Config.nCores
  | .moveCompress core => core < Config.nCores
  | .moveZeroRunStore core => core < Config.nCores
  | .moveMaskTranspose core => core < Config.nCores
  | .moveScatterAdd core => core < Config.nCores
  | .moveReduceContribution core => core < Config.nCores
  | .moveSelectiveFetch core => core < Config.nCores
  | .dieDmaMoveStart core => core < Config.nCores
  | .moveComplete core _ => core < Config.nCores
  | .hbmWriteAck core stack => core < Config.nCores && stack < Config.nStacks
  | .fill core => core < Config.nCores
  | .markEmpty core => core < Config.nCores
  | .markFull core => core < Config.nCores
  | .copy core => core < Config.nCores
  | .rowEngineComplete core => core < Config.nCores
  | .waitCount core => core < Config.nCores
  | .waitCountMet core => core < Config.nCores
  | .waitTag core => core < Config.nCores
  | .waitTagMet core => core < Config.nCores
  | .signal core => core < Config.nCores
  | .signalSend core => core < Config.nCores
  | .openHoop core => core < Config.nCores
  | .hoopOpened core => core < Config.nCores
  | .closeHoop core => core < Config.nCores
  | .closeHoopComplete core => core < Config.nCores
  | .histogramArm core => core < Config.nCores
  | .histogramStop core => core < Config.nCores
  | .histogramDump core => core < Config.nCores
  | .histogramDumpAndClear core => core < Config.nCores
  | .turn core => core < Config.nCores
  | .turnCommitWrite core => core < Config.nCores
  | .turnDone core => core < Config.nCores
  | .branchOnCount core => core < Config.nCores
  | .branchDecrement core => core < Config.nCores
  | .loopLoad core => core < Config.nCores
  | .quantise core => core < Config.nCores
  | .scaleGradient core => core < Config.nCores
  | .optimiserUpdate core => core < Config.nCores
  | .topK core => core < Config.nCores
  | .rowOperation core => core < Config.nCores
  | .vectorOpComplete core => core < Config.nCores
  | .fsuJob core => core < Config.nCores
  | .fsuJobComplete core => core < Config.nCores
  | .accessGrantAfterWait core _ => core < Config.nCores
  | .watchdogExpiry core _ => core < Config.nCores
  | .remoteWriteArrival core _ => core < Config.nCores
  | .reduceAddArrival core _ => core < Config.nCores
  | .signalArrival core _ => core < Config.nCores
  | .remoteRead core _ => core < Config.nCores
  | .remoteReadRetry core _ => core < Config.nCores
  | .conflictQueueRetire core => core < Config.nCores
  | .scrubVisit core _ => core < Config.nCores
  | .spareCopy core store row => core < Config.nCores && store < 3 && row < storeLen store
  | .reducerContribution die _ => die < Config.nDies
  | .ctuTranslationFill core _ => core < Config.nCores
  | .routeEntryFill die _ => die < Config.nDies
  | .hbmPatrolScrub stack _ => stack < Config.nStacks
  | .hbmSoftRepair _ => true
  | .frameReceive port frame => port < Config.nPorts && frame.all Container.wf && frame.length == 5
  | .flitTransmit port => port < Config.nPorts
  | .recordCloseEarly port => port < Config.nPorts
  | .replayTimeout port => port < Config.nPorts
  | .packetRoute core _ => core < Config.nCores
  | .packetArrival port vc => port < Config.nPorts && vc < 4
  | .forwardTimeout port vc => port < Config.nPorts && vc < 4
  | .appliedResponseSend _ => true
  | .appliedResponse port => port < Config.nPorts
  | .refusedResponse port => port < Config.nPorts
  | .unreachableResponse port => port < Config.nPorts
  | .readDataResponse port => port < Config.nPorts
  | .notReadyResponse port => port < Config.nPorts
  | .managementMessage port => port < Config.nPorts
  | .lightDetected port mask => port < Config.nPorts && mask < 512
  | .trainingComplete port _ => port < Config.nPorts
  | .trainingFail port => port < Config.nPorts
  | .frameLockLost port => port < Config.nPorts
  | .frameLockReturn port => port < Config.nPorts
  | .holdTimeout port => port < Config.nPorts
  | .downRetrain port => port < Config.nPorts
  | .laneDegrade port lane => port < Config.nPorts && lane < 8
  | .laneMove port => port < Config.nPorts
  | .laneTest port wl _ => port < Config.nPorts && wl < 9
  | .roleRequest port => port < Config.nPorts
  | .handover port => port < Config.nPorts
  | .roleChangeover port => port < Config.nPorts
  | .fenceRequest port => port < Config.nPorts
  | .fenceMarker port vc => port < Config.nPorts && vc < 4
  | .fenceTimeout port => port < Config.nPorts
  | .laserInputLoss pd input => pd < Config.nPhotonic && input < 2
  | .pageZeroiseDone stack => stack < Config.nStacks
  | .partitionPowerSample _ => true
  | .powerGating => true
  | .releaseDrainEnd seq => seq < 2 ^ 64
  | .faultClassify source => source.wf
  | .spareSelfTestDone core _ => core < Config.nCores
  | .linkRetire link => link < 24
  | .coreSelfTestDone core _ => core < Config.nCores
  | .darkSpareDailyTest core => core < Config.nCores
  | .heartbeat _ => true
  | .heartbeatLapse _ => true
  | .stampClaim _ _ => true
  | .assayCycle => true
  | .standbyRelease _ => true
  | .hubControlWrite _ write => write.wf
  | .assayRequest _ => true
  | .channelEnable ch _ => ch < Config.nChannels
  | .channelDisable ch => ch < Config.nChannels
  | .sqDoorbell ch _ _ => ch < Config.nChannels
  | .cqDoorbell ch _ => ch < Config.nChannels
  | .commandAccept ch => ch < Config.nChannels
  | .completionRecordWrite ch => ch < Config.nChannels
  | .ledgerAttach _ => true
  | .evqEnable _ => true
  | .evqDisable => true
  | .evqDoorbell _ => true
  | .eventRecordWrite => true
  | .alarmEnableWrite _ => true
  | .assayStatusWrite offset _ => offset < 2 ^ 36
  | .registerWrite offset _ => offset < 2 ^ 36
  | .bar2Read offset _ => offset < 2 ^ 36
  | .bar2Write offset _ => offset < 2 ^ 36
  | .perstAssert => true
  | .perstDeassert _ => true
  | .hostLinkLoss => true
  | .identify seq => seq < 2 ^ 64
  | .queryLedger seq => seq < 2 ^ 64
  | .queryCores seq => seq < 2 ^ 64
  | .readFault seq => seq < 2 ^ 64
  | .createPartition seq => seq < 2 ^ 64
  | .destroyPartition seq => seq < 2 ^ 64
  | .bindResources seq => seq < 2 ^ 64
  | .releaseResources seq => seq < 2 ^ 64
  | .moveResources seq => seq < 2 ^ 64
  | .queryPartition seq => seq < 2 ^ 64
  | .startWork seq => seq < 2 ^ 64
  | .preemptWork seq => seq < 2 ^ 64
  | .resumeWork seq => seq < 2 ^ 64
  | .discardWork seq => seq < 2 ^ 64
  | .openWindow seq => seq < 2 ^ 64
  | .closeWindow seq => seq < 2 ^ 64
  | .readRows seq => seq < 2 ^ 64
  | .writeRows seq => seq < 2 ^ 64
  | .setModuleId seq => seq < 2 ^ 64
  | .setRoutes seq => seq < 2 ^ 64
  | .portDisable seq => seq < 2 ^ 64
  | .portEnable seq => seq < 2 ^ 64
  | .forwardingOff seq => seq < 2 ^ 64
  | .forwardingOn seq => seq < 2 ^ 64
  | .preferLeader seq => seq < 2 ^ 64
  | .preferFollower seq => seq < 2 ^ 64
  | .encryptionOff seq => seq < 2 ^ 64
  | .encryptionOn seq => seq < 2 ^ 64
  | .installKey seq => seq < 2 ^ 64
  | .laserRelease seq => seq < 2 ^ 64
  | .laserRestore seq => seq < 2 ^ 64
  | .setReproducible seq => seq < 2 ^ 64
  | .voteCoreState seq => seq < 2 ^ 64
  | .voteDieState seq => seq < 2 ^ 64
  | .votePhotonicState seq => seq < 2 ^ 64
  | .voteModuleState seq => seq < 2 ^ 64
  | .voteOperatingPoint seq => seq < 2 ^ 64
  | .voteWithdraw seq => seq < 2 ^ 64
  | .requestPowerLimit seq => seq < 2 ^ 64
  | .requestThrottlePoint seq => seq < 2 ^ 64
  | .readStatus seq => seq < 2 ^ 64
  | .clearStatus seq => seq < 2 ^ 64
  | .runTestCore seq => seq < 2 ^ 64
  | .runTestLink seq => seq < 2 ^ 64
  | .runTestStack seq => seq < 2 ^ 64
  | .restartStandby seq => seq < 2 ^ 64
  | .domainEntryBegin dom => dom.wf
  | .entryComplete dom => dom.wf
  | .accessWake dom src => dom.wf && src.wf
  | .wakeComplete dom => dom.wf
  | .pllLock die => die < Config.nDies
  | .voltageReached die => die < Config.nDies
  | .padRelease pad => pad.wf
  | .inputPowerSample _ _ _ _ => true
  | .powerTransientStep => true
  | .powerSustainedStep => true
  | .powerCeilingRise => true
  | .sensorRead _ => true
  | .throttleRepeat die => die < Config.nDies
  | .throttleRise die => die < Config.nDies
  | .thermTrip die sensor => die < 21 && sensor < 8
  | .coolantFault => true
  | .coolantClear => true
  | .supplyFault supply => supply < 5
  | .vaonLoss => true
  | .phaseFailOpen die => die < 21
  | .phaseSenseMismatch die => die < 21
  | .phaseStepRepeat die => die < Config.nDies
  | .rindAlarm => true
  | .smbusAddressMatch _ => true
  | .aonRst _ => true
  | .sysRst => true
  | .bootBegin _ _ _ _ => true
  | .assayImageRead _ => true
  | .managementImageRead _ => true
  | .firmwareReady _ => true
  | .bootTimeout => true
  | .debugUnlock _ => true
  | .spdmGetVersion _ => true
  | .spdmGetCapabilities _ => true
  | .spdmNegotiateAlgorithms _ => true
  | .spdmGetDigests _ => true
  | .spdmGetCertificate _ => true
  | .spdmChallenge _ => true
  | .spdmGetMeasurements _ => true
  | .smbIdentRead => true
  | .smbStateRead => true
  | .smbLatchRead => true
  | .smbLatchWrite _ _ => true
  | .smbTempRead => true
  | .smbPowerRead => true
  | .smbAlarmRead => true
  | .smbAlertEnRead => true
  | .smbAlertEnWrite _ _ => true
  | .smbNonceRead => true
  | .smbusAlertResponse => true
  | .smbusTimeout => true
  | .skimRailSet die mv => die < Config.nDies && 480 ≤ mv && mv ≤ 600
  | .skimRailSettled die => die < Config.nDies
  | .currentExceedsPhaseCapacity die => die < Config.nDies
  | .vaonRise _ => true
  | .linkReachesL0 => true

end Sys2Proof
end

