-- ==== Sys2Proof/Safety.lean ====
section
/-! DEFINITION. The terms that statements use: an entry that is ready to issue, a mailbox command that begins, a port in a state,
what a group of commands leaves alone, and the invariants of the machine. -/

namespace Sys2Proof.Machine

/-- A safe outcome: the module goes on. -/
abbrev Safe (o : Out) : Prop := ∃ t, o = .next t

/-- One byte of a physical address: a store's, HBM's, or the host's. -/
abbrev byteAt (s : State) (a : Nat) : Byte := cellByte s.mem a

/-! ## When commands take effect -/

/-- Entry `e` of a kind is next on a core, none of its fields is refused, and no `SYNC` holds it (R327 to R331). -/
abbrev Ready (s : State) (core kind e : Nat) : Prop :=
  core < Config.nCores ∧ current (getCore s core) = some e ∧ enKind e = kind ∧ enCheck (getCore s core) e = none ∧
  (enSync e = false ∨ (getCore s core).seq.issued = [])

/-- An entry of a kind blocks the sequencer of a core (R328). -/
abbrev Blocks (s : State) (core kind : Nat) (b : SeqBlock) : Prop :=
  core < Config.nCores ∧ blocked (getCore s core) kind = some b

/-- The number of the issue that a core makes next, as jobs and signals carry it. -/
abbrev nextIssue (s : State) (core : Nat) : Nat := ticket (getCore s core)

/-- What a unit gets for an entry of its own. -/
abbrev unitJob (s : State) (core e : Nat) : Job := newJob (nextIssue s core) e .both [.start] 0 0

/-- The engines of a core DMA move, by which of its two sides lie in the core's own stores (R306). -/
def enginesOf (co : Core) (src dst : Nat) : Option Engines :=
  match tdOwn co src, tdOwn co dst with
  | none, none => none
  | some _, some _ => some .both
  | none, some _ => some .inOnly
  | some _, none => some .outOnly

/-- The engines have room for another move (R327). -/
abbrev engineRoom (co : Core) (e : Engines) : Prop :=
  (e = .outOnly ∨ engineJobs co .inOnly < 3) ∧ (e = .inOnly ∨ engineJobs co .outOnly < 3)

/-- The next arrival of a core at position `k` meets an open hoop that accepts it (R250, R255). -/
abbrev Accepted (s : State) (core k : Nat) (a : Arrival) : Prop :=
  core < Config.nCores ∧ nextArrival (getCore s core) k = some a ∧
  hoopCheck (getCore s core) a.hoop a.source a.kind a.row 1 = .ok

/-- The accepted command of a sequence number carries an opcode and may begin (R488); `bs` are its 64 bytes. -/
abbrev Begins (s : State) (seq op : Nat) (bs : List Byte) : Prop := (mayBegin s seq op).map (·.bytes) = some bs

/-- A port of the module in a state of R390. -/
abbrev PortIs (s : State) (port : Nat) (l : LinkState) : Prop := port < Config.nPorts ∧ (getPort s port).link = l

/-- The hub answers SMBus and no entry to M2 is under way. -/
abbrev Answers (s : State) : Prop := smbUp s = true ∧ s.m3 = false ∧ s.modulePd.entry = none

/-! ## What the units of the cores leave alone -/

/-- The state with everything that the units of the cores write set to a constant: two states that agree under it have the same
partitions, windows, routes, photonic dies, channels, commands, ledger, alarms, stamp, boot, SMBus, Rind, power domains and pads. -/
def unitCtl (s : State) : State :=
  { s with freeCtr := 0, mem := [], full := [], poison := [], errOne := [], errMany := [], errFound := [], scrubNext := [], ceHistory := [],
           poisonLog := [], cores := [], dies := [], hbmStacks := [], ports := [], rxTracks := [], works := [],
           evq := EventQueue.reset }

/-- The commands that the units of the cores, their arrivals and the die reducers carry out. -/
def unitCommand : Instr → Bool
  | .listStart _ => true
  | .listFetchReturn _ _ => true
  | .runLayer _ => true
  | .skimDownUnconfirmed _ => true
  | .skimBackUnconfirmed _ => true
  | .moveCopy _ => true
  | .moveCompress _ => true
  | .moveZeroRunStore _ => true
  | .moveMaskTranspose _ => true
  | .moveScatterAdd _ => true
  | .moveReduceContribution _ => true
  | .moveSelectiveFetch _ => true
  | .dieDmaMoveStart _ => true
  | .moveComplete _ _ => true
  | .hbmWriteAck _ _ => true
  | .fill _ => true
  | .markEmpty _ => true
  | .markFull _ => true
  | .copy _ => true
  | .rowEngineComplete _ => true
  | .waitCount _ => true
  | .waitCountMet _ => true
  | .waitTag _ => true
  | .waitTagMet _ => true
  | .signal _ => true
  | .signalSend _ => true
  | .openHoop _ => true
  | .hoopOpened _ => true
  | .closeHoop _ => true
  | .closeHoopComplete _ => true
  | .histogramArm _ => true
  | .histogramStop _ => true
  | .histogramDump _ => true
  | .histogramDumpAndClear _ => true
  | .turn _ => true
  | .turnCommitWrite _ => true
  | .branchOnCount _ => true
  | .branchDecrement _ => true
  | .loopLoad _ => true
  | .quantise _ => true
  | .scaleGradient _ => true
  | .optimiserUpdate _ => true
  | .topK _ => true
  | .rowOperation _ => true
  | .vectorOpComplete _ => true
  | .fsuJob _ => true
  | .fsuJobComplete _ => true
  | .accessGrantAfterWait _ _ => true
  | .watchdogExpiry _ _ => true
  | .ctuTranslationFill _ _ => true
  | .remoteReadRetry _ _ => true
  | .remoteWriteArrival _ _ => true
  | .reduceAddArrival _ _ => true
  | .signalArrival _ _ => true
  | .remoteRead _ _ => true
  | .conflictQueueRetire _ => true
  | .reducerContribution _ _ => true
  | _ => false

/-! ## Invariants -/

/-- `HOLDER` is a code of R472, and the processor that holds the stamp is not held in reset (R466, R471). -/
abbrev StampOk (t : Stamp) : Prop :=
  t.holder ≤ 2 ∧ (t.holder = 1 → t.mpA.held = false) ∧ (t.holder = 2 → t.mpB.held = false)

/-- Memory keeps its canonical form. -/
abbrev MemoryOk (s : State) : Prop := Memory.wf s.mem = true

/-- The voltage of a compute die carries its clock (R514): the present point never needs more than the regulators give. -/
abbrev VoltageOk (p : DiePower) : Prop := pointMv p.point ≤ p.mv

end Sys2Proof.Machine
end

