-- ==== Sys2Proof/Certificates/Slice0/Obligations.lean ====
section
/-! DEFINITION. The statements about the module, from the numbered rules of the spec. A statement of a command's effect has as its
conclusion that the command answers the next state that the rules give, for every state that meets its hypotheses; every part of the
state that the given next state does not name is as before. -/

section

open Sys2Proof Sys2Proof.Machine

/-! ## The queue, the machine as a whole -/

/-- The command at the front of the queue runs on the state with the rest of the queue. -/
def Obligations.StepRunsTheFrontCommand : Prop :=
  ∀ (c : Instr) (rest : List Instr) (s : State), s.pending = c :: rest → step s = exec c { s with pending := rest }

/-- With no command waiting one tick of the 25 MHz reference passes, 40 ns: it counts while the hub has power (R510), and the Rind's
time counter (R509) follows the phase of its 32.768 kHz clock; in M3 nothing passes. Each die DMA engine moves one row: of the
cores of its die, the first after the one served last that has a row ready (R307); where no move has one, nothing else changes.
That a step on an empty queue is a tick, and that a tick moves one row, are the model's choices (logs 2 and 91). -/
def Obligations.IdleStepPassesOneTick : Prop :=
  (∀ s : State, s.pending = [] →
    (s.m3 = true → step s = .next s) ∧
    (s.m3 = false → s.acc40 + 32768 < 25000000 → step s = .next (serveDies
      { s with refCount := if hubOn s then s.refCount + 1 else s.refCount, acc40 := s.acc40 + 32768 })) ∧
    (s.m3 = false → 25000000 ≤ s.acc40 + 32768 → step s = .next (serveDies
      { s with refCount := if hubOn s then s.refCount + 1 else s.refCount, acc40 := s.acc40 + 32768 - 25000000,
               rind := { s.rind with time := s.rind.time + 1 } }))) ∧
  (∀ s : State, s.cores.any (fun e => (turnJob e.2).isSome) = false → serveDies s = s) ∧
  (∀ (s t : State) (d c : Nat) (cs : List Nat), serviceOrder (getDie s d).dmaLast d = c :: cs → serveCore s c = some t →
    serveDie s d = modDie t d fun e => { e with dmaLast := some c })

/-- What reset leaves, for the values that the spec gives: the stamp (R472), boot stage and mailbox mode (R588), the module ID
(R408), the Assay limits (R595), the status registers of ports (R421), channels (R478), dies (R545) and auxiliary dies (R546),
alarms (R589), the accounting records (R524), and the stores, with every row zero and tagged empty (R262). -/
def Obligations.ResetValues : Prop :=
  State.reset.pending = [] ∧ assayStamp State.reset = 0 ∧ State.reset.stamp.staleCount = 0 ∧ State.reset.boot.stage = 0 ∧
  State.reset.legacy = false ∧ State.reset.reproducible = false ∧ State.reset.moduleId = none ∧
  State.reset.assay.sustained = 2800 ∧ State.reset.assay.throttlePoint = 100 ∧ State.reset.alarms.status = 0 ∧
  State.reset.alarms.enable = 0 ∧ State.reset.stamp.mpA.held = true ∧ State.reset.stamp.mpB.held = true ∧
  (∀ p, jpStatus (getPort State.reset p) = 0xF * 2 ^ 18) ∧
  (∀ c, mbxStatus (getCh State.reset c) = 0) ∧
  (∀ d, fld (diePwrStatus State.reset d) 0 3 = 0 ∧ fld (diePwrStatus State.reset d) 11 2 = 1 ∧
    fld (diePwrStatus State.reset d) 24 4 = 14) ∧
  auxPwrStatus State.reset 0 = 6 * 2 ^ 24 ∧ auxPwrStatus State.reset 4 = 4 * 2 ^ 24 ∧
  (∀ d, (getPower State.reset d).lastRefuser = 0xFF ∧ (getPower State.reset d).lastAborter = 0xFF ∧
    (getPower State.reset d).refusals = 0 ∧ (getPower State.reset d).aborts = 0 ∧ (getPower State.reset d).replays = 0) ∧
  (∀ r, isFull State.reset r = false) ∧ (∀ core store r, byteAt State.reset (512 * storeRow core store r) = 0)

/-- The invariants hold right after reset. -/
def Obligations.ResetMeetsTheInvariants : Prop :=
  MemoryOk State.reset ∧ StampOk State.reset.stamp ∧ ∀ d, VoltageOk (getDie State.reset d).power

/-- Every command is answered with a next state in every state, unless it names a part that the module does not have: then it is not
well formed, and the step stops. No command of the table is refused. No command changes the queue of waiting commands. -/
def Obligations.EveryCommandAnswers : Prop :=
  (∀ (c : Instr) (s : State), Safe (exec c s) ∨ (exec c s = .fault .noSuchPart ∧ c.wf = false)) ∧
  (∀ (c : Instr) (s t : State), exec c s = .next t → t.pending = s.pending)

/-- Every step keeps memory in its canonical form: addresses strictly rising, no zero byte listed. -/
def Obligations.EveryStepKeepsMemoryForm : Prop :=
  ∀ s t : State, MemoryOk s → step s = .next t → MemoryOk t

/-- Every step keeps the rule of the stamp: `HOLDER` is a code of R472 and the processor that holds the stamp runs (R466, R471). -/
def Obligations.EveryStepKeepsTheStamp : Prop :=
  ∀ s t : State, StampOk s.stamp → step s = .next t → StampOk t.stamp

/-- What the units of the cores, their arrivals and the die reducers leave alone: partitions, windows, routes, photonic dies,
channels, commands, the ledger, alarms, the stamp, boot, SMBus, the Rind, power domains and pads. -/
def Obligations.UnitCommandsLeaveTheRest : Prop :=
  ∀ (c : Instr) (s t : State), unitCommand c = true → exec c s = .next t → unitCtl t = unitCtl s

/-! ## Operations of the memory and of the forms -/

/-- A write of bytes to memory is read back, and every other byte is as before. A row write that is not refused changes the bytes of
its row under its mask and no other byte of memory; one that is refused changes no byte (R271, R321). -/
def Obligations.MemoryWritesReadBack : Prop :=
  (∀ (m : List Host.Cell) (a x : Nat) (bs : List Byte),
     cellByte (memWrite m a bs) x = if a ≤ x ∧ x < a + bs.length then nth bs (x - a) 0 else cellByte m x) ∧
  (∀ (s : State) (row mask x : Nat) (data : List Byte), data.length = 512 →
     byteAt (putRow s row data mask).1 x =
       if (putRow s row data mask).2 = none ∧ x / 512 = row ∧ bitAt mask (x % 512) then nth data (x % 512) 0 else byteAt s x)

/-- A row that a fill writes under put, its row empty and its translation cached, of an awake core, in no open hoop and held by no
other operation: every byte of it is the byte of the 32-bit pattern, the row is full, and no other byte and no other tag changes
(R236, R240). -/
def Obligations.FillWritesItsPattern : Prop :=
  ∀ (s : State) (core store row pattern : Nat) (j : Job) (w : Who), w.core = core → core < Config.nCores → store < 3 →
    row < storeRows store → (getPower s (.core core)).st < 2 → inOpenHoop (getCore s core) store row = false →
    heldByOther (getCore s core) (storeRow core store row) w.unit w.idx = false → ownMiss s w store row = none →
    isFull s (storeRow core store row) = false →
    ∃ t, microStep s w j (.fillRow store row .put pattern) = .ok t j ∧
      (∀ x, byteAt t x = if x / 512 = storeRow core store row then BitVec.ofNat 8 (pattern / 256 ^ (x % 4)) else byteAt s x) ∧
      ∀ r, isFull t r = (r == storeRow core store row || isFull s r)

/-- After the last pass of a slice, each group accumulator of each cell holds exactly the sum over the positions of the group of the
products of the elements, with the elements valued by their planes: signed and unsigned operands by the plane weights, and binary
ones as -1 and +1 (R47, R55 to R57). No other order of the same passes changes it (R59). -/
def Obligations.PassesSumToTheDotProduct : Prop :=
  (∀ b : SliceBits, b.aKind ≠ 2 → accAfter b (passOrder b.a b.w) = b.groups.map fun g => b.cells.map fun c =>
     ((List.range 128).map fun k =>
       if bitAt g k then
         ((List.range b.a).map fun i =>
           if bitAt (b.aBits c.1 c.2 i) k then (if planeNeg b.aKind b.a i then -1 else 1 : Int) * (2 ^ i : Nat) else 0).sum *
         ((List.range b.w).map fun j =>
           if bitAt (b.wBits c.2 j) k then (if planeNeg b.wKind b.w j then -1 else 1 : Int) * (2 ^ j : Nat) else 0).sum
       else 0).sum) ∧
  (∀ b : SliceBits, b.aKind = 2 → b.a = 1 → b.w = 1 →
     accAfter b (passOrder b.a b.w) = b.groups.map fun g => b.cells.map fun c =>
       ((List.range 128).map fun k =>
         if bitAt g k then
           (if bitAt (b.aBits c.1 c.2 0) k then 1 else -1 : Int) * (if bitAt (b.wBits c.2 0) k then 1 else -1)
         else 0).sum) ∧
  (∀ (b : SliceBits) (ps : List (Nat × Nat)), ps.Perm (passOrder b.a b.w) → accAfter b ps = accAfter b (passOrder b.a b.w))

/-- A commit record, as a turn writes it, is 64 bytes long, is valid for its list and its work (R363), and gives back the turn, the
entry after the turn, the resume entry and the loop registers (R362, R364). -/
def Obligations.CommitRecordReadsBack : Prop :=
  ∀ (co : Core) (idx e turn : Nat),
    (commitRecord co idx e turn).length = 64 ∧
    recordValid (commitRecord co idx e turn) (co.seq.listId % 2 ^ 32) (co.seq.workSeq % 2 ^ 64) = true ∧
    crTurn (leNat (commitRecord co idx e turn)) = turn % 65536 ∧
    fld (leNat (commitRecord co idx e turn)) 48 24 = (idx + 1) % 2 ^ 24 ∧
    fld (leNat (commitRecord co idx e turn)) 72 24 = fld e 48 24 ∧
    fld (leNat (commitRecord co idx e turn)) 192 32 = co.seq.l0.toNat ∧
    fld (leNat (commitRecord co idx e turn)) 224 32 = co.seq.l1.toNat ∧
    fld (leNat (commitRecord co idx e turn)) 256 32 = co.seq.l2.toNat ∧
    fld (leNat (commitRecord co idx e turn)) 288 32 = co.seq.l3.toNat

/-- The 32 bytes of a ledger entry (R500) are read back as the entry, when its byte fields are bytes. -/
def Obligations.LedgerEntryReadsBack : Prop :=
  ∀ e : LedgerEntry, e.opcode < 256 → e.st < 256 → e.status < 256 → e.part < 256 →
    (ledgerBytes e).length = 32 ∧ ledgerRead (ledgerBytes e) = some e

/-- The header of a transport packet (R396) gives back the fields of the packet, each at every value its width admits. The port of
arrival, which is not on the fibre, is no field of it. -/
def Obligations.PacketHeaderReadsBack : Prop :=
  ∀ p : Packet, p.hops < 16 → p.score < 1024 → p.seng < 4 → p.mtag < 4096 → p.value < 65536 → p.op < 16 → p.dest < 65536 →
    p.src < 65536 → p.core < 1024 → p.hoop < 16 → p.row < 2048 → packetOf (packetHeader p) p.rows = { p with via := 0 }

/-- The result of a command is fixed once (R501): the first result stands in its record and in its ledger entry, no other command
changes, and a second one changes nothing. -/
def Obligations.ResultIsFixedOnce : Prop :=
  ∀ (s : State) (seq status : Nat) (detail : List Byte) (c : Cmd), tget? s.cmds seq = some c → c.result = none →
    tget? (fixResult s seq status detail).cmds seq =
      some { c with begun := true, draining := false, result := some { status := status, detail := padTo 16 detail } } ∧
    (∀ k, k ≠ seq → tget? (fixResult s seq status detail).cmds k = tget? s.cmds k) ∧
    (∀ e, s.legacy = false → tget? s.ledger.entries seq = some e →
      tget? (fixResult s seq status detail).ledger.entries seq =
        some { e with st := 5, status := status, epoch := s.stamp.epoch }) ∧
    ∀ status' detail', fixResult (fixResult s seq status detail) seq status' detail' = fixResult s seq status detail

/-! ## The sequencer -/

/-- A list starts with its header read through the list base: the header's fields, the resume record's loop registers and turn, the
row fetched and nothing issued; a header with a refused field faults with its lowest-placed field and the list does not start
(R325). A row of the list arrives in the fetch buffer, which keeps four: the row of the entry that issues next or one of the three
after it, within the list (R326). -/
def Obligations.ListsStart : Prop :=
  (∀ (s s1 : State) (core h : Nat) (r : StartReq) (data : List Byte), core < Config.nCores → (getPower s (.core core)).st < 2 →
     (getPower s (.core core)).entry = none → (getCore s core).startReq = some r → baseOk (getCore s core) r.base = true →
     fetchRow s core (r.base / 512) = .ok s1 data → h = numAt data (r.base % 512) 16 →
     (headerBad h = [] → exec (.listStart core) s = .next (modCore s1 core fun co =>
       { co with startReq := none, seq := { co.seq with
           running := true, stopped := false, base := r.base, watchdog := fld h 16 20, listLen := fld h 36 24,
           listId := fld h 60 32, pos := r.entry, l0 := r.l0, l1 := r.l1, l2 := r.l2, l3 := r.l3, turn := r.turn,
           workSeq := r.workSeq, fetch := [(r.base / 512, data)], issued := [], block := none } })) ∧
     (∀ p, minPos (headerBad h) = some p → exec (.listStart core) s = .next
       (raiseFault (modCore s1 core fun co => { co with startReq := none, seq := refusedSeq co.seq r (fld h 60 32) }) core .sequencer 0
         { code := 0x01, unit := 0, addr := r.base, detail := p }))) ∧
  (∀ (s s1 : State) (core ahead row : Nat) (data : List Byte), core < Config.nCores → ahead < 4 →
     (getCore s core).seq.running = true → (getCore s core).seq.stopped = false →
     row = ((getCore s core).seq.base + 16 * (getCore s core).seq.pos) / 512 + ahead →
     ((getCore s core).seq.fetch.any fun e => e.1 == row) = false →
     row ≤ ((getCore s core).seq.base + 16 * (getCore s core).seq.listLen) / 512 →
     fetchRow s core row = .ok s1 data →
     exec (.listFetchReturn core ahead) s = .next (modCore s1 core fun co =>
       { co with seq := { co.seq with fetch := ((row, data) :: co.seq.fetch).take 4 } }))

/-- An entry for a unit of the core that is next, not refused and not held by SYNC issues when its unit has room (R327): it is
queued, the unit runs what it can, and the sequencer goes on to the next entry. A histogram dump carries the counts as they stand
(R186). -/
def Obligations.UnitEntriesIssue : Prop :=
  ∀ (s : State) (core e : Nat),
    (Ready s core 1 e → (getCore s core).press.length < 2 →
      exec (.runLayer core) s = .next (issueJob s core .press (unitJob s core e) 1 false)) ∧
    (∀ x ∈ [(0, Instr.fill core), (1, .markEmpty core), (2, .markFull core)],
      Ready s core 3 e → (getCore s core).rowJobs.length < 2 → fld e 92 2 = x.1 →
      exec x.2 s = .next (issueJob s core .row (unitJob s core e) 3 false)) ∧
    (Ready s core 4 e → (getCore s core).rowJobs.length < 2 →
      exec (.copy core) s = .next (issueJob s core .row (unitJob s core e) 4 false)) ∧
    (∀ x ∈ [(0, Instr.quantise core), (1, .scaleGradient core), (2, .optimiserUpdate core), (3, .topK core), (4, .rowOperation core)],
      Ready s core 13 e → (getCore s core).vecJobs.length < 2 → fld e 48 3 = x.1 →
      exec x.2 s = .next (issueJob s core .vector (unitJob s core e) 13 false)) ∧
    (Ready s core 14 e → (getCore s core).fsuJobs.length < 2 →
      exec (.fsuJob core) s = .next (issueJob s core .fsu (unitJob s core e) 14 false)) ∧
    (∀ x ∈ [(2, false, Instr.histogramDump core), (3, true, .histogramDumpAndClear core)],
      Ready s core 10 e → fld e 2 2 = x.1 → exec x.2.2 s = .next (issueDump s core (nextIssue s core) e x.2.1))

/-- A move that is next issues when both descriptors can be read and its engines have room: to the die DMA when `MOVE_DIE` is set,
else to the engines that its own sides name (R306, R307, R327). One command for each function. -/
def Obligations.MovesIssue : Prop :=
  ∀ (s s1 s2 : State) (core e : Nat) (src dst : List Byte), Ready s core 2 e →
    readBlock s (seqWho core) (fld e 0 48) 64 = .ok s1 src → readBlock s1 (seqWho core) (fld e 48 48) 64 = .ok s2 dst →
    ∀ x ∈ [(0, Instr.moveCopy core), (1, .moveCompress core), (2, .moveZeroRunStore core), (3, .moveMaskTranspose core),
        (4, .moveScatterAdd core), (5, .moveReduceContribution core), (6, .moveSelectiveFetch core)], fld e 96 4 = x.1 →
      (bitAt e 100 = true → (getCore s core).dieJobs.length < 4 →
        exec x.2 s = .next (issueJob s2 core .dieDma
          (newJob (nextIssue s core) e .both [.start] (leNat src) (leNat dst)) 2 (region (tdBase (leNat dst)) == 3))) ∧
      (∀ eng, bitAt e 100 = false → enginesOf (getCore s2 core) (leNat src) (leNat dst) = some eng →
        engineRoom (getCore s2 core) eng →
        exec x.2 s = .next (issueJob s2 core .cdma
          (newJob (nextIssue s core) e eng [.start] (leNat src) (leNat dst)) 2 (region (tdBase (leNat dst)) == 3)))

/-- A finished operation at the head of its unit completes: it leaves the unit, its holds end, its entry completes and the unit goes
on (R327); a layer that drains may end the wait of a set_reproducible command (R146). A move completes once its rows are written,
applied or taken and its HBM writes acknowledged (R327, R403); the die DMA starts the moves of a core in order, and one that has
started waits for the turns of its rows (R307). -/
def Obligations.UnitOperationsComplete : Prop :=
  ∀ (s : State) (core idx stack : Nat) (j : Job) (js : List Job), core < Config.nCores →
    (∀ x ∈ [(CoreUnit.row, Instr.rowEngineComplete core), (.vector, .vectorOpComplete core), (.fsu, .fsuJobComplete core)],
      unitJobs (getCore s core) x.1 = j :: js → j.st = .done → exec x.2 s = .next (finishJob s core x.1 j.idx)) ∧
    ((getCore s core).press = j :: js → j.st = .done →
      exec (.layerDrainEnd core) s = .next (settleRepro (finishJob s core .press j.idx))) ∧
    (findJob (getCore s core) .cdma idx = some j → moveDone (getCore s core) .cdma j = true →
      exec (.moveComplete core idx) s = .next (finishJob s core .cdma idx)) ∧
    (findJob (getCore s core) .cdma idx = none → (getCore s core).dieJobs = j :: js → j.idx = idx →
      moveDone (getCore s core) .dieDma j = true →
      exec (.moveComplete core idx) s =
        .next (modCore s core fun co => completeEntry (dropHoldsOf (dropJob co .dieDma idx) .dieDma idx) idx)) ∧
    (nextDieMove (getCore s core).dieJobs = some j → exec (.dieDmaMoveStart core) s = .next (resume s core .dieDma j)) ∧
    (stack < Config.nStacks → exec (.hbmWriteAck core stack) s = .next (modCore s core fun co =>
      { co with unacked := dropFirst (fun x => x.1 == stack) co.unacked }))

/-- A wait-count and a wait-tag entry block issue (R328); the first ends once (counter - target) mod 2^32 is below 2^31 (R253), the
second once the row's tag is the awaited one (R244), and the sequencer goes on. Entries that the sequencer carries out on registers
at once, and then goes on: arming a Tally engine clears its bins and takes its tap and exponent base, stopping one keeps them
(R186), and loading a loop register writes its value (R336). -/
def Obligations.WaitsAndRegisterEntries : Prop :=
  (∀ (s : State) (core e store row : Nat) (b : SeqBlock),
     (∀ x ∈ [(5, Instr.waitCount core), (6, .waitTag core)], Ready s core x.1 e →
       exec x.2 s = .next (modCore s core fun co =>
         { co with seq := { co.seq with block := some { idx := nextIssue s core, entry := e, stage := 0 } } })) ∧
     (Blocks s core 5 b →
       ((tget (getCore s core).hoops (fld b.entry 0 4) Hoop.reset).counter - BitVec.ofNat 32 (fld b.entry 4 32)).toNat < 2 ^ 31 →
       exec (.waitCountMet core) s = .next (nextEntry s core)) ∧
     (Blocks s core 6 b → ownScratch (getCore s core) (fld b.entry 0 48) = some (store, row) →
       isFull s (storeRow core store row) = bitAt b.entry 48 → exec (.waitTagMet core) s = .next (nextEntry s core))) ∧
  (∀ (s : State) (core e : Nat),
     (Ready s core 10 e → fld e 2 2 = 0 → exec (.histogramArm core) s = .next (nextEntry (modCore s core fun co =>
       { co with tally := tput co.tally (fld e 0 2) { armed := true, tap := fld e 4 3, eBase := fld e 7 8, bins := [] } }) core)) ∧
     (Ready s core 10 e → fld e 2 2 = 1 → exec (.histogramStop core) s = .next (nextEntry (modCore s core fun co =>
       { co with
         tally := tput co.tally (fld e 0 2)
           { tget co.tally (fld e 0 2) TallyEngine.reset with armed := false } }) core)) ∧
     (Ready s core 12 e → fld e 9 2 = 2 → exec (.loopLoad core) s = .next (nextEntry (modCore s core fun co =>
       { co with seq := setLoop co.seq (fld e 0 6 - 32) (BitVec.ofNat 32 (fld e 11 32)) }) core)))

/-- A signal entry joins the signal queue of four and the sequencer goes on; the first signal not yet sent leaves for its hoop once
every earlier move to a hoop address has completed, and one whose hoop address does not translate faults with XLATE (R339, R314). An
open-hoop entry blocks issue until no operation of the core holds a row of its range; then the hoop stands open with the entry's
fields and its counter 0, its refused count kept (R247, R248). A close-hoop entry stops acceptance at once and ends when no granted
reduce-add of the hoop is left (R256). -/
def Obligations.SignalsAndHoops : Prop :=
  (∀ (s : State) (core e : Nat) (g : SignalJob) (dest : HoopDest),
     (Ready s core 7 e → (getCore s core).signals.length < 4 →
       exec (.signal core) s = .next (nextEntry (modCore s core fun co =>
         { noteIssued co (nextIssue s core) 7 false with
             signals := co.signals ++ [{ idx := nextIssue s core, entry := e, sent := false }] }) core)) ∧
     (core < Config.nCores → ((getCore s core).signals.find? fun g => !g.sent) = some g → signalFree (getCore s core) g.idx = true →
       dest = hoopDest s core (if bitAt g.entry 64 then some (fld g.entry 48 16) else none) (hoopCore (fld g.entry 0 48))
         (hoopNum (fld g.entry 0 48)) (hoopReserved (fld g.entry 0 48)) →
       ((∃ k, dest = .here k) ∨ (∃ m, dest = .module m) →
         exec (.signalSend core) s = .next (sendHoop (modCore s core fun co =>
             { co with signals := co.signals.map fun h => if h.idx == g.idx then { h with sent := true } else h })
           (signalWho core g.idx) (.signal (fld g.entry 65 16)) dest (hoopCore (fld g.entry 0 48))
           (hoopNum (fld g.entry 0 48)) (hoopRowOf (fld g.entry 0 48)) [])) ∧
       (dest = .bad → exec (.signalSend core) s = .next (raiseFault s core .signal g.idx
         { code := 0x05, unit := 0, addr := fld g.entry 0 48, detail := 0 })))) ∧
  (∀ (s : State) (core e : Nat) (b : SeqBlock),
     (Ready s core 8 e → exec (.openHoop core) s = .next (blockOn s core (nextIssue s core) e 0)) ∧
     (Blocks s core 8 b →
       rangeHeld core (getCore s core) (fld b.entry 4 2) (fld b.entry 6 11) (fld b.entry 17 12) = false →
       exec (.hoopOpened core) s = .next (nextEntry (setCore (if fld b.entry 29 2 = 1 then markRemote s core (fld b.entry 31 16) else s) core
         { getCore s core with
           hoops := tput (getCore s core).hoops (fld b.entry 0 4)
             { isOpen := true, store := fld b.entry 4 2, base := fld b.entry 6 11, rows := fld b.entry 17 12,
               srcKind := fld b.entry 29 2, src := fld b.entry 31 16,
               srcCore := if fld b.entry 29 2 = 0 then
                   (getPart s (getCore s core).part).bind fun p => tget? p.places (fld b.entry 31 16) else none,
               ops := fld b.entry 47 3, wrOver := bitAt b.entry 50, rdTake := bitAt b.entry 51, counter := 0,
               refused := (tget (getCore s core).hoops (fld b.entry 0 4) Hoop.reset).refused, fenced := false } }) core)) ∧
     (Ready s core 9 e → exec (.closeHoop core) s = .next (blockOn (modCore s core fun co =>
       modHoop co (fld e 0 4) fun h => { h with isOpen := false }) core (nextIssue s core) e 0)) ∧
     (Blocks s core 9 b → hoopBusy (getCore s core) (fun h => h == fld b.entry 0 4) = false →
       exec (.closeHoopComplete core) s = .next (nextEntry s core)))

/-- A branch compares its counter, or its loop register after the decrement that stops at 0, with its value, and goes to its target
when the comparison holds and to the next entry when it does not (R335, R336). Going on: the next entry, and a taken branch within
the list, become the position; going past the last entry and branching outside the list fault the core with LAYER_FIELD (R337). -/
def Obligations.BranchesGoWhereTheyShould : Prop :=
  (∀ (s : State) (core e : Nat),
     (Ready s core 12 e → fld e 9 2 = 0 → counterReady (getCore s core) (fld e 0 6) = true →
       exec (.branchOnCount core) s = .next (branchGo s core (nextIssue s core) e
         (branchTaken (fld e 6 3) (fld e 0 6) (branchCounter (getCore s core) (fld e 0 6)) (fld e 11 32)))) ∧
     (∀ v, Ready s core 12 e → fld e 9 2 = 1 →
       v = (if loopReg (getCore s core).seq (fld e 0 6 - 32) = 0 then 0 else loopReg (getCore s core).seq (fld e 0 6 - 32) - 1) →
       exec (.branchDecrement core) s = .next (branchGo (modCore s core fun co =>
           { co with seq := setLoop co.seq (fld e 0 6 - 32) v }) core (nextIssue s core) e
         (branchTaken (fld e 6 3) (fld e 0 6) v.toNat (fld e 11 32))))) ∧
  (∀ (s : State) (core idx e : Nat) (t : Int), (getCore s core).seq.stopped = false →
     ((getCore s core).seq.pos < (getCore s core).seq.listLen → nextEntry s core = setCore s core { getCore s core with
       seq := { (getCore s core).seq with
         pos := (getCore s core).seq.pos + 1, serial := (getCore s core).seq.serial + 1, block := none } }) ∧
     ((getCore s core).seq.listLen ≤ (getCore s core).seq.pos → nextEntry s core = raiseFault (setCore s core { getCore s core with
         seq := { (getCore s core).seq with
           pos := (getCore s core).seq.pos + 1, serial := (getCore s core).seq.serial + 1, block := none } })
       core .sequencer ((getCore s core).seq.pos + 1) {
         code := 0x01, unit := 0,
         addr := (getCore s core).seq.base + 16 * (((getCore s core).seq.pos + 1) % 2 ^ 24), detail := 0xFFFFFFFF }) ∧
     (t = (getCore s core).seq.pos + signed 24 (fld e 43 24) →
       (1 ≤ t → t ≤ (getCore s core).seq.listLen → branchGo s core idx e true = setCore s core { getCore s core with
         seq := { (getCore s core).seq with pos := t.toNat, serial := (getCore s core).seq.serial + 1, block := none } }) ∧
       (t < 1 ∨ (getCore s core).seq.listLen < t → branchGo s core idx e true = raiseFault s core .sequencer idx
         { code := 0x01, unit := 0, addr := (getCore s core).seq.base, detail := 36 })) ∧
     branchGo s core idx e false = nextEntry s core)

/-- A turn waits for every earlier entry; with an open hoop it faults (R361). Once no HBM write of the core is outstanding the turn
counter rises by one and the commit record goes to the slot of the turn's parity; when that is acknowledged the record stands and
the turn is done: the event TURN_DONE with the slots' address and the turn, and the sequencer goes on. The end entry closes every
hoop once every earlier entry has completed; with no granted arrival left the list ends at once, else it waits for the last
(R340). -/
def Obligations.TurnsAndEnds : Prop :=
  (∀ (s : State) (core e row : Nat) (b : SeqBlock),
     (Ready s core 11 e → (getCore s core).seq.issued = [] → (getCore s core).hoops.any (fun h => h.2.isOpen) = false →
       exec (.turn core) s = .next (blockOn s core (nextIssue s core) e 1)) ∧
     (Ready s core 11 e → (getCore s core).seq.issued = [] → (getCore s core).hoops.any (fun h => h.2.isOpen) = true →
       exec (.turn core) s = .next (entryFault s core (nextIssue s core) 0xFFFFFFFF)) ∧
     (∀ c a, Blocks s core 11 b → b.stage = 1 → (getCore s core).unacked = [] → c = (getCore s core).seq.turn + 1 →
       a = fld b.entry 0 48 + 64 * (c.toNat % 2) → translate s core a true = .ok row → asleep s row = false →
       exec (.turnCommitWrite core) s = .next (modCore s core fun co =>
         { co with seq := { co.seq with turn := c, block := some { b with stage := 2 } } })) ∧
     (∀ a, a = fld b.entry 0 48 + 64 * ((getCore s core).seq.turn.toNat % 2) →
       tableLookup s (getCore s core).part a true = .ok row → writeCommit s core b = (putRow s row
         (padTo 512 (zeros (a % 512) ++ commitRecord (getCore s core) b.idx b.entry (getCore s core).seq.turn.toNat))
         ((2 ^ 64 - 1) <<< (a % 512))).1) ∧
     (∀ t u, t = writeCommit s core b → u = pushEvent t core (mkRec t core
         { code := 0x44, unit := 0, addr := fld b.entry 0 48, detail := (getCore s core).seq.turn.toNat } b.idx 0 true) →
       Blocks s core 11 b → b.stage = 2 →
       (workOf u core = none → exec (.turnDone core) s = .next (nextEntry u core)) ∧
       (∀ k w, workOf u core = some (k, w) → (getCore s core).seq.workSeq = k → exec (.turnDone core) s =
         .next (nextEntry (putWork u k (leaveWindow (modList w core fun l =>
           { l with commit := some (fld b.entry 0 48), listId := (getCore s core).seq.listId }) core)) core)))) ∧
  (∀ (s t : State) (core e : Nat) (b : SeqBlock),
     (Ready s core 0 e → (getCore s core).seq.issued = [] → blocked (getCore s core) 0 = none →
       t = (modCore s core fun co => { co with hoops := co.hoops.map fun h => (h.1, { h.2 with isOpen := false }) }) →
       exec (.endList core) s = .next
         (if hoopBusy (getCore t core) (fun _ => true) then blockOn t core (nextIssue s core) e 0 else endDone t core e)) ∧
     (Blocks s core 0 b → hoopBusy (getCore s core) (fun _ => true) = false →
       exec (.endList core) s = .next (endDone s core b.entry)))

/-- What stood in the way of the waiting operations of a unit has gone and each runs on (R242), a move at the die DMA engine to its
next turn (R307); the translation that an operation, a descriptor read ahead (R345), the sequencer or a signal missed enters the
CTU cache (R313); a read that was answered not ready goes out again (R254); a wait that outlasts the watchdog faults the operation
with TIMEOUT and the number of the wait (R338, R371). -/
def Obligations.WaitingOperationsGoOn : Prop :=
  (∀ (s t : State) (core k : Nat) (u : CoreUnit) (j : Job) (x : Wait), core < Config.nCores →
    (waitingJobs (getCore s core) u = [j] → findJob (getCore s core) u j.idx = some j → j.st = .waiting x →
      grantable x.kind = true → exec (.accessGrantAfterWait core u) s =
        .next (if u == .tally then reapTally (resume s core u j) core else resume s core u j)) ∧
    (t = (waitingJobs (getCore s core) u).foldl (fun t j => grantTo core u t j.idx) s →
      exec (.accessGrantAfterWait core u) s = .next (if u == .tally then reapTally t core else t)) ∧
    (u ≠ .sequencer → u ≠ .signal → awaited s core u = some (j, k) →
      t = setCore s core { getCore s core with ctu := ((k, k) :: (getCore s core).ctu).take 64 } →
      exec (.ctuTranslationFill core u) s = .next (if j.st = .queued then readAhead t core else resume t core u j)) ∧
    (u = .sequencer → missingKey s core (seqAddrs (getCore s core)) = some k →
      exec (.ctuTranslationFill core u) s = .next (setCore s core { getCore s core with
        ctu := ((k, k) :: (getCore s core).ctu).take 64 })) ∧
    (∀ g, u = .signal → ((getCore s core).signals.find? fun g => !g.sent) = some g →
      hoopDest s core (if bitAt g.entry 64 then some (fld g.entry 48 16) else none) (hoopCore (fld g.entry 0 48))
        (hoopNum (fld g.entry 0 48)) (hoopReserved (fld g.entry 0 48)) = .miss k →
      exec (.ctuTranslationFill core u) s = .next (setCore s core { getCore s core with
        ctu := ((k, k) :: (getCore s core).ctu).take 64 })) ∧
    (((unitJobs (getCore s core) u).find? fun j => j.remote == .notReady) = some j →
      exec (.remoteReadRetry core u) s = .next (resume s core u { j with remote := .none })) ∧
    (∀ idx un n, unitWait s core u = some (idx, un, x) → timeoutCode x.kind = some n → findJob (getCore s core) u idx = none →
      exec (.watchdogExpiry core u) s =
        .next (raiseFault s core u idx { code := 0x0A, unit := un, addr := x.addr, detail := n })) ∧
    (∀ idx un n, unitWait s core u = some (idx, un, x) → timeoutCode x.kind = some n → findJob (getCore s core) u idx = some j →
      exec (.watchdogExpiry core u) s = .next (raiseFault s core u idx
        (faultOf (getCore s core) j u { code := 0x0A, unit := un, addr := x.addr, detail := n })))) ∧
  (∀ (s : State) (core : Nat) (u : CoreUnit) (j : Job), u ≠ .dieDma → resume s core u j = runJob s core u j)

/-- A switch of the skim rail that is not confirmed: down, the event SKIM_SWITCH_FAIL with detail 0 is raised and the layer goes on
at nominal voltage; back, the layer faults with detail 1 (R143). The rail is set from 480 to 600 mV in steps of 20 mV and then
settles (R133). -/
def Obligations.SkimRailsSwitch : Prop :=
  ∀ (s : State) (core die mv : Nat) (j : Job),
    (core < Config.nCores → railJob (getCore s core) .railDown = some j →
      exec (.skimDownUnconfirmed core) s = .next (runJob (modCore (pushEvent s core (mkRec s core
          { code := 0x0C, unit := 1, addr := 0, detail := 0 } j.idx j.tag true)) core fun co =>
        { co with skimFails := co.skimFails ++ [s.refCount.toNat] }) core .press { j with micros := j.micros.drop 1 })) ∧
    (core < Config.nCores → railJob (getCore s core) .railBack = some j →
      exec (.skimBackUnconfirmed core) s =
        .next (raiseFault s core .press j.idx { code := 0x0C, unit := 1, addr := 0, detail := 1 })) ∧
    (die < Config.nDies → 480 ≤ mv → mv ≤ 600 → mv % 20 = 0 →
      exec (.skimRailSet die mv) s = .next (setDie s die { getDie s die with skimMv := mv, skimSettling := true })) ∧
    (die < Config.nDies → exec (.skimRailSettled die) s = .next (setDie s die { getDie s die with skimSettling := false }))

/-- A core that has not stopped takes the first fault: the record is kept, every unit is empty, no hold stands, every hoop has
stopped accepting, and the sequencer is stopped (R257, R367, R368). A core that has stopped takes no further one. -/
def Obligations.FaultsStopTheCore : Prop :=
  ∀ (s : State) (core idx : Nat) (u : CoreUnit) (b : Bad),
    ((getCore s core).seq.stopped = false →
      (getCore (raiseFault s core u idx b) core).seq.stopped = true ∧
      (getCore (raiseFault s core u idx b) core).press = [] ∧ (getCore (raiseFault s core u idx b) core).cdma = [] ∧
      (getCore (raiseFault s core u idx b) core).rowJobs = [] ∧ (getCore (raiseFault s core u idx b) core).vecJobs = [] ∧
      (getCore (raiseFault s core u idx b) core).holds = [] ∧ (getCore (raiseFault s core u idx b) core).cq = [] ∧
      ((getCore (raiseFault s core u idx b) core).hoops.any fun h => h.2.isOpen) = false ∧
      ∃ r, (getCore (raiseFault s core u idx b) core).faultRec = some r ∧ r.code = b.code ∧ r.unit = b.unit ∧ r.addr = b.addr ∧
        r.detail = b.detail % 2 ^ 32 ∧ r.entry = idx % 2 ^ 24 ∧ r.list = (getCore s core).seq.listId ∧
        r.time = s.refCount.toNat ∧ r.event = false) ∧
    ((getCore s core).seq.stopped = true → raiseFault s core u idx b = s)

/-! ## Hoops, reducers and stored words -/

/-- Arrivals that a hoop accepts: a write row whose row is free is written, tagged full and counted, and waits at the port while it is
not; a reduce-add enters the conflict queue of its row's bank, and waits while that is full; a signal adds its value to the
counter; a read of a full row is answered with the row, counted, and takes the row when the hoop says so, is refused when a word
of the row is bad, and is answered not ready when the row is empty or held (R217, R250, R252, R254). An arrival that its hoop does
not accept is discarded whole: a hoop that is not open counts in the core's refused count and answers HOOP_CLOSED, one that the
hoop's fields turn away counts in the hoop's and answers PROT_FAULT, and one of a fenced source only counts (R255, R258). -/
def Obligations.HoopArrivals : Prop :=
  (∀ (s : State) (core k row : Nat) (a : Arrival) (h : Hoop), Accepted s core k a → h = tget (getCore s core).hoops a.hoop Hoop.reset →
     row = storeRow core h.store (h.base + a.row) →
     (a.kind = .write → heldAny (getCore s core) row = false → (h.wrOver = true ∨ isFull s row = false) →
       exec (.remoteWriteArrival core k) s = .next (answerApplied (modCore (setTag (putRow s row a.data wholeMask).1 row true) core
         fun co => modHoop (dropArrival co k) a.hoop fun h => { h with counter := h.counter + 1 }) a)) ∧
     (a.kind = .write → (heldAny (getCore s core) row = true ∨ (h.wrOver = false ∧ isFull s row = true)) →
       exec (.remoteWriteArrival core k) s = .next (modCore s core fun co => waitAtPort co k a)) ∧
     (a.kind = .addF32 ∨ a.kind = .addI32 → queueRoom (getCore s core) (h.base + a.row) = true →
       exec (.reduceAddArrival core k) s = .next (modCore s core fun co => { dropArrival co k with
         cq := (dropArrival co k).cq ++ [{ row := h.base + a.row, data := a.data, isInt := a.kind == .addI32,
                                           owner := .arrival a.hoop a.sender }] })) ∧
     (a.kind = .addF32 ∨ a.kind = .addI32 → queueRoom (getCore s core) (h.base + a.row) = false →
       exec (.reduceAddArrival core k) s = .next (modCore s core fun co => waitAtPort co k a)) ∧
     (∀ v, a.kind = .signal v →
       exec (.signalArrival core k) s = .next (answerApplied (modCore s core fun co =>
         modHoop (dropArrival co k) a.hoop fun h => { h with counter := h.counter + BitVec.ofNat 32 v }) a)) ∧
     (a.kind = .read → isFull s row = true → heldAny (getCore s core) row = false → readVerdict s row 255 = none →
       exec (.remoteRead core k) s = .next (answerRead (modCore
           (if h.rdTake then setTag (checkRead (modCore s core fun co => dropArrival co k) row 255) row false
            else checkRead (modCore s core fun co => dropArrival co k) row 255) core
           fun co => modHoop co a.hoop fun h => { h with counter := h.counter + 1 })
         core a (.row (rdBytes s (row * 512) 512)))) ∧
     (∀ code mask, a.kind = .read → isFull s row = true → heldAny (getCore s core) row = false →
       readVerdict s row 255 = some (code, mask) → exec (.remoteRead core k) s = .next
         (answerRead (checkRead (modCore s core fun co => dropArrival co k) row 255) core a (.refused code mask))) ∧
     (a.kind = .read → (isFull s row = false ∨ heldAny (getCore s core) row = true) →
       exec (.remoteRead core k) s = .next (answerRead (modCore s core fun co => dropArrival co k) core a .notReady))) ∧
  (∀ (s : State) (core k : Nat) (a : Arrival) (chk : HoopCheck), core < Config.nCores → nextArrival (getCore s core) k = some a →
     chk = hoopCheck (getCore s core) a.hoop a.source a.kind a.row 1 → chk ≠ .ok →
     (a.kind = .write → exec (.remoteWriteArrival core k) s = .next (refuseArrival s core k a chk)) ∧
     (a.kind = .addF32 ∨ a.kind = .addI32 → exec (.reduceAddArrival core k) s = .next (refuseArrival s core k a chk)) ∧
     (∀ v, a.kind = .signal v → exec (.signalArrival core k) s = .next (refuseArrival s core k a chk)) ∧
     (∀ code, a.kind = .read → checkCode chk = some code → exec (.remoteRead core k) s = .next (answerRead
       (countRefused (modCore s core fun co => dropArrival co k) core a.hoop chk) core a (.refused code 0))) ∧
     (a.kind = .read → checkCode chk = none → exec (.remoteRead core k) s = .next
       (countRefused (modCore s core fun co => dropArrival co k) core a.hoop chk)) ∧
     ((tget (getCore s core).hoops a.hoop Hoop.reset).isOpen = false → chk = .closed) ∧
     ((tget (getCore s core).hoops a.hoop Hoop.reset).isOpen = true → chk = .refused none ∨ chk = .refused (some 0x06)) ∧
     (chk = .closed → refuseArrival s core k a chk = answerRefused (modCore (modCore s core fun co => dropArrival co k) core
       fun co => { co with hoopRefused := satInc 16 co.hoopRefused }) core a 0x0B 0) ∧
     (∀ code, chk = .refused (some code) → refuseArrival s core k a chk = answerRefused
       (modCore (modCore s core fun co => dropArrival co k) core fun co =>
         modHoop co a.hoop fun h => { h with refused := satInc 16 h.refused }) core a code 0) ∧
     (chk = .refused none → refuseArrival s core k a chk = modCore (modCore s core fun co => dropArrival co k) core fun co =>
       modHoop co a.hoop fun h => { h with refused := satInc 16 h.refused }))

/-- The conflict entry that may retire and entered first reads its row, adds to it and writes it back (R218): a reduce-add is then
counted by its hoop and answered, and a row of a scatter or a spill is held for its operation (R99, R220, R250). A contribution
that reaches its die's reducer, in order among those of its core or of its die and with room in its partition's part or in the
common part, is taken into its set when it agrees with it, and otherwise faults its move (R97, R114, R347, R429). -/
def Obligations.ConflictEntriesAndContributions : Prop :=
  ∀ (s : State) (core die k : Nat) (e : CqEntry) (c : Contribution),
    (core < Config.nCores → retireIndex s core (getCore s core) = some k → (getCore s core).cq[k]? = some e →
      exec (.conflictQueueRetire core) s = .next (retireOne s core k e)) ∧
    (∀ row sum t, row = storeRow core 2 e.row → sum = addRows e.isInt (rdBytes s (row * 512) 512) e.data →
      readVerdict s row 255 = none → t = (putRow (modCore (checkRead s row 255) core fun co =>
        { co with cq := co.cq.take k ++ co.cq.drop (k + 1) }) row sum.1 wholeMask).1 →
      (∀ hoop sender, e.owner = .arrival hoop sender → sum.2 = false → retireOne s core k e = answerApplied
        (modCore t core fun co => modHoop co hoop fun h => { h with counter := h.counter + 1 })
        (entryArrival (getCore s core) e hoop sender)) ∧
      (∀ idx, e.owner = .press idx → inOpenHoop (getCore s core) 2 e.row = false →
        retireOne s core k e = modCore t core fun co => addHold co row .press idx) ∧
      (∀ idx, e.owner = .scatter idx → inOpenHoop (getCore s core) 2 e.row = false → sum.2 = false →
        retireOne s core k e = modJob (modCore t core fun co => addHold co row .cdma idx) core .cdma idx
          fun j => { j with applied := j.applied + 1 })) ∧
    (die < Config.nDies → (getDie s die).transit[k]? = some c →
      ((getDie s die).transit.take k).any (sameStream c) = false → reducerRoom s die c.part ≠ .full →
      ((((getDie s die).sets.find? (isSet c.part c.aux c.dieResult.isSome)).bind fun x =>
        redDiffers c.dieResult.isSome c.aux c.desc x.aux x.desc) = none →
      exec (.reducerContribution die k) s = .next (takeRow (setDie s die { getDie s die with
        transit := (getDie s die).transit.take k ++ (getDie s die).transit.drop (k + 1) }) die c
          (if reducerRoom s die c.part = .commonPart then 1 else 0))) ∧
      (∀ p j, (((getDie s die).sets.find? (isSet c.part c.aux c.dieResult.isSome)).bind fun x =>
        redDiffers c.dieResult.isSome c.aux c.desc x.aux x.desc) = some p → isIssued (getCore s c.core) c.idx = true →
        findJob (getCore s c.core) .cdma c.idx = some j →
        exec (.reducerContribution die k) s = .next (raiseFault (setDie s die { getDie s die with
          transit := (getDie s die).transit.take k ++ (getDie s die).transit.drop (k + 1) }) c.core .cdma c.idx
            { code := 0x01, unit := senderUnit (getCore s c.core) .cdma c.idx, addr := fld j.entry 48 48, detail := p })))

/-- Service of stored words. The scrubber of a core that is awake visits the rows that reads found in error and else its rows in turn
(R265, R269). A row of a core that is not fenced with an uncorrectable error, or two correctable ones in 24 hours, moves to a
spare of its bank, and with none left the flag SPARE_EXHAUSTED is set and counted (R274 to R276). A stack is read whole and what
can be corrected is, and the count of its own ECC is taken, whose value is free (log 88); a row of a pseudo-channel, 256 bytes,
with a poisoned word or two corrections in 24 hours is repaired and the repair logged, and no poison mark goes (R319, R320, R322,
R461). Pages are zeroised in release order (R436). -/
def Obligations.StoredWordsAreServed : Prop :=
  ∀ (s u : State) (core store row stack addr : Nat) (us : List Upset),
    (core < Config.nCores → u = applyUpsets s us → (getPower u (.core core)).st < 2 →
      (∀ r, u.scrubNext.find? (rowOfCore core) = some r → exec (.scrubVisit core us) s =
        .next (visitRow { u with scrubNext := u.scrubNext.filter fun x => !(x == r) } core r)) ∧
      (u.scrubNext.find? (rowOfCore core) = none → exec (.scrubVisit core us) s = .next (visitRow
        (modCore u core fun co => { co with scrubRow := ((getCore u core).scrubRow + 1) % 5120 }) core
        (storeRow core (scrubPlace (getCore u core).scrubRow).1 (scrubPlace (getCore u core).scrubRow).2)))) ∧
    (core < Config.nCores → (getCore s core).service ≠ .fenced → mustSpare s (storeRow core store row) = true →
      ((tget s.spares (bankKey core store row) []).length < 4 →
        exec (.spareCopy core store row) s = .next (spareRow s core store row) ∧
        (spareRow s core store row).mem = s.mem ∧ (spareRow s core store row).full = s.full ∧
        (spareRow s core store row).spares = tput s.spares (bankKey core store row)
          (mapRow (tget s.spares (bankKey core store row) []) row)) ∧
      (4 ≤ (tget s.spares (bankKey core store row) []).length →
        exec (.spareCopy core store row) s = .next (modCore s core fun co => { co with spErr := { co.spErr with
          spareExhausted := true, spareExCount := satInc 16 co.spErr.spareExCount } }))) ∧
    (∀ ones many v, stack < Config.nStacks → u = applyUpsets s us → ones = u.errOne.filter (wordOfStack stack) →
      many = u.errMany.filter (wordOfStack stack) → v = many.foldl (fun x w => logPoison x [w] (ownerOf x w)) { modStack
        { u with freeCtr := u.freeCtr + 1 } stack (fun k => { k with onDieCount := Config.freeNat u.freeCtr % 2 ^ 32 }) with
          errOne := u.errOne.filter (fun w => !(wordOfStack stack w)), errMany := u.errMany.filter (fun w => !(wordOfStack stack w)),
          poison := many.foldl insNat u.poison } →
      (ones = [] → exec (.hbmPatrolScrub stack us) s = .next v) ∧
      (ones ≠ [] → exec (.hbmPatrolScrub stack us) s = .next (modStack v stack fun k =>
        { k with corrected := ones.foldl (fun l w => tput l w v.refCount.toNat) k.corrected }))) ∧
    (∀ many v, placeOf (addr / 512) = .hbm → mustRepair s (addr / 256) = true →
      many = (halfWords (addr / 256)).filter (fun w => s.errMany.contains w) →
      v = logWords s (addr / 512) (maskOf ((many.filter fun w => !(s.poison.contains w)).map (· % 8))) →
      exec (.hbmSoftRepair addr) s = .next (modStack { v with
          errOne := v.errOne.filter (fun x => !(x / 4 == addr / 256)), errMany := v.errMany.filter (fun x => !(x / 4 == addr / 256)),
          poison := many.foldl insNat v.poison } (stackOf addr) fun k => { k with
          repairLog := k.repairLog ++ [addr / 256], corrected := k.corrected.filter fun w => !(w.1 / 4 == addr / 256) })) ∧
    (∀ t, exec (.hbmSoftRepair addr) s = .next t → ∀ w, w ∈ s.poison → w ∈ t.poison) ∧
    (∀ pg rest, stack < Config.nStacks → (getStack s stack).zeroQueue = pg :: rest →
      exec (.pageZeroiseDone stack) s = .next (modStack (zeroPage s pg) stack fun k => { k with zeroQueue := rest }))

/-- After a patrol scrub no word of the stack has a latent error, every word of it that had an uncorrectable one is poisoned, and no
byte of memory has changed (R322). -/
def Obligations.PatrolScrubClearsItsStack : Prop :=
  ∀ (s t : State) (stack : Nat) (us : List Upset), stack < Config.nStacks → exec (.hbmPatrolScrub stack us) s = .next t →
    (∀ w, wordOfStack stack w = true → w ∉ t.errOne ∧ w ∉ t.errMany) ∧
    (∀ w, wordOfStack stack w = true → w ∈ (applyUpsets s us).errMany → w ∈ t.poison) ∧
    (∀ w, w ∈ s.poison → w ∈ t.poison) ∧ t.mem = s.mem ∧ t.full = s.full

/-! ## Links -/

/-- What a port that is UP sends and receives: a container slot carries the next flit to resend, else nothing but a null flit while
the resend buffer of 2,048 is full (R388), else the tag flit of a record of 128 (R414), else the next data flit (R384); an open
record is closed early by its tag flit (R414); a record counter at 2^33 takes the port down (R415); a time-out resends from the
oldest flit not acknowledged, and the 17th without progress takes the port down (R388); a frame's containers are taken one after
another until one takes the port down (R378, R387). A flit that is out of sequence is not accepted, and one NAK is asked for until
it comes again (R387); one in sequence is stored in its channel's buffer when the link is not encrypted, and the expected number
moves on. -/
def Obligations.PortsExchangeFlits : Prop :=
  (∀ (s : State) (port : Nat) (frame : List Container), PortIs s port .up →
     exec (.flitTransmit port) s = .next (settleRecords (setPort s port (transmit (getPort s port))) port) ∧
     ((getPort s port).encOn = true → (getPort s port).txOpen ≠ [] → (getPort s port).resend = none →
       (getPort s port).replay.length < 2048 →
       exec (.recordCloseEarly port) s = .next (settleRecords (setPort s port (sendTag (getPort s port))) port)) ∧
     exec (.replayTimeout port) s = .next (settleResends (modPort s port beginResend) port) ∧
     ((getPort s port).encOn = true → 2 ^ 33 ≤ (getPort s port).txRecord → settleRecords s port = goDown s port) ∧
     ((getPort s port).txRecord < 2 ^ 33 → settleRecords s port = s) ∧
     (16 < (getPort s port).resends → settleResends s port = goDown s port) ∧
     ((getPort s port).resends ≤ 16 → settleResends s port = s) ∧
     (∀ r, r = frame.foldl (fun (acc : Port × Bool) c => if acc.2 then acc else takeContainer acc.1 c)
         ({ getPort s port with fecUncorr := satAdd 32 (getPort s port).fecUncorr (badCodewords frame) }, false) →
       exec (.frameReceive port frame) s =
         .next (if r.2 then goDown (setPort s port r.1) port else settleResends (setPort s port r.1) port))) ∧
  (∀ (p : Port) (vc seq : Nat) (body : List Byte),
     (∀ i, p.resend = some i → transmit p = sendAgain p i) ∧
     (p.resend = none → 2048 ≤ p.replay.length → transmit p = sendContainer p 0 0 0 []) ∧
     (p.resend = none → p.replay.length < 2048 → p.encOn = true → 128 ≤ p.txOpen.length → transmit p = sendTag p) ∧
     (∀ c, p.resend = none → p.replay.length < 2048 → p.encOn = false → pickVc p = some c → transmit p = sendData p c) ∧
     (p.replay ≠ [] → p.resends < 16 → beginResend p =
       { p with resend := some 0, resends := p.resends + 1, replayCount := satInc 32 p.replayCount }) ∧
     (p.replay ≠ [] → 16 ≤ p.resends → beginResend p = { p with resends := 17 }) ∧
     (seq ≠ p.rxSeq → takeSequenced p false vc seq body = (if p.discarding then p else { p with discarding := true, nakDue := true }, false)) ∧
     (seq = p.rxSeq → p.encOn = false → takeSequenced p false vc seq body =
       (storeBody { p with rxSeq := (seq + 1) % 4096, discarding := false } vc body, false)))

/-- A closed packet leaves by the first port of its route that is UP and bound to its core's partition, with the route's hops;
without a route its move faults with XLATE (R409, R410). An entry that a packet waits for enters the die's cache of 1,024 (R409). A
finished track's answer is sent (R402). A packet that waited too long for a forwarding port is dropped and answered (R411). -/
def Obligations.PacketsAreSent : Prop :=
  ∀ (s : State) (core die id port vc k : Nat) (u : CoreUnit) (o : OutPacket) (t : RxTrack) (x : Nat × Packet),
    (core < Config.nCores → waitingPacket (getCore s core) u = some o → routeCached s (dieOf core) o.packet.dest = true →
      (rtValid (routeEntry s o.packet.dest) = true →
        pickPort s (routeEntry s o.packet.dest) (fun p => p.part == (getCore s core).part) = some port →
        exec (.packetRoute core u) s = .next (queuePacket (setCore s core { getCore s core with
            outPackets := dropFirst (fun x => x == o) (getCore s core).outPackets }) port
          { o.packet with hops := rtHops (routeEntry s o.packet.dest) })) ∧
      (rtValid (routeEntry s o.packet.dest) = false →
        exec (.packetRoute core u) s = .next (raiseFault (setCore s core { getCore s core with
            outPackets := dropFirst (fun x => x == o) (getCore s core).outPackets }) core u o.idx
          { code := 0x05, unit := senderUnit (getCore s core) u o.idx,
            addr := hoopAddr o.packet.core o.packet.hoop o.packet.row, detail := 0 }))) ∧
    (die < Config.nDies → s.cores.any (fun e => dieOf e.1 == die && e.2.outPackets.any fun o => o.closed && o.packet.dest == id) = true →
      routeCached s die id = false →
      exec (.routeEntryFill die id) s = .next (setDie s die { getDie s die with
        routeCache := ((id, tget s.routes id 0) :: (getDie s die).routeCache).take 1024 })) ∧
    (tget? s.rxTracks k = some t → t.left = 0 →
      exec (.appliedResponseSend k) s = .next (sendAnswer s k t (t.answer.getD (finalAnswer s t)))) ∧
    (port < Config.nPorts → (s.forwards.find? fun e => e.1 == port && channelOf e.2.op == vc) = some x →
      exec (.forwardTimeout port vc) s = .next (sendUnreachable (dropCount { s with
        forwards := dropFirst (fun y => y == x) s.forwards } port) port x.2))

/-- The next whole packet of a channel leaves the receive buffer: a malformed header is refused with LAYER_FIELD and counted (R398),
a packet for another module is forwarded (R411), and a request for this module is delivered (R400). A management packet for this
module goes to firmware (R397). A response at the head of its channel reaches the operation that its fields name, while that
operation is issued: applied counts its rows, or completes its signal; refused and unreachable fault it; data and not ready answer
its remote read (R254, R403, R406). -/
def Obligations.PacketsAndResponsesArrive : Prop :=
  (∀ (s : State) (port vc h freed : Nat) (rows rx : List (List Byte)), port < Config.nPorts →
     takePacket (vcOf (getPort s port) vc).rx = some (h, rows, rx, freed) →
     (channelBusy s port vc = false → headerRefused h = true →
       exec (.packetArrival port vc) s = .next
         (answerPacket (dropCount (tookPacket s port vc rx freed) port) port { packetOf h rows with via := port } opRefused 0x01 [])) ∧
     (∀ own, channelBusy s port vc = false → headerRefused h = false → vc < 3 → (getPort s port).fencing = false →
       s.moduleId = some own →
       (own.toNat ≠ fld h 44 16 → exec (.packetArrival port vc) s =
         .next (forwardPacket (tookPacket s port vc rx freed) port { packetOf h rows with via := port })) ∧
       (own.toNat = fld h 44 16 → fld h 60 4 ≤ 4 → exec (.packetArrival port vc) s =
         .next (deliverPacket (tookPacket s port vc rx freed) port { packetOf h rows with via := port }))) ∧
     (channelBusy s port vc = false → headerRefused h = false → vc < 3 → (getPort s port).fencing = true →
       fld h 60 4 ≠ opManagement → exec (.packetArrival port vc) s =
         .next (discardPacket (tookPacket s port vc rx freed) port { packetOf h rows with via := port })) ∧
     (vc = 3 → fld h 60 4 = opManagement → headerRefused h = false → (fld h 44 16 = ownId s ∨ s.moduleId = none) →
       exec (.managementMessage port) s = .next (agreeKey (modPort (tookPacket s port 3 rx freed) port fun p =>
         { p with mgmtIn := p.mgmtIn ++ [packetOf h rows] }) port))) ∧
  (∀ (s s1 : State) (port idx : Nat) (p : Packet) (u : CoreUnit), port < Config.nPorts → p.score < Config.nCores →
     u = engUnit p.seng → responseIssue (getCore s1 p.score) p = some idx →
     (nextResponse s port opApplied = some (p, s1) → exec (.appliedResponse port) s =
       .next (if u == .signal then modCore s1 p.score fun co => completeSignal co idx
              else modJob s1 p.score u idx fun j => { j with applied := j.applied + p.value })) ∧
     (nextResponse s port opRefused = some (p, s1) →
       exec (.refusedResponse port) s = .next (responseFault s1 p.score u idx (p.value % 256))) ∧
     (nextResponse s port opUnreachable = some (p, s1) →
       exec (.unreachableResponse port) s = .next (responseFault s1 p.score u idx 0x05)) ∧
     (nextResponse s port opData = some (p, s1) → exec (.readDataResponse port) s =
       .next (modJob s1 p.score u idx fun j =>
         if j.remote == .asked then { j with remote := .row (p.rows.headD (zeros 512)) } else j)) ∧
     (nextResponse s port opNotReady = some (p, s1) → exec (.notReadyResponse port) s =
       .next (modJob s1 p.score u idx fun j => if j.remote == .asked then { j with remote := .notReady } else j)))

/-- The states of a port (R390, R391): light brings DARK to TRAINING, training ends in UP with the peer's identity, credits and
sequence numbers 0, in DISABLED when the peer is the module itself, or in DOWN; lost frame lock takes UP to HOLD with the flag
HOLD_SEEN, and its return or a time-out leads out of it; DOWN retrains, unless it was entered for a second degraded lane. A port
that leaves UP or HOLD for DOWN has lost its link: the flag and its counter, nothing kept to resend, no open record, no encryption
and no partial packet (R392). -/
def Obligations.PortsFollowTheirStates : Prop :=
  (∀ (s : State) (port mask : Nat) (peer : PeerInfo) (p : Port) (r : Bool × Bool), p = getPort s port →
     r = settleRole s.fuses.serial peer.serial (p.policy == 1) peer.requests →
     (PortIs s port .dark → mask = 511 → (p.laneDown = false ∨ p.laneFailed = []) → exec (.lightDetected port mask) s =
       .next (setPort s port { p with link := .training, laneDown := false })) ∧
     (PortIs s port .training → peer.serial ≠ s.fuses.serial → exec (.trainingComplete port peer) s =
       .next (retryForwards (setPort s port
         (if r.2 then seeRoleConflict (trainedPort p peer r.1) else trainedPort p peer r.1)))) ∧
     (PortIs s port .training → peer.serial = s.fuses.serial → exec (.trainingComplete port peer) s =
       .next (setPort s port (seeLoopback { p with link := .disabled }))) ∧
     (PortIs s port .training → exec (.trainingFail port) s = .next (goDown s port)) ∧
     (PortIs s port .up → exec (.frameLockLost port) s = .next (setPort s port { p with
       link := .hold, frameLocked := false, holdSeen := true, holdSeenCount := satInc 32 p.holdSeenCount })) ∧
     (PortIs s port .hold → exec (.frameLockReturn port) s =
       .next (retryForwards (setPort s port { p with link := .up, frameLocked := true }))) ∧
     (PortIs s port .hold → exec (.holdTimeout port) s = .next (goDown s port)) ∧
     (PortIs s port .down → (p.laneDown = false ∨ p.laneFailed = []) → exec (.downRetrain port) s =
       .next (setPort s port { p with link := .training, laneDown := false }))) ∧
  (∀ (p : Port) (peer : PeerInfo) (l : Bool),
     (trainedPort p peer l).link = .up ∧ (trainedPort p peer l).leader = l ∧ (trainedPort p peer l).peerSerial = peer.serial ∧
     (trainedPort p peer l).peerModule = peer.moduleId ∧ (trainedPort p peer l).txSeq = 0 ∧ (trainedPort p peer l).rxSeq = 0 ∧
     (trainedPort p peer l).replay = [] ∧
     (trainedPort p peer l).vcs.map (·.credits) = (List.range p.vcs.length).map fun c => nth peer.buffers c 0) ∧
  (∀ (s : State) (port : Nat), (getPort s port).link = .up ∨ (getPort s port).link = .hold →
     (getPort (goDown s port) port).link = .down ∧ (getPort (goDown s port) port).linkLost = true ∧
     (getPort (goDown s port) port).linkLostCount = satInc 32 (getPort s port).linkLostCount ∧
     (getPort (goDown s port) port).replay = [] ∧ (getPort (goDown s port) port).encOn = false ∧
     (getPort (goDown s port) port).txOpen = [] ∧ (getPort (goDown s port) port).rxOpen = [])

/-- The lanes of a port and its role. The first degraded lane is to move to WL8 and moves there with the flag LANE_SPARED; a
second takes the port down; FAILED_WL is reset once the test has passed on the wavelengths left (R374 to R376). The leader grants
a role request and a follower takes a handover it does not mind; the changeover passes through HOLD, and an own message that the
other end declines, which is a free value (log 27), changes no role (R394). Fences and laser inputs. A fence request puts a marker
behind what is queued on the request, response and reduce channels; a marker ends the discard of its channel, and the third the
fence; a time-out takes the port down, and the packets it holds whole go (R435). When a laser input is lost the other feeds all
sixteen ports of its die at full output (R418); one is released for service, and restored, by laser_service (R419). -/
def Obligations.LanesRolesFencesAndLasers : Prop :=
  (∀ (s : State) (port lane wl : Nat) (p : Port), p = getPort s port →
     (PortIs s port .up → p.failedWl = 0xF → p.moving = none →
       exec (.laneDegrade port lane) s = .next (setPort s port { p with moving := some lane })) ∧
     (PortIs s port .up → p.failedWl ≠ 0xF → p.moving = none → exec (.laneDegrade port lane) s =
       .next (goDown (setPort s port { p with laneDown := true, laneFailed := p.laneFailed ++ [laneWl p lane], lanePassed := [] }) port)) ∧
     (PortIs s port .up → p.moving = some lane → exec (.laneMove port) s =
       .next (setPort s port (seeLaneSpared { p with failedWl := lane, moving := none, laneFailed := [lane] }))) ∧
     (port < Config.nPorts → p.laneDown = true → (∀ x ∈ p.laneFailed, x ∈ insNat p.lanePassed wl) →
       exec (.laneTest port wl true) s = .next (setPort s port { p with failedWl := 0xF, laneFailed := [], lanePassed := [] })) ∧
     (port < Config.nPorts → p.laneDown = false →
       exec (.laneTest port wl true) s = .next (setPort s port { p with lanePassed := insNat p.lanePassed wl })) ∧
     (PortIs s port .up → p.leader = true → p.requestPending = false →
       exec (.roleRequest port) s = .next (setPort s port { p with changeover := some false })) ∧
     (PortIs s port .up → p.leader = false → p.requestPending = false → p.policy ≠ 2 →
       exec (.handover port) s = .next (setPort s port { p with changeover := some true })) ∧
     (∀ b, PortIs s port .up → p.changeover = some b → exec (.roleChangeover port) s = .next (setPort s port { p with
       leader := b, changeover := none, requestPending := false, link := .hold, frameLocked := false, holdSeen := true,
       holdSeenCount := satInc 32 p.holdSeenCount })) ∧
     (PortIs s port .up → p.changeover = none → p.requestPending = true →
       exec (.roleChangeover port) s = .next (setPort { s with freeCtr := s.freeCtr + 1 } port
         (if Config.freeNat s.freeCtr % 2 = 0 then { p with
            leader := !p.leader, requestPending := false, link := .hold, frameLocked := false, holdSeen := true,
            holdSeenCount := satInc 32 p.holdSeenCount }
          else { p with requestPending := false })))) ∧
  (∀ (s : State) (port vc pd seq : Nat) (bs : List Byte),
     (port < Config.nPorts → exec (.fenceRequest port) s = .next (setPort s port
       ([0, 1, 2].foldl (fun q c => modVc q c fun v => { v with txq := v.txq ++ [managementPacket s (getPort s port)] })
         (getPort s port)))) ∧
     (port < Config.nPorts → (getPort s port).fencing = true → vc ≠ 3 → exec (.fenceMarker port vc) s =
       .next (modPort (takeMarker s port vc) port fun p =>
         if fenceDone (modVc p vc fun v => { v with marker := true })
         then { modVc p vc fun v => { v with marker := true } with fencing := false }
         else modVc p vc fun v => { v with marker := true })) ∧
     (port < Config.nPorts → (getPort s port).fencing = true →
       ((getPort s port).link = .up ∨ (getPort s port).link = .hold ∨ (getPort s port).link = .training) →
       exec (.fenceTimeout port) s =
         .next (discardHeld (goDown (setPort s port { getPort s port with fencing := false }) port) port)) ∧
     (pd < Config.nPhotonic → laserOk (getPd s pd).lsB = true → exec (.laserInputLoss pd 0) s = .next (modPd
       ((List.range 16).foldl (fun x i => if fedByB (getPd s pd) i = false then modPort x (16 * pd + i) enterHold else x)
         (setPd s pd { getPd s pd with lsA := { (getPd s pd).lsA with failed := true, full := false } })) pd fun d =>
       { d with lowerB := true, upperB := true, lsB := { d.lsB with full := true } })) ∧
     (Begins s seq 0x44 bs → numAt bs 18 1 = 0 → (getPd s (numAt bs 16 1)).service = none →
       (laserOf (getPd s (numAt bs 16 1)) (numAt bs 17 1 == 1)).present = true →
       laserOk (laserOf (getPd s (numAt bs 16 1)) (!(numAt bs 17 1 == 1))) = true →
       ∃ d, exec (.laserRelease seq) s = .next (fixResult (setPd (switchInputs s (numAt bs 16 1) (!(numAt bs 17 1 == 1))
           (!(numAt bs 17 1 == 1))) (numAt bs 16 1) d) seq 0 []) ∧
         d.service = some (numAt bs 17 1 == 1) ∧ (laserOf d (numAt bs 17 1 == 1)).present = false ∧
         (laserOf d (!(numAt bs 17 1 == 1))).full = true) ∧
     (Begins s seq 0x44 bs → numAt bs 18 1 = 1 → (getPd s (numAt bs 16 1)).service = some (numAt bs 17 1 == 1) →
       ∃ d, d.service = none ∧ (laserOf d (numAt bs 17 1 == 1)).present = true ∧ exec (.laserRestore seq) s = .next
         (if Config.freeNat s.freeCtr % 2 = 0
          then fixResult { s with freeCtr := s.freeCtr + 1 } seq 0x0C (leBytes 4 (numAt bs 16 1))
          else fixResult (switchInputs (setPd { s with freeCtr := s.freeCtr + 1 } (numAt bs 16 1) d) (numAt bs 16 1) false true)
            seq 0 [])))

/-! ## Partitions, recovery and tests -/

/-- A partition is created with its owner and no resources, and refused when the ID exists; `destroy_partition` of one that holds no
resource, with no release or move of it in progress, removes it, so that its ID is free again, and leaves the ledger entries of all
other commands as they are; it never removes a partition that holds a resource, and is refused then (R427). A query writes the owner
and the records (R491). -/
def Obligations.PartitionsComeAndGo : Prop :=
  ∀ (s : State) (seq : Nat) (bs : List Byte) (p : Partition),
    (Begins s seq 0x10 bs → getPart s (cmdPart bs) = none → exec (.createPartition seq) s =
      .next (fixResult (setPart s (cmdPart bs) (Partition.empty (BitVec.ofNat 32 (numAt bs 16 4)))) seq 0x00 [])) ∧
    (Begins s seq 0x10 bs → getPart s (cmdPart bs) = some p → exec (.createPartition seq) s = .next (refuseState s seq 2)) ∧
    (Begins s seq 0x11 bs → getPart s (cmdPart bs) = some p →
      s.cmds.any (fun e => e.2.draining && (cmdPart e.2.bytes == cmdPart bs || recvOf e.2.bytes == some (cmdPart bs))) = false →
      (holdsNothing p = true → exec (.destroyPartition seq) s =
        .next (fixResult { s with partitions := tdel s.partitions (cmdPart bs) } seq 0x00 [])) ∧
      (∀ t, holdsNothing p = true → exec (.destroyPartition seq) s = .next t →
        getPart t (cmdPart bs) = none ∧ ∀ k, k ≠ seq → tget? t.ledger.entries k = tget? s.ledger.entries k) ∧
      (holdsNothing p = false → exec (.destroyPartition seq) s = .next (refuseState s seq 2))) ∧
    (∀ t, Begins s seq 0x11 bs → getPart s (cmdPart bs) = some p → holdsNothing p = false →
      exec (.destroyPartition seq) s = .next t → getPart t (cmdPart bs) = some p) ∧
    (Begins s seq 0x11 bs → getPart s (cmdPart bs) = none → exec (.destroyPartition seq) s = .next (refuseState s seq 2)) ∧
    (Begins s seq 0x15 bs → getPart s (cmdPart bs) = some p → exec (.queryPartition seq) s =
      .next (fixResult (hostWrite s (numAt bs 16 8) (leBytes 8 p.owner.toNat ++ (partRecords s p).flatMap (leBytes 8))) seq 0x00 []))

/-- The records of a list bind their resources one after another, all or none: the first refused record refuses the command and
nothing changes (R426, R430); a page with a poison mark is zeroised first (R460). A release or move whose records can all be taken
begins and drains, and ends once no row is on its way to or from a named core and every fence is complete (R432). Taking a record
of a core, a page or power out of a partition puts it into the receiver of a move (R432, R492). -/
def Obligations.ResourcesMoveTogether : Prop :=
  ∀ (s t : State) (seq i : Nat) (field : Bool) (bs : List Byte) (recs : List Nat) (c : Cmd), recs = readRecords s bs →
    (Begins s seq 0x12 bs → (getPart s (cmdPart bs)).isSome = true → anyLocked s (locksOf s true (cmdPart bs) none recs) = false →
      pagesQueued s recs = false →
      (markedPages s recs ≠ [] → exec (.bindResources seq) s = .next (queuePages s (markedPages s recs))) ∧
      (markedPages s recs = [] → applyRecords (recMalformed true) (bindRecord (cmdPart bs) recs) 0 recs s = .done t →
        exec (.bindResources seq) s = .next (fixResult t seq 0x00 [])) ∧
      (markedPages s recs = [] → applyRecords (recMalformed true) (bindRecord (cmdPart bs) recs) 0 recs s = .refused field i →
        exec (.bindResources seq) s = .next (refuseList s seq field i))) ∧
    (Begins s seq 0x13 bs → (getPart s (cmdPart bs)).isSome = true → cmdOpcode bs = 0x13 →
      anyLocked s (locksOf s false (cmdPart bs) none recs) = false →
      applyRecords (recMalformed false) (takeRecord1 (cmdPart bs) none recs) 0 recs s = .done t →
      (numAt bs 28 1 = 1 ∨ (namedCores s (cmdPart bs) recs).any (fun x => runsList s x.2) = false) →
      tget? (beginRelease s (cmdPart bs) recs).cmds seq = some c →
      exec (.releaseResources seq) s = .next { beginRelease s (cmdPart bs) recs with
        cmds := tput (beginRelease s (cmdPart bs) recs).cmds seq { c with begun := true, draining := true, records := recs } }) ∧
    (∀ q, Begins s seq 0x14 bs → cmdOpcode bs = 0x14 → q = numAt bs 29 1 → (getPart s (cmdPart bs)).isSome = true →
      (getPart s q).isSome = true → q ≠ cmdPart bs → anyLocked s (locksOf s false (cmdPart bs) (some q) recs) = false →
      applyRecords (recMalformed false) (takeRecord1 (cmdPart bs) (some q) recs) 0 recs s = .done t →
      (numAt bs 28 1 = 1 ∨ (namedCores s (cmdPart bs) recs).any (fun x => runsList s x.2) = false) →
      tget? (beginRelease s (cmdPart bs) recs).cmds seq = some c →
      exec (.moveResources seq) s = .next { beginRelease s (cmdPart bs) recs with
        cmds := tput (beginRelease s (cmdPart bs) recs).cmds seq { c with begun := true, draining := true, records := recs } }) ∧
    (tget? s.cmds seq = some c → c.draining = true → c.result = none → drained s (cmdPart c.bytes) c.records = true →
      exec (.releaseDrainEnd seq) s = .next (endRelease s seq c.bytes c.records)) ∧
    (∀ part q r p u g, getPart s part = some p → getPart s q = some u → part ≠ q →
      (recKind r = 0 → tget? p.places (recPlace r) = some g → tget? u.places (recPlace r) = none →
        (takeRecord1 part none recs s r = some (setPart s part { p with
          places := tdel p.places (recPlace r), retain := tdel p.retain (recPlace r) })) ∧
        (takeRecord1 part (some q) recs s r = some (modPart (setPart s part { p with
          places := tdel p.places (recPlace r), retain := tdel p.retain (recPlace r) }) q fun x =>
            { x with places := tput x.places (recPlace r) g }))) ∧
      (recKind r = 1 → tget? p.pages (recPage r) = some g → tget? u.pages (recPage r) = none →
        takeRecord1 part (some q) recs s r = some (modPart (setPart s part { p with
          pages := tdel p.pages (recPage r) }) q fun x => { x with pages := tput x.pages (recPage r) g })) ∧
      (recKind r = 5 → recWatts r ≤ p.power → takeRecord1 part (some q) recs s r = some (modPart (setPart s part { p with
          power := p.power - recWatts r }) q fun x => { x with power := x.power + recWatts r })) ∧
      (recKind r = 5 → p.power < recWatts r → takeRecord1 part (some q) recs s r = none))

/-- The measured power of the partitions is taken, and once its total fits no core is gated; while it does not, the cores of every
partition above its share issue in the cycles that its cut leaves, and those of the others in every cycle (R442, R443). -/
def Obligations.PartitionsAreGated : Prop :=
  ∀ (s t : State) (watts : List Nat),
    (t = { s with partitions := s.partitions.map fun e => (e.1, { e.2 with watts := nth watts (e.1 - 1) 0 }) } →
      exec (.partitionPowerSample watts) s = .next
        (if sumParts t (·.watts) ≤ pwrPart t then t.partitions.foldl (fun x e => gatePart x e.2 16) t else t)) ∧
    (pwrPart s < sumParts s (·.watts) → exec .powerGating s = .next (s.partitions.foldl (fun x e =>
      if e.2.power < e.2.watts then gatePart x e.2 (gateOf s (match partCores e.2 with
        | g :: _ => (getCore s g).gate
        | [] => 16) e.2) else gatePart x e.2 16) s))

/-- The record of a core is classified and firmware acts on it; one of a fenced core is discarded (R445, R459). A core whose check, or
whose spare rows, fail is replaced (R276, R445, R453), and a hub that fails stops the works (R458). A passing spare takes the
place of the fenced core, or joins the free pool when that core was free (log 90), and the work goes on; a failing one is fenced
and the next tried (R453, R454). A retired link loses the rows on it, ends the works that it leaves with no route, and every other
work with a row on it is replayed (R457, R458). -/
def Obligations.FaultsAreRecovered : Prop :=
  ∀ (s : State) (core stack die link : Nat) (r : FaultRec) (v : Recovery),
    (core < Config.nCores → (getCore s core).faultRec = some r → (getCore s core).service ≠ .fenced →
      exec (.faultClassify (.record core)) s = .next (actOn s core r (r.code == 0x0C) (r.code == 0x0C))) ∧
    (core < Config.nCores → (getCore s core).faultRec = some r → (getCore s core).service = .fenced →
      exec (.faultClassify (.record core)) s = .next (setCore s core { getCore s core with faultRec := none })) ∧
    (core < Config.nCores → (getCore s core).service ≠ .fenced → workOf s core = none →
      exec (.faultClassify (.checkError core)) s =
        .next (settleRepro (replaceCore (modCore s core fun co => { co with faultRec := none }) core
          (decide (recent (getCore s core).skimFails dayTicks ≥ 3)) none))) ∧
    (core < Config.nCores → (getCore s core).service ≠ .fenced → (getCore s core).spErr.spareExhausted = true →
      workOf s core = none → exec (.faultClassify (.spareExhausted core)) s =
        .next (settleRepro (replaceCore (modCore s core fun co => { co with faultRec := none }) core false none))) ∧
    (∀ k w, s.works = [(k, w)] → w.st = .running →
      exec (.faultClassify .hubFailed) s = .next (stopCores s (workCores w))) ∧
    (die < Config.nDies → exec (.faultClassify (.dieFailed die)) s =
      .next (failWorks s fun w => (workCores w).any fun c => dieOf c == die)) ∧
    (stack < Config.nStacks → exec (.faultClassify (.stackFailed stack)) s =
      .next (failWorks (modStack s stack fun x => { x with failed := true }) fun w =>
        match getPart (modStack s stack fun x => { x with failed := true }) w.part with
        | some p => p.pages.any fun e => e.2 / 32768 == stack
        | none => false)) ∧
    (core < Config.nCores → (s.recoveries.find? fun r => r.spare == some core) = some v →
      exec (.spareSelfTestDone core false) s = .next (beginSpare (fenceCore
        { s with recoveries := s.recoveries.filter fun x => !(x == v) } core false) { v with spare := none })) ∧
    (core < Config.nCores → (s.recoveries.find? fun r => r.spare == some core) = some v → v.work = none →
      exec (.spareSelfTestDone core true) s =
        .next (if v.part = 0 then freeSpare { s with recoveries := s.recoveries.filter fun x => !(x == v) } core
          else mapSpare { s with recoveries := s.recoveries.filter fun x => !(x == v) } v core)) ∧
    (∀ k w, core < Config.nCores → (s.recoveries.find? fun r => r.spare == some core) = some v → v.work = some k →
      tget? s.works k = some w → w.st = .recovering → exec (.spareSelfTestDone core true) s = .next (resumeOn
        (if v.part = 0 then freeSpare { s with recoveries := s.recoveries.filter fun x => !(x == v) } core
         else mapSpare { s with recoveries := s.recoveries.filter fun x => !(x == v) } v core) k w v core)) ∧
    (∀ t u, link < 24 → s.retiredLinks.contains link = false → t = { s with
        cores := s.cores.map fun (e : Nat × Core) => (e.1, { e.2 with
          inbound := e.2.inbound.filter fun a => !(arrivalOn s link e.1 a) }),
        dies := s.dies.map fun (e : Nat × Die) => (e.1, { e.2 with
          transit := e.2.transit.filter fun x => !(resultOn s link e.1 x) }),
        rxTracks := (tracksOnLink s link).foldl tdel s.rxTracks,
        retiredLinks := insNat s.retiredLinks link, partLog := s.partLog ++ [(s.refCount.toNat, 1, link)] } →
      u = failWorks t (routeLost t) → exec (.linkRetire link) s = .next (u.works.foldl (fun y e =>
        match tget? y.works e.1 with
        | some w =>
          if w.st = .running && (workCores w).any (fun c => (rowsOnLink s link).contains c) then
            (if inWindow w then endAbandoned y e.1 w 0 else replayWork y e.1 w)
          else y
        | none => y) u))

/-- A core that is fenced has no list, no unit running, no binding and no row that is not zero; it is in C3 and its port is isolated
(R258, R453), and its error status stands until it leaves C3 (R277, R548). -/
def Obligations.FencedCoresHoldNothing : Prop :=
  ∀ (s : State) (c : Nat) (skim : Bool), c < Config.nCores →
    (getCore (fenceCore s c skim) c).service = .fenced ∧ (getCore (fenceCore s c skim) c).part = 0 ∧
    (getCore (fenceCore s c skim) c).isolated = true ∧ (getCore (fenceCore s c skim) c).seq.running = false ∧
    (getCore (fenceCore s c skim) c).press = [] ∧ (getCore (fenceCore s c skim) c).faultRec = none ∧
    (getCore (fenceCore s c skim) c).spErr = (getCore s c).spErr ∧
    (getPower (fenceCore s c skim) (.core c)).st = 3 ∧
    (∀ store row, store < 3 → row < storeRows store → isFull (fenceCore s c skim) (storeRow c store row) = false) ∧
    (∀ store row x, store < 3 → row < storeRows store → x / 512 = storeRow c store row → byteAt (fenceCore s c skim) x = 0)

/-- Built-in self tests: one that runs ends with its result (R462, R463); a dark spare is tested once a day, isolated; run_test
tests a core that is not in service, and a link or a stack, whose works it stops when its option says so and whose works make it
refused when not; what it finds is free (R462, R464). -/
def Obligations.SelfTestsRun : Prop :=
  ∀ (s : State) (core seq : Nat) (pass : Bool) (bs : List Byte),
    (core < Config.nCores → (getCore s core).testing = true →
      exec (.coreSelfTestDone core pass) s = .next (testResult (afterTest s core pass) 0 core pass)) ∧
    (core < Config.nCores → (getCore s core).service = .dark → s.recoveries.any (fun r => r.spare == some core) = false →
      exec (.darkSpareDailyTest core) s = .next (setCore s core { getCore s core with testing := true, isolated := true })) ∧
    (Begins s seq 0x70 bs → numAt bs 16 1 = 0 → (getCore s (numAt bs 18 2)).service ≠ .inService →
      s.recoveries.any (fun r => r.spare == some (numAt bs 18 2)) = false → exec (.runTestCore seq) s =
      .next (modCore (beginCmd s seq) (numAt bs 18 2) fun co => { co with testing := true, isolated := true })) ∧
    (∀ x ∈ [(1, Instr.runTestLink seq), (2, .runTestStack seq)], Begins s seq 0x70 bs → numAt bs 16 1 = x.1 → s.works = [] →
      exec x.2 s = .next (if Config.freeNat s.freeCtr % 2 = 0
        then fixResult { s with freeCtr := s.freeCtr + 1 } seq 0x0C (leBytes 4 (numAt bs 18 2))
        else fixResult { s with freeCtr := s.freeCtr + 1 } seq 0x00 [])) ∧
    (∀ ws t, Begins s seq 0x70 bs → numAt bs 17 1 ≠ 0 → t = ws.foldl (fun y e => preemptOrEnd y e.1 e.2) s →
      ((numAt bs 16 1 = 1 → ws = (s.works.filter fun e => (e.2.st == .running || e.2.st == .recovering) &&
          (workCores e.2).any fun c => dieOf c == (linkEnds (numAt bs 18 2)).1 || dieOf c == (linkEnds (numAt bs 18 2)).2) →
        exec (.runTestLink seq) s = .next (if Config.freeNat t.freeCtr % 2 = 0
          then fixResult { t with freeCtr := t.freeCtr + 1 } seq 0x0C (leBytes 4 (numAt bs 18 2))
          else fixResult { t with freeCtr := t.freeCtr + 1 } seq 0x00 [])) ∧
       (numAt bs 16 1 = 2 → ws = (s.works.filter fun e => (e.2.st == .running || e.2.st == .recovering) &&
          match getPart s e.2.part with
          | some p => p.pages.any fun x => x.2 / 32768 % 8 == numAt bs 18 2
          | none => false) →
        exec (.runTestStack seq) s = .next (if Config.freeNat t.freeCtr % 2 = 0
          then fixResult { t with freeCtr := t.freeCtr + 1 } seq 0x0C (leBytes 4 (numAt bs 18 2))
          else fixResult { t with freeCtr := t.freeCtr + 1 } seq 0x00 [])))) ∧
    (∀ w ∈ s.works, Begins s seq 0x70 bs → numAt bs 16 1 = 1 → numAt bs 17 1 = 0 → w.2.st = .running →
      (∃ c ∈ workCores w.2, dieOf c = (linkEnds (numAt bs 18 2)).1 ∨ dieOf c = (linkEnds (numAt bs 18 2)).2) →
      exec (.runTestLink seq) s = .next (refuseState s seq 16))

/-! ## The stamp and the requests to Assay firmware -/

/-- Claims to the stamp and its processors: a heartbeat and its lapse (R468), a claim of a processor that does not hold it (R467,
R471), the cycle of Assay firmware (R467), the release of a held standby at most three times an hour and its restart by the host
(R468). A grant of the stamp raises the epoch by one, names the processor in HOLDER, releases it, and counts in GRANT_COUNT (R466,
R472). -/
def Obligations.ProcessorsClaimTheStamp : Prop :=
  (∀ (s : State) (m : Mp) (epoch : Word) (seq : Nat) (bs : List Byte),
     (mpsReleased s = true → (mpOf s.stamp m).held = false →
       exec (.heartbeat m) s = .next { s with stamp := setMp s.stamp m { mpOf s.stamp m with current := true } }) ∧
     exec (.heartbeatLapse m) s = .next { s with stamp := setMp s.stamp m { mpOf s.stamp m with current := false, claim := none } } ∧
     (mpsReleased s = true → (mpOf s.stamp m).held = false → holderMp s.stamp ≠ some m →
       exec (.stampClaim m epoch) s = .next { s with stamp := setMp s.stamp m { mpOf s.stamp m with claim := some epoch } }) ∧
     (mpsReleased s = true → holderMp s.stamp = some m → (mpOf s.stamp m).current = false →
       exec .assayCycle s = .next (dropClaims (afterLapse s m))) ∧
     (mpsReleased s = true → holderMp s.stamp = none → s.stamp.epoch ≠ 0xFFFFFFFF →
       exec .assayCycle s = .next (dropClaims (settleClaims s none))) ∧
     (mpsReleased s = true → holderMp s.stamp = some m → (mpOf s.stamp m).current = true →
       (mpOf s.stamp (otherMp m)).claim = some epoch → s.stamp.epoch ≠ 0xFFFFFFFF → exec .assayCycle s = .next (dropClaims
         (if winner m s.stamp.epoch epoch = m then holdOne s (otherMp m) else holdOne (grantStamp s (otherMp m) (some m)) m))) ∧
     (mpsReleased s = true → (mpOf s.stamp m).held = true → spentReleases s (mpOf s.stamp m) = false →
       exec (.standbyRelease m) s = .next { s with stamp := setMp s.stamp m { mpOf s.stamp m with
         held := false, current := false, releases := (mpOf s.stamp m).releases ++ [s.rind.time.toNat] } }) ∧
     (Begins s seq 0x71 bs → holderMp s.stamp = some (otherMp m) → (mpOf s.stamp m).held = true →
       spentReleases s (mpOf s.stamp m) = true → exec (.restartStandby seq) s = .next (fixResult { s with
         stamp := setMp s.stamp m { mpOf s.stamp m with held := false, current := false, releases := [] } } seq 0x00 []))) ∧
  (∀ (s : State) (m : Mp) (prev : Option Mp),
     (grantStamp s m prev).stamp.epoch = s.stamp.epoch + 1 ∧ (grantStamp s m prev).stamp.holder = mpCode m ∧
     (mpOf (grantStamp s m prev).stamp m).held = false ∧ (mpOf (grantStamp s m prev).stamp m).claim = none ∧
     (grantStamp s m prev).stamp.grantCount = satInc 32 s.stamp.grantCount ∧
     mpOf (grantStamp s m prev).stamp (otherMp m) = mpOf s.stamp (otherMp m) ∧
     (grantStamp s m prev).stamp.staleCount = s.stamp.staleCount ∧ (grantStamp s m prev).stamp.wrRefused = s.stamp.wrRefused)

/-- A write of hub control state with the present epoch is made; one with another epoch changes nothing but STALE_COUNT (R469). -/
def Obligations.StaleHubWritesAreDropped : Prop :=
  ∀ (s : State) (epoch : Word) (w : HubWrite), mpsReleased s = true → (Instr.hubControlWrite epoch w).wf = true →
    (epoch = s.stamp.epoch → exec (.hubControlWrite epoch w) s = .next (applyHubWrite s w)) ∧
    (epoch ≠ s.stamp.epoch → exec (.hubControlWrite epoch w) s =
      .next { s with stamp := { s.stamp with staleCount := satInc 32 s.stamp.staleCount } })

/-- Assay firmware applies a sustained limit from 1,600 to 2,800 W and a throttle point from 85 °C up to the present one, and
answers; it refuses every other value, and a transient limit and a trip point always (R465). A limit asked for by a command is
answered in its result. That the throttle point is only lowered is a reading of R465 (log 53). -/
def Obligations.AssayAnswersRequests : Prop :=
  ∀ (s : State) (n seq : Nat) (bs : List Byte), mpsReleased s = true →
    (1600 ≤ n → n ≤ 2800 → exec (.assayRequest (.sustained n)) s =
      .next { s with assay := { s.assay with sustained := n, answer := some true } }) ∧
    (n < 1600 ∨ 2800 < n → exec (.assayRequest (.sustained n)) s = .next { s with assay := { s.assay with answer := some false } }) ∧
    (85 ≤ n → n ≤ s.assay.throttlePoint → exec (.assayRequest (.throttlePoint n)) s =
      .next { s with assay := { s.assay with throttlePoint := n, answer := some true } }) ∧
    (n < 85 ∨ s.assay.throttlePoint < n →
      exec (.assayRequest (.throttlePoint n)) s = .next { s with assay := { s.assay with answer := some false } }) ∧
    exec (.assayRequest (.transient n)) s = .next { s with assay := { s.assay with answer := some false } } ∧
    exec (.assayRequest (.trip n)) s = .next { s with assay := { s.assay with answer := some false } } ∧
    (Begins s seq 0x52 bs → numAt bs 16 1 = 0 → 1600 ≤ numAt bs 20 4 → numAt bs 20 4 ≤ 2800 → exec (.requestPowerLimit seq) s =
      .next (fixResult { s with assay := { s.assay with sustained := numAt bs 20 4, answer := some true } } seq 0x00 [])) ∧
    (Begins s seq 0x52 bs → numAt bs 16 1 = 1 → 85 ≤ numAt bs 20 4 → numAt bs 20 4 ≤ s.assay.throttlePoint →
      exec (.requestThrottlePoint seq) s =
        .next (fixResult { s with assay := { s.assay with throttlePoint := numAt bs 20 4, answer := some true } } seq 0x00 []))

/-! ## The mailbox and the host -/

/-- Channels: an enable with its sizes in range sets the ring indices to 0 and the phase to 1, any other sets CH_ERROR (R479); a
disable ends it (R483); a tail or head beyond the ring is a channel error (R480, R481); writes that the host made to its memory
before come with the command (log 9). Attaching the ledger area (R502): with the host's writes made, an attach with a size in range
and no channel enabled takes the area; one with a size out of range, or while a channel is enabled, is ignored. -/
def Obligations.ChannelsAndTheLedger : Prop :=
  (∀ (s t : State) (ch : Nat) (v : Word) (host : List HostWrite), ch < Config.nChannels → busUp s = true → t = applyHost s host →
     (channelHere t ch = true → (getCh t ch).enable = false → enableOk t (getCh t ch) = true →
       exec (.channelEnable ch host) s = .next (setCh t ch { getCh t ch with
         enable := true, active := true, sqTail := 0, cqHead := 0, sqHead := 0, cqTail := 0, cqPhase := true, cqUsed := 0 })) ∧
     (channelHere t ch = true → (getCh t ch).enable = false → enableOk t (getCh t ch) = false →
       exec (.channelEnable ch host) s = .next (setCh t ch { getCh t ch with
         chError := true, chErrCount := satInc 32 (getCh t ch).chErrCount })) ∧
     exec (.channelDisable ch) s = .next (setCh s ch { getCh s ch with enable := false, active := false }) ∧
     ((getCh t ch).active = true → v.toNat < 2 ^ (getCh t ch).sqLog2 →
       exec (.sqDoorbell ch v host) s = .next (setCh t ch { getCh t ch with sqTail := v.toNat })) ∧
     ((getCh t ch).active = true → 2 ^ (getCh t ch).sqLog2 ≤ v.toNat →
       exec (.sqDoorbell ch v host) s = .next (setCh t ch { getCh t ch with
         chError := true, chErrCount := satInc 32 (getCh t ch).chErrCount })) ∧
     ((getCh s ch).active = true → v.toNat < 2 ^ (getCh s ch).cqLog2 →
       exec (.cqDoorbell ch v) s = .next (setCh s ch { getCh s ch with
         cqHead := v.toNat,
         cqUsed := (getCh s ch).cqUsed - freedSlots (2 ^ (getCh s ch).cqLog2) (getCh s ch).cqHead v.toNat (getCh s ch).cqUsed }))) ∧
  (∀ (s t : State) (host : List HostWrite), busUp s = true → t = applyHost s host → t.legacy = false →
     exec (.ledgerAttach host) s = .next (attachLedger t) ∧
     (t.ledger.log2 < 8 ∨ 16 < t.ledger.log2 ∨ t.channels.any (fun c => c.2.enable) = true → attachLedger t = t) ∧
     (8 ≤ t.ledger.log2 → t.ledger.log2 ≤ 16 → t.channels.any (fun c => c.2.enable) = false →
       (attachLedger t).ledger.attached = true ∧ (attachLedger t).ledger.held = true ∧
       (attachLedger t).ledger.areaBase = t.ledger.base ∧ (attachLedger t).ledger.areaLog2 = t.ledger.log2))

/-- The entry at the head of a submission ring is accepted when its sequence number is the next of its channel, and is otherwise
discarded, the flag SEQ_ERR set and the head advanced (R486, R487); a full completion ring holds acceptance back (R482). A completed
command's record goes to the completion ring with the phase, its ledger entry is acknowledged and the channel's vector signalled
(R481, R489, R501). -/
def Obligations.CommandsAreAcceptedAndCompleted : Prop :=
  ∀ (s t : State) (ch seq : Nat) (c : Channel) (cmd : Cmd) (r : Result), ch < Config.nChannels → firmwareRuns s = true →
    s.legacy = false → c = getCh s ch → c.active = true →
    (c.sqHead ≠ c.sqTail → openCmds s ch + c.cqUsed < 2 ^ c.cqLog2 →
      (cmdSeq (headEntry s c) = seqOf ch (c.lastCount + 1) →
        exec (.commandAccept ch) s = .next (acceptCmd s ch (seqOf ch (c.lastCount + 1)) (headEntry s c))) ∧
      (cmdSeq (headEntry s c) ≠ seqOf ch (c.lastCount + 1) → exec (.commandAccept ch) s = .next (setCh s ch
        { c with sqHead := (c.sqHead + 1) % 2 ^ c.sqLog2, seqErr := true, seqErrCount := satInc 32 c.seqErrCount }))) ∧
    (2 ^ c.cqLog2 ≤ openCmds s ch + c.cqUsed → exec (.commandAccept ch) s = .next s) ∧
    ((s.cmds.find? fun e => e.2.ch == ch) = some (seq, cmd) → cmd.result = some r →
      t = hostWrite s (c.cqBase.toNat + 32 * c.cqTail) (recordBytes false seq cmd.bytes r c.cqPhase) →
      exec (.completionRecordWrite ch) s = .next (signalVector (modLedger (modCh { t with cmds := tdel t.cmds seq } ch bumpCq) seq
        fun e => if e.st = 5 then { e with st := 6 } else e) ch))

/-- The event queue: an enable with its size in range starts it at 0 with phase 1, a disable ends it, a head in range frees slots
(R498, R592). Firmware writes the record it has taken to the ring with its place, partition and phase and signals vector 16; a
record that finds the ring full or the queue disabled is lost, counted and an alarm (R498). -/
def Obligations.EventsReachTheHost : Prop :=
  ∀ (s : State) (v : Word) (r : FaultRec) (place part : Nat) (rest : List (FaultRec × Nat × Nat)) (q : EventQueue), q = s.evq →
    (busUp s = true → v.getLsbD 0 = true → q.active = false → 4 ≤ fld v.toNat 8 5 → fld v.toNat 8 5 ≤ 16 →
      exec (.evqEnable v) s = .next { s with evq := { q with
        log2 := fld v.toNat 8 5, active := true, head := 0, tail := 0, phase := true, used := 0 } }) ∧
    (busUp s = true → exec .evqDisable s = .next { s with evq := { q with active := false } }) ∧
    (busUp s = true → q.active = true → v.toNat < 2 ^ q.log2 → exec (.evqDoorbell v) s = .next { s with evq := { q with
      head := v.toNat, used := q.used - freedSlots (2 ^ q.log2) q.head v.toNat q.used } }) ∧
    (firmwareRuns s = true → q.waiting = (r, place, part) :: rest →
      ((q.active = false ∨ 2 ^ q.log2 ≤ q.used) → exec .eventRecordWrite s = .next (raiseAlarm { s with
        evq := { q with waiting := rest, ovfCount := satInc 32 q.ovfCount } } 8)) ∧
      (q.active = true → q.used < 2 ^ q.log2 → exec .eventRecordWrite s = .next (signalVector { hostWrite s
          (q.base.toNat + 32 * q.tail) (eventBytes r place part q.phase) with evq := { q with
        waiting := rest, tail := (q.tail + 1) % 2 ^ q.log2,
        phase := if (q.tail + 1) % 2 ^ q.log2 = 0 then !q.phase else q.phase, used := q.used + 1 } } 16)))

/-- Writes of BAR0: ALARM_ENABLE keeps its nine bits, and an enable written while its flag is set signals vector 17 (R590); a write to
the Assay registers is refused and counted (R465, R595); a write of ones to ALARM_STATUS clears those flags (R589, R599);
PD_SELECT keeps its fields, and an unknown kind selects no record (R593, R594). The BAR2 window: an access to a page that is not
open answers unsupported, or is dropped with BAR2_REFUSED; an access through open pages whose targets are awake reads and writes
the rows behind them (R496, R497). The host's pins and link (R476, R533, R551): PERST_N asserted and a lost link reset the
endpoint, its deassertion samples the mailbox mode and brings the endpoint up while the hub has power, and the link in L0 lets go
of WAKE_N. -/
def Obligations.TheHostReachesTheModule : Prop :=
  (∀ (s : State) (offset : Nat) (v : Word), busUp s = true →
     exec (.registerWrite offset v) s = .next (bar0Write s offset v) ∧
     exec (.alarmEnableWrite v) s = .next
       (if ((v &&& 0x3FE) &&& s.alarms.status) != 0
        then signalVector (refreshWake { s with alarms := { s.alarms with enable := v &&& 0x3FE } }) 17
        else refreshWake { s with alarms := { s.alarms with enable := v &&& 0x3FE } }) ∧
     (0x400 ≤ offset → offset < 0x500 → exec (.assayStatusWrite offset v) s =
       .next { s with stamp := { s.stamp with wrRefused := satInc 32 s.stamp.wrRefused } }) ∧
     bar0Write s 0x40 v = refreshWake { s with alarms := { s.alarms with status := s.alarms.status &&& (~~~ v) } } ∧
     bar0Write s 0x300 v = { s with pdSelect := v &&& 0xF3FF } ∧ (3 < fld v.toNat 12 4 → pdSelected (v &&& 0xF3FF).toNat = none) ∧
     (0x400 ≤ offset → offset < 0x500 → offset % 4 = 0 →
       bar0Write s offset v = { s with stamp := { s.stamp with wrRefused := satInc 32 s.stamp.wrRefused } })) ∧
  (∀ (s t : State) (offset len : Nat) (data : List Byte) (ps : List (Nat × Nat)), busUp s = true →
     (windowParts s offset len = none → exec (.bar2Read offset len) s = .next { s with bar2 := .unsupported }) ∧
     (windowParts s offset len = some ps → ps.any (fun p => asleep s (p.1 / 512)) = false → windowRead s ps = (data, t, false) →
       exec (.bar2Read offset len) s = .next { t with bar2 := .ok data }) ∧
     (windowParts s offset len = some ps → ps.any (fun p => asleep s (p.1 / 512)) = false → windowRead s ps = (data, t, true) →
       exec (.bar2Read offset len) s = .next (raiseAlarm { t with bar2 := .poisoned } 6)) ∧
     (windowParts s offset data.length = none → exec (.bar2Write offset data) s = .next (raiseAlarm s 7)) ∧
     (windowParts s offset data.length = some ps → ps.any (fun p => asleep s (p.1 / 512)) = false →
       exec (.bar2Write offset data) s =
         .next (ps.foldl (fun x p => (windowWrite x.1 p.1 (x.2.take p.2), x.2.drop p.2)) (s, data)).1)) ∧
  (∀ s : State,
     exec .perstAssert s = .next { endpointReset s with perstN := false } ∧
     (s.endpointUp = true → exec .hostLinkLoss s = .next { endpointReset s with endpointUp := true }) ∧
     (s.endpointUp = true → exec .linkReachesL0 s = .next (refreshWake { s with l0 := true })) ∧
     (s.perstN = false → hubOn s = true → s.legacy = false → s.boot.modeByte = 0 → s.modulePd.entry = none →
       s.modulePd.waking = false →
       ∃ t, exec (.perstDeassert false) s = .next t ∧ t.perstN = true ∧ t.endpointUp = true ∧ t.legacy = false ∧ t.boot = s.boot ∧
         t.works = s.works ∧ t.cmds = s.cmds ∧ t.mem = s.mem) ∧
     (endpointReset s).endpointUp = false ∧ (endpointReset s).channels = [] ∧ (endpointReset s).l0 = false ∧
     (endpointReset s).ledger.attached = false ∧ (endpointReset s).ledger.entries = s.ledger.entries ∧
     (s.legacy = false → (endpointReset s).works = s.works ∧ (endpointReset s).cmds = s.cmds))

/-! ## The command set -/

/-- Works: a start gives every list of its table to its core, all or none (R493); a preempt stops a running one, a resume runs a
preempted one from its common turn, and a discard ends a preempted one (R494). -/
def Obligations.WorksStartStopAndResume : Prop :=
  ∀ (s : State) (seq k : Nat) (bs : List Byte) (ls : List WList) (w : Work) (field : Bool) (i : Nat),
    (Begins s seq 0x20 bs → (getPart s (cmdPart bs)).isSome = true → (tableCores s bs).any (coreLocked s) = false →
      (readLists s bs (numAt bs 24 2) 0 [] = .ok ls → exec (.startWork seq) s = .next (ledgerState (putWork
        (ls.foldl (fun s l => giveStart s l.core (freshStart l.base seq)) (beginCmd s seq)) seq
        { part := cmdPart bs, lists := ls, st := .running, turn := none, window := none, peers := [], status := 0,
          replaced := [] }) seq 2)) ∧
      (readLists s bs (numAt bs 24 2) 0 [] = .refused field i → exec (.startWork seq) s =
        .next (if field then refuseField s seq 16 i else refuseState s seq 16))) ∧
    (Begins s seq 0x21 bs → namedWork s bs = some (k, w) → w.st = .running →
      exec (.preemptWork seq) s = .next (fixResult (preemptWork s k w) seq 0x00 [])) ∧
    (Begins s seq 0x22 bs → namedWork s bs = some (k, w) → w.st = .preempted → placeLists s w (numAt bs 24 8) = some ls →
      (workCores { w with lists := ls }).any (coreLocked s) = false →
      exec (.resumeWork seq) s = .next (fixResult (restartWork s k { w with lists := ls } false) seq 0x00 [])) ∧
    (Begins s seq 0x23 bs → namedWork s bs = some (k, w) → w.st = .preempted → exec (.discardWork seq) s =
      .next (fixResult (finishWork s k w 0x0A (w.turn.getD 0xFFFFFFFF) (leBytes 4 (w.turn.getD 0xFFFFFFFF))) seq 0x00 [])) ∧
    (∀ x ∈ [(0x21, Instr.preemptWork seq), (0x22, .resumeWork seq), (0x23, .discardWork seq)], Begins s seq x.1 bs →
      namedWork s bs = none → exec x.2 s = .next (refuseState s seq 16))

/-- Windows and rows: opening maps window pages to the pages that the partition has bound, all or none, and closing unmaps them
(R496); read_rows copies a range of store rows to the host and write_rows writes one, part by part (R495). -/
def Obligations.WindowsAndRowsAreServed : Prop :=
  ∀ (s : State) (seq : Nat) (bs : List Byte) (p : Partition) (gs : List (Nat × Nat)),
    (Begins s seq 0x30 bs → getPart s (cmdPart bs) = some p → (windowRange bs).any (fun k => (tget? s.windows k).isSome) = false →
      pagesLocked s (cmdPart bs) ((windowRange bs).zipIdx.map fun x => numAt bs 24 8 / 2 ^ 21 + x.2) = false →
      ((windowRange bs).zipIdx.mapM fun x => (tget? p.pages (numAt bs 24 8 / 2 ^ 21 + x.2)).map fun g => (x.1, g)) = some gs →
      exec (.openWindow seq) s =
        .next (fixResult { s with windows := gs.foldl (fun t x => tput t x.1 x.2) s.windows } seq 0x00 [])) ∧
    (Begins s seq 0x31 bs → exec (.closeWindow seq) s =
      .next (fixResult { s with windows := (windowRange bs).foldl tdel s.windows } seq 0x00 [])) ∧
    (Begins s seq 0x32 bs → (getPart s (cmdPart bs)).isSome = true →
      rowsBusy s (cmdPart bs) (numAt bs 16 8) (numAt bs 32 4) false = false → exec (.readRows seq) s =
      .next (readParts seq (cmdPart bs) (rowParts (numAt bs 16 8) (numAt bs 32 4)) (numAt bs 24 8) s)) ∧
    (Begins s seq 0x33 bs → (getPart s (cmdPart bs)).isSome = true →
      rowsBusy s (cmdPart bs) (numAt bs 24 8) (numAt bs 32 4) true = false → exec (.writeRows seq) s =
      .next (writeParts seq (cmdPart bs) (numAt bs 36 1) (rowParts (numAt bs 24 8) (numAt bs 32 4))
        (hostRead s (numAt bs 16 8) (numAt bs 32 4)) s)) ∧
    (∀ x ∈ [(0x30, Instr.openWindow seq), (0x32, .readRows seq), (0x33, .writeRows seq)], Begins s seq x.1 bs →
      getPart s (cmdPart bs) = none → exec x.2 s = .next (refuseState s seq 2))

/-- The commands that report, and the reproducible mode: what each writes to the host or answers (R491, R603), and the mode, which
holds for the checks that begin from here (R145, R146). -/
def Obligations.ReportsAnswer : Prop :=
  ∀ (s : State) (seq k : Nat) (bs : List Byte) (w : Work),
    (Begins s seq 0x01 bs → exec (.identify seq) s = .next (fixResult s seq 0x00 (identDetail s))) ∧
    (Begins s seq 0x02 bs → exec (.queryLedger seq) s = .next (fixResult (hostWrite s (numAt bs 32 8)
      ((List.range (numAt bs 24 2)).flatMap fun i => ledgerSlot s (numAt bs 16 8 + i))) seq 0x00 [])) ∧
    (Begins s seq 0x03 bs → exec (.queryCores seq) s =
      .next (fixResult (hostWrite s (numAt bs 16 8) ((List.range 16).flatMap (coreRecord s))) seq 0x00 [])) ∧
    (Begins s seq 0x04 bs → namedWork s bs = some (k, w) → faultRecords w ≠ [] → exec (.readFault seq) s =
      .next (fixResult (hostWrite s (numAt bs 24 8) (faultRecords w).flatten) seq 0x00 [])) ∧
    (Begins s seq 0x60 bs → exec (.readStatus seq) s =
      .next (fixResult (hostWrite s (numAt bs 24 8) (statusBytes s (numAt bs 16 1) (numAt bs 18 2))) seq 0x00 [])) ∧
    (Begins s seq 0x61 bs → exec (.clearStatus seq) s =
      .next (fixResult (clearStatus s (numAt bs 16 1) (numAt bs 18 2) (numAt bs 20 4) (numAt bs 24 4)) seq 0x00 [])) ∧
    (Begins s seq 0x50 bs → runningLayers s = [] → exec (.setReproducible seq) s =
      .next (fixResult { s with reproducible := numAt bs 16 1 == 1 } seq 0x00 [])) ∧
    (Begins s seq 0x50 bs → runningLayers s ≠ [] → exec (.setReproducible seq) s =
      .next { beginCmd { s with reproducible := numAt bs 16 1 == 1 } seq with
        reproWait := s.reproWait ++ [(seq, runningLayers s)] })

/-- The commands on links; those of a port wait while a release or move locks it (R438): the module ID (R408), routes together or not
at all (R409), the eight actions of port_control (R390, R394, R411, R413) and a link key that unwraps; a key and encryption are
refused while the debug port is open (R561, R564). -/
def Obligations.LinkSettingsAreMade : Prop :=
  ∀ (s : State) (seq n : Nat) (bs data : List Byte), n = numAt bs 16 1 →
    (Begins s seq 0x40 bs → exec (.setModuleId seq) s =
      .next (fixResult { s with moduleId := some (BitVec.ofNat 16 (numAt bs 16 2)) } seq 0x00 [])) ∧
    (Begins s seq 0x41 bs → data = hostRead s (numAt bs 16 8) (4 * numAt bs 28 4) →
      ((List.range (numAt bs 28 4)).find? fun i => routeRefused (numAt data (4 * i) 4)) = none →
      exec (.setRoutes seq) s = .next (fixResult (retryForwards ((List.range (numAt bs 28 4)).foldl (fun x i =>
        writeRoute x (numAt bs 24 4 + i) (BitVec.ofNat 32 (numAt data (4 * i) 4))) s)) seq 0x00 [])) ∧
    (∀ i, Begins s seq 0x41 bs → data = hostRead s (numAt bs 16 8) (4 * numAt bs 28 4) →
      ((List.range (numAt bs 28 4)).find? fun i => routeRefused (numAt data (4 * i) 4)) = some i →
      exec (.setRoutes seq) s = .next (refuseField s seq 16 i)) ∧
    (∀ x ∈ [(0, Instr.portDisable seq), (1, .portEnable seq), (2, .forwardingOff seq), (3, .forwardingOn seq), (4, .preferLeader seq),
        (5, .preferFollower seq), (6, .encryptionOff seq), (7, .encryptionOn seq)], Begins s seq 0x42 bs → numAt bs 17 1 = x.1 →
      portLocked s n = true → exec x.2 s = .next s) ∧
    (portLocked s n = false →
    (Begins s seq 0x42 bs → numAt bs 17 1 = 0 → exec (.portDisable seq) s = .next (fixResult
      (modPort (leaveUp s n .disabled) n fun p => { p with enabled := false }) seq 0x00 [])) ∧
    (Begins s seq 0x42 bs → numAt bs 17 1 = 1 → (getPort s n).link = .disabled → exec (.portEnable seq) s =
      .next (fixResult (setPort s n { getPort s n with link := .dark, enabled := true }) seq 0x00 [])) ∧
    (Begins s seq 0x42 bs → numAt bs 17 1 = 2 → exec (.forwardingOff seq) s =
      .next (fixResult (setPort s n { getPort s n with forwarding := false }) seq 0x00 [])) ∧
    (Begins s seq 0x42 bs → numAt bs 17 1 = 3 → exec (.forwardingOn seq) s =
      .next (fixResult (retryForwards (setPort s n { getPort s n with forwarding := true })) seq 0x00 [])) ∧
    (Begins s seq 0x42 bs → numAt bs 17 1 = 4 → exec (.preferLeader seq) s = .next (fixResult (setPort s n { getPort s n with
      policy := 1, requestPending := (getPort s n).requestPending || ((getPort s n).link == .up && !(getPort s n).leader) })
      seq 0x00 [])) ∧
    (Begins s seq 0x42 bs → numAt bs 17 1 = 5 → exec (.preferFollower seq) s = .next (fixResult (setPort s n { getPort s n with
      policy := 2, requestPending := (getPort s n).requestPending || ((getPort s n).link == .up && (getPort s n).leader) })
      seq 0x00 [])) ∧
    (Begins s seq 0x42 bs → numAt bs 17 1 = 6 → exec (.encryptionOff seq) s =
      .next (fixResult (setPort s n { getPort s n with encWanted := false }) seq 0x00 [])) ∧
    (Begins s seq 0x42 bs → numAt bs 17 1 = 7 → s.rind.debugOpen = false → exec (.encryptionOn seq) s =
      .next (fixResult (setPort s n { getPort s n with encWanted := true }) seq 0x00 [])) ∧
    (Begins s seq 0x42 bs → numAt bs 17 1 = 7 → s.rind.debugOpen = true →
      exec (.encryptionOn seq) s = .next (refuseState s seq 16)) ∧
    (Begins s seq 0x43 bs → s.rind.debugOpen = false → data = hostRead s (numAt bs 24 8) 146 → numAt data 0 1 = 1 →
      exec (.installKey seq) s = .next
        (match Config.unwrapKey s.boot.agreement ((data.drop 1).take 97) s.fuses.serial (BitVec.ofNat 8 n) (data.drop 98) with
        | none => fixResult s seq 0x04 (addrDetail 0 0)
        | some k => fixResult (setPort s n { getPort s n with keyNext := some (linkKeyOf k) }) seq 0x00 [])) ∧
    (Begins s seq 0x43 bs → s.rind.debugOpen = true → exec (.installKey seq) s = .next (refuseState s seq 16)))

/-! ## Power domains -/

/-- The commands of votes: a client that may vote for the domain has its vote recorded, a core's state 0 taken as 1; a partition that
may not is refused (R521); one for a core that a release or move locks waits (R438). A withdrawn vote leaves the domain's votes,
or the die's votes for its point, and every vote that its client may not give is refused with PERMISSION (R521). -/
def Obligations.VotesAreCast : Prop :=
  (∀ (s : State) (seq : Nat) (bs : List Byte), mayVote s bs = true → numAt bs 18 1 ≠ 0xFF →
     (Begins s seq 0x51 bs → fld (numAt bs 16 2) 12 4 = 0 → coreLocked s (fld (numAt bs 16 2) 0 10) = false →
       exec (.voteCoreState seq) s = .next
       (setVote (fixResult s seq 0x00 []) (.core (fld (numAt bs 16 2) 0 10)) (voteClient bs) (some (max 1 (numAt bs 18 1))))) ∧
     (Begins s seq 0x51 bs → fld (numAt bs 16 2) 12 4 = 1 → exec (.voteDieState seq) s = .next
       (setVote (fixResult s seq 0x00 []) (.die (fld (numAt bs 16 2) 0 10 % 16)) (voteClient bs) (some (numAt bs 18 1)))) ∧
     (Begins s seq 0x51 bs → fld (numAt bs 16 2) 12 4 = 2 → exec (.votePhotonicState seq) s = .next
       (setVote (fixResult s seq 0x00 []) (.photonic (fld (numAt bs 16 2) 0 10 % 4)) (voteClient bs) (some (numAt bs 18 1)))) ∧
     (Begins s seq 0x51 bs → fld (numAt bs 16 2) 12 4 = 3 → exec (.voteModuleState seq) s = .next
       (setVote (fixResult s seq 0x00 []) .module (voteClient bs) (some (numAt bs 18 1)))) ∧
     (Begins s seq 0x51 bs → fld (numAt bs 16 2) 12 4 = 4 → exec (.voteOperatingPoint seq) s = .next (fixResult
       (setPointVote s (fld (numAt bs 16 2) 0 10 % 16) (wakeId (voteClient bs)) (some (numAt bs 18 1))) seq 0x00 []))) ∧
  (∀ (s : State) (seq : Nat) (bs : List Byte), Begins s seq 0x51 bs →
     (fld (numAt bs 16 2) 12 4 = 0 → coreLocked s (fld (numAt bs 16 2) 0 10) = true →
       (numAt bs 18 1 ≠ 0xFF → exec (.voteCoreState seq) s = .next s) ∧
       (numAt bs 18 1 = 0xFF → exec (.voteWithdraw seq) s = .next s)) ∧
     (numAt bs 18 1 = 0xFF → mayVote s bs = true →
       (fld (numAt bs 16 2) 12 4 = 0 → coreLocked s (fld (numAt bs 16 2) 0 10) = false) → exec (.voteWithdraw seq) s = .next
       (if fld (numAt bs 16 2) 12 4 = 4 then
          fixResult (setPointVote s (fld (numAt bs 16 2) 0 10 % 16) (wakeId (voteClient bs)) none) seq 0x00 []
        else setVote (fixResult s seq 0x00 []) (voteDomain bs) (voteClient bs) none)) ∧
     (∀ x ∈ [(0, Instr.voteCoreState seq), (1, .voteDieState seq), (2, .votePhotonicState seq), (3, .voteModuleState seq),
         (4, .voteOperatingPoint seq)], numAt bs 18 1 ≠ 0xFF → mayVote s bs = false → fld (numAt bs 16 2) 12 4 = x.1 →
       (x.1 = 0 → coreLocked s (fld (numAt bs 16 2) 0 10) = false) →
       exec x.2 s = .next (fixResult s seq 0x04 (addrDetail 0 0))))

/-- The permitted state of a domain is the shallowest that any client votes for, and its deepest when nobody votes (R520); a compute
die is permitted D3 only when every compute die is (R518). The ceiling of a die is the slowest of those that are set, and never
faster than its bin allows; the point that its votes ask for never exceeds it (R512). -/
def Obligations.VotesAndCeilingsBoundTheDomains : Prop :=
  (∀ (s : State) (d : Domain), (∀ k, d ≠ .die k) →
     (∀ v ∈ allVotes s d, permitted s d ≤ v.2) ∧ permitted s d ≤ deepest d ∧
     (permitted s d = deepest d ∨ ∃ v ∈ allVotes s d, permitted s d = v.2)) ∧
  (∀ (f : Fuses) (p : DiePower),
     (∀ c, some c ∈ ceilings f p → speedRank c ≤ speedRank (ceilingOf f p)) ∧ some (ceilingOf f p) ∈ ceilings f p ∧
     speedRank (ceilingOf f p) ≤ speedRank (desiredPoint f p))

/-- Entries and wakes: a domain permitted a deeper state begins its entry when its conditions hold (R525); the entry passes its
point of no return, and then completes (R525); an access wakes its target and the dies on the way from the hub (R528); a domain
whose wake is complete is up (R528); a pad is released once its ends are ready (R530, R531). -/
def Obligations.DomainsEnterAndWake : Prop :=
  ∀ (s : State) (d : Domain) (src : WakeSource) (e : Entry) (c k a : Nat), d.wf = true →
    (firmwareRuns s = true → (getPower s d).entry = none → (getPower s d).waking = false → (getPower s d).st < permitted s d →
      sleepState d ≤ permitted s d → canEnter s d = true → exec (.domainEntryBegin d) s =
      .next (setPower s d { getPower s d with entry := some { target := permitted s d, committed := false } })) ∧
    ((getPower s d).entry = some e → e.committed = false → exec (.entryComplete d) s =
      .next (passPoint (setPower s d { getPower s d with entry := some { e with committed := true } }) d)) ∧
    ((getPower s d).entry = some e → e.committed = true → exec (.entryComplete d) s = .next (finishEntry s d e)) ∧
    (d = .core c → exec (.accessWake d src) s = .next (wakeEvent
      ((wakeRoute s (dieOf c)).foldl (fun x k => wakeEvent x (.die k) src) s) (.core c) src)) ∧
    (d = .die k → exec (.accessWake d src) s = .next ((wakeRoute s k).foldl (fun x k => wakeEvent x (.die k) src) s)) ∧
    (d = .photonic k ∨ d = .module → exec (.accessWake d src) s = .next (wakeEvent s d src)) ∧
    ((getPower s d).waking = true →
      (d = .core c → dieUp s (dieOf c) = true → exec (.wakeComplete d) s = .next (coreUp s c)) ∧
      (d = .die k → exec (.wakeComplete d) s = .next (dieWake s k)) ∧
      (d = .photonic k → exec (.wakeComplete d) s = .next (photonicUp s k)) ∧
      (d = .module → exec (.wakeComplete d) s = .next (leaveM2 s))) ∧
    (k < Config.nDies → dieUp s k = true →
      exec (.padRelease (.hbmPhy k)) s = .next { s with pads := { s.pads with hbm := delNat s.pads.hbm k } }) ∧
    (k < Config.nDies → a < Config.nDies → dieUp s k = true → dieUp s a = true → exec (.padRelease (.ucie k a)) s = .next { s with
      pads := { s.pads with ucie := s.pads.ucie.filter fun x => !(x == (k, a) || x == (a, k)) } }) ∧
    (padReady s .xspi = true → exec (.padRelease .xspi) s = .next { s with pads := { s.pads with xspi := false } }) ∧
    (padReady s .elsfp = true → exec (.padRelease .elsfp) s = .next { s with pads := { s.pads with elsfp := false } }) ∧
    (padReady s .tdo = true → exec (.padRelease .tdo) s = .next { s with pads := { s.pads with tdo := false } })

/-- The voltage of a die carries its clock through the lock of the standby PLL, the arrival of the voltage, a new target and a wake
(R513, R514). The operating point of a die follows its PLL and its voltage (R513, R514), and the power loop the input power: a
sample is taken while the hub has power; the 100 µs average above the transient limit, or the 10 ms average above the sustained
limit, steps the power ceiling of every die down; at 95 % of the sustained limit or below it rises (R539). -/
def Obligations.PointsFollowThePower : Prop :=
  (∀ (p : DiePower) (f : Fuses) (t : Nat), VoltageOk p →
     VoltageOk (lockPll p) ∧ VoltageOk (aimAt p t) ∧ VoltageOk (wakePoint f p) ∧
     (voltageMoves p = true → VoltageOk (reachVoltage p))) ∧
  (∀ (s : State) (die w a b c : Nat),
     (die < Config.nDies → dieUp s die = true → (getDie s die).power.locking = true → exec (.pllLock die) s =
       .next (setDie s die { getDie s die with power := lockPll (getDie s die).power })) ∧
     (die < Config.nDies → dieUp s die = true → voltageMoves (getDie s die).power = true → exec (.voltageReached die) s =
       .next (setDie s die { getDie s die with power := reachVoltage (getDie s die).power })) ∧
     (hubOn s = true → exec (.inputPowerSample w a b c) s =
       .next { s with meter := { watts := w, avg100 := a, avg1ms := b, avg10ms := c } }) ∧
     (s.assay.transient < s.meter.avg100 → exec .powerTransientStep s = .next (capStep s)) ∧
     (s.assay.sustained < s.meter.avg10ms → exec .powerSustainedStep s = .next (capStep s)) ∧
     ((getDie s 0).power.powerCeil ≠ none → s.assay.sustained ≤ s.meter.avg1ms → exec .powerSustainedStep s = .next (capStep s)) ∧
     (s.meter.avg100 ≤ s.assay.transient → exec .powerTransientStep s = .next s) ∧
     (100 * s.meter.avg10ms ≤ 95 * s.assay.sustained → exec .powerCeilingRise s = .next ((List.range 16).foldl (fun x d =>
       retarget (modDie x d fun y => { y with power := { y.power with powerCeil := riseCeil x.fuses y.power.powerCeil } }) d) s)))

/-- Temperature and coolant: a reading goes to every die, the hub and the Rind's comparators (R540); a sensor still at or above the
throttle point steps its die's thermal ceiling again, and sensors 5 °C below it let the ceiling rise (R541); low coolant caps every
die at P3 and is an alarm, in M2 it is only latched, and its end lifts that ceiling (R542, R581). Regulator phases: a failed phase
is retired on a compute die, a photonic die or the hub (R536 to R538); a step is repeated while the phase ceiling stands and the
point is not P4, and is made when the current exceeds what the phases carry (R537). -/
def Obligations.HeatCoolantAndPhases : Prop :=
  (∀ (s t : State) (die : Nat) (temps : List (List Nat)) (h : Nat × Nat),
     (hubOn s = true → t = (List.range 4).foldl (fun x k => readPd x k (nth temps (16 + k) []))
         ((List.range 16).foldl (fun x d => readDie x d (nth temps d [])) s) →
       exec (.sensorRead temps) s = .next (comparators (readHub t (nth temps 20 [])) temps)) ∧
     (die < Config.nDies → hotSensor s.assay.throttlePoint (getDie s die).power.temps = some h →
       exec (.throttleRepeat die) s = .next (throttleStep s die h)) ∧
     (die < Config.nDies → (∀ x ∈ (getDie s die).power.temps, x + 5 ≤ s.assay.throttlePoint) → exec (.throttleRise die) s =
       .next (retarget (modDie s die fun x => { x with power :=
         { x.power with thermalCeil := riseCeil s.fuses x.power.thermalCeil } }) die)) ∧
     (s.modulePd.st < 2 → firmwareRuns s = true →
       exec .coolantFault s = .next (coolantStep { s with rind := { s.rind with coolantLow := true } })) ∧
     (2 ≤ s.modulePd.st → exec .coolantFault s = .next (refreshAlert (alertConds s)
       { s with rind := { s.rind with coolantLow := true, coolantHeld := true } })) ∧
     (exec .coolantClear s = .next ((List.range 16).foldl (fun x d =>
       retarget (modDie x d fun y => { y with power := { y.power with coolantCeil := none } }) d)
       { s with rind := { s.rind with coolantLow := false } }))) ∧
  (∀ (s t : State) (die : Nat),
     (∀ x ∈ [Instr.phaseFailOpen die, .phaseSenseMismatch die],
       (die < 16 → exec x s = .next (retireDiePhase s die)) ∧
       (16 ≤ die → die < 20 → exec x s = .next (retirePdPhase s (die - 16))) ∧
       (die = 20 → exec x s = .next (retireHubPhase s))) ∧
     (die < 16 → (getDie s die).power.phaseCeil ≠ none → (getDie s die).power.point ≠ 4 →
       exec (.phaseStepRepeat die) s = .next (phaseStep s die)) ∧
     (die < 16 → (getDie s die).power.point ≠ 4 → exec (.currentExceedsPhaseCapacity die) s = .next (phaseStep s die)) ∧
     (t = phaseStep s die → (getDie t die).power.phaseLost = true ∧
       (getDie t die).power.phaseLostCount = satInc 32 (getDie s die).power.phaseLostCount ∧ t.alarms.status.getLsbD 2 = true))

/-! ## Resets, boot and attestation -/

/-- Trips, supply faults and resets: a trip and a supply fault take the module to M2 at once, latch and are to be reported after the
restart (R543, R544); losing VAON leads to M3 and its return resets everything (R544, R548); AON_RST_N and SYS_RST_N reset what R548
names, and the alarm timer wakes the module (R526). What a system reset keeps and what it clears (R548): the Rind, the fuse map, HBM
and host memory, the stamp's epoch and counters are kept; partitions, windows, routes, the module ID, stores and alarms are gone,
both processors are held, and boot has not begun. -/
def Obligations.ResetsOfTheModule : Prop :=
  (∀ (s : State) (die sensor supply : Nat) (strap : BitVec 2),
     (die < 21 → s.m3 = false → exec (.thermTrip die sensor) s = .next (refreshAlert (alertConds s) { inM2 s true with
       rind := { (inM2 s true).rind with trip := true, thermtripN := false, hottest := max 115 (inM2 s true).rind.hottest },
       restarted := (inM2 s true).restarted ++ [(0x85, die + (sensor <<< 8))] })) ∧
     (supply < 5 → s.m3 = false → exec (.supplyFault supply) s = .next (refreshAlert (alertConds s) { inM2 s true with
       rind := { (inM2 s true).rind with supply := setNth (inM2 s true).rind.supply supply true },
       restarted := (inM2 s true).restarted ++ [(0x84, supply)] })) ∧
     (exec .vaonLoss s = .next { fullReset s 0 with
       m3 := true,
       mem := (fullReset s 0).mem.filter (fun c => placeOf (c.1 / 512) == .host), poison := [], errOne := [], errMany := [], works := [] }) ∧
     (s.m3 = true → exec (.vaonRise strap) s = .next (fullReset { s with m3 := false } strap)) ∧
     (s.m3 = false → exec (.aonRst strap) s = .next (fullReset s strap)) ∧
     (s.m3 = false → s.modulePd.st < 2 → exec .sysRst s = .next (systemReset s false)) ∧
     exec .rindAlarm s = .next (wakeEvent { s with rind := { s.rind with alarm := none } } .module .alarm)) ∧
  (∀ (s : State) (lost : Bool) (a : Nat),
     (systemReset s lost).fuses = s.fuses ∧ (systemReset s lost).stamp.epoch = s.stamp.epoch ∧
     (systemReset s lost).stamp.grantCount = s.stamp.grantCount ∧ (systemReset s lost).stamp.staleCount = s.stamp.staleCount ∧
     (systemReset s lost).stamp.holder = 0 ∧ (systemReset s lost).stamp.mpA.held = true ∧
     (systemReset s lost).stamp.mpB.held = true ∧ (systemReset s lost).rind.time = s.rind.time ∧
     (systemReset s lost).rind.debugOpen = s.rind.debugOpen ∧ (systemReset s lost).partitions = [] ∧
     (systemReset s lost).windows = [] ∧ (systemReset s lost).routes = [] ∧ (systemReset s lost).moduleId = none ∧
     (systemReset s lost).alarms.status = 0 ∧ (systemReset s lost).boot.stage = 0 ∧ (systemReset s lost).cores = [] ∧
     (systemReset s lost).full = [] ∧ (systemReset s lost).pending = s.pending ∧
     byteAt (systemReset s lost) a = if keptRow (a / 512) then byteAt s a else 0)

/-- The boot chain (R550, R553 to R556): boot begins and fails with the stage of its cause, a valid image is measured and starts its
firmware, an image that is not valid gives up its slot, and firmware that is ready serves the mailbox. -/
def Obligations.BootFollowsItsChain : Prop :=
  ∀ (s t : State) (src : Bool) (img : List Byte) (phases : List Nat),
    (bootMayBegin s = true → t = { s with boot := { s.boot with begun := true, bootSrc := src, slot := src, tried := [] } } →
      exec (.bootBegin src true true true) s = .next { t with
        pads := { t.pads with xspi := false }, boot := { t.boot with stage := 1 } } ∧
      (∀ b c, exec (.bootBegin src false b c) s = .next (bootFails t 9)) ∧
      (∀ c, exec (.bootBegin src true false c) s = .next (bootFails t 12)) ∧
      exec (.bootBegin src true true false) s = .next (bootFails { t with pads := { t.pads with xspi := false } } 10)) ∧
    (s.boot.stage = 1 → exec (.assayImageRead img) s = .next
      (if imageValid s.fuses 1 img then { s with boot := { s.boot with
          stage := 2, assayHeader := img.take 224,
          cdiA := Config.hmac384 s.fuses.uds (leBytes 48 (Config.sha384 (img.take 224)).toNat ++ [configByte s]),
          agreement := Config.deriveAgreement
            (Config.hmac384 s.fuses.uds (leBytes 48 (Config.sha384 (img.take 224)).toNat ++ [configByte s])) } }
       else giveUpSlot s)) ∧
    (s.boot.stage = 2 → ∃ u, exec (.managementImageRead img) s = .next (if imageValid s.fuses 2 img then u else giveUpSlot s) ∧
      u.boot.stage = 3 ∧ u.boot.mgmtHeader = img.take 224 ∧ u.stamp.mpA.held = false ∧ u.stamp.mpB.held = false ∧
      u.boot.cdiM = Config.hmac384 s.boot.cdiA (leBytes 48 (Config.sha384 (img.take 224)).toNat ++ [s.boot.modeByte]) ∧
      (s.stamp.epoch ≠ 0xFFFFFFFF → u.stamp.holder = 1 ∧ u.stamp.epoch = s.stamp.epoch + 1)) ∧
    (s.boot.stage = 3 → s.rind.coolantLow = false → ∃ u, exec (.firmwareReady phases) s = .next u ∧ u.boot.stage = 4 ∧
      u.pads.elsfp = false) ∧
    (s.boot.stage = 3 → exec .bootTimeout s = .next (bootFails s 11)) ∧
    ((bootFails s 11).boot.stage = 11 ∧ (bootFails s 11).stamp.holder = 0 ∧ (bootFails s 11).stamp.mpA.held = true ∧
      (bootFails s 11).stamp.mpB.held = true)

/-- The debug port (R562, R563): a token that is not valid changes nothing but its count, and the eighth bars further ones; a valid
one opens the port and zeroises the keys of every link. The seven requests of attestation are answered while Assay firmware runs, in
their order, and enter the transcript (R559); a challenge is refused while the debug port is open (R564). The forms of the messages
are those of DSP0274 (log 30). The SMBus registers: each read returns its register, the latch and the alert enable take a write with
a good packet error code and ignore one without, and the nonce is Assay firmware's (R562, R596, R597). The alert response lets go of
ALERT_N, a bus time-out resets the port (R577, R598), and in M2 an address match acknowledges, stretches the clock and wakes the
module (R532). -/
def Obligations.AssayServesTheSmbusAndDebugPorts : Prop :=
  (∀ (s : State) (token : List Byte), assayRuns s = true → s.rind.debugOpen = false → s.assay.unlockBarred = false →
     exec (.debugUnlock token) s = .next
       (if tokenValid s token then openDebug s
        else { s with assay := { s.assay with debugRefused := satInc 32 s.assay.debugRefused,
                                              unlockBarred := decide (satInc 32 s.assay.debugRefused ≥ 8) } }) ∧
     (openDebug s).rind.debugOpen = true ∧ (openDebug s).boot.agreement = 0 ∧
     ∀ p, p < Config.nPorts → (getPort (openDebug s) p).keyCur = LinkKey.reset ∧ (getPort (openDebug s) p).keyNext = none) ∧
  (∀ (s : State) (q : List Byte), Answers s → assayRuns s = true →
     (numAt q 1 1 = 0x84 → 4 ≤ q.length → exec (.spdmGetVersion q) s = .next (spdmSend { s with
       spdm := { version := true, capabilities := false, algorithms := false, transcript := [] } } q
       [0x10, 0x04, 0, 0, 0, 1, 0x00, 0x12])) ∧
     (numAt q 1 1 = 0xE1 → 4 ≤ q.length → s.spdm.version = true → exec (.spdmGetCapabilities q) s = .next (spdmSend { s with
       freeCtr := s.freeCtr + 1, spdm := { s.spdm with capabilities := true } } q (spdmHead 0x61 0 0 ++ zeros 1 ++
         leBytes 1 (Config.freeNat s.freeCtr) ++ zeros 2 ++ leBytes 4 0x16 ++ leBytes 8 (Config.freeNat s.freeCtr / 256)))) ∧
     (numAt q 1 1 = 0xE3 → 4 ≤ q.length → s.spdm.capabilities = true → exec (.spdmNegotiateAlgorithms q) s =
       .next (spdmSend { s with spdm := { s.spdm with algorithms := true } } q (spdmHead 0x63 0 0 ++ leBytes 2 36 ++ leBytes 1 1 ++
         zeros 1 ++ leBytes 4 0x4 ++ leBytes 4 0x80 ++ leBytes 4 0x2 ++ zeros 16))) ∧
     (numAt q 1 1 = 0x81 → 4 ≤ q.length → s.spdm.algorithms = true → exec (.spdmGetDigests q) s =
       .next (spdmSend s q (spdmHead 0x01 0 1 ++ leBytes 48 (Config.sha384 (Config.certChain s.boot.cdiA s.boot.cdiM)).toNat))) ∧
     (∀ c, c = Config.certChain s.boot.cdiA s.boot.cdiM → numAt q 1 1 = 0x82 → 8 ≤ q.length → s.spdm.algorithms = true →
       numAt q 2 1 % 16 = 0 → exec (.spdmGetCertificate q) s = .next
         (if numAt q 4 2 < c.length then spdmSend s q (spdmHead 0x02 0 0 ++
            leBytes 2 ((c.drop (numAt q 4 2)).take (numAt q 6 2)).length ++
            leBytes 2 (c.length - numAt q 4 2 - ((c.drop (numAt q 4 2)).take (numAt q 6 2)).length) ++
            (c.drop (numAt q 4 2)).take (numAt q 6 2))
          else spdmFail s 0x01)) ∧
     (numAt q 1 1 = 0x83 → 36 ≤ q.length → s.spdm.algorithms = true →
       (s.rind.debugOpen = true → exec (.spdmChallenge q) s = .next (spdmFail s 0x05)) ∧
       (s.rind.debugOpen = false → ∃ body, exec (.spdmChallenge q) s =
         .next (spdmSend { s with freeCtr := s.freeCtr + 1 } q (spdmSign { s with freeCtr := s.freeCtr + 1 } q body)))) ∧
     (numAt q 1 1 = 0xE0 → 4 ≤ q.length → s.spdm.algorithms = true → numAt q 2 1 % 2 = 0 → numAt q 3 1 = 0 →
       exec (.spdmGetMeasurements q) s = .next (spdmSend { s with freeCtr := s.freeCtr + 1 } q (spdmHead 0x60 4 0 ++ leBytes 1 0 ++
         leBytes 3 0 ++ leBytes 32 (Config.freeNat s.freeCtr) ++ zeros 2)))) ∧
  (∀ (s : State) (v : Byte) (e : Half) (adr : BitVec 7),
     (Answers s →
       exec .smbIdentRead s = .next (smbReply s (leBytes 8 s.fuses.serial.toNat ++ leBytes 2 0x1664 ++ leBytes 1 s.fuses.bin ++
         leBytes 1 s.fuses.siliconRev)) ∧
       exec .smbStateRead s = .next (smbReply s (leBytes 1 (smbState s))) ∧
       exec .smbLatchRead s = .next (smbReply s (leBytes 1 (smbLatch s.rind))) ∧
       (exec (.smbLatchWrite false v) s = .next (smbNack s)) ∧
       (exec (.smbLatchWrite true v) s = .next { s with
         rind := clearLatch s.rind v, smbus := { s.smbus with reply := [], acked := true } }) ∧
       exec .smbTempRead s = .next (smbReply s (smbTemps s)) ∧
       exec .smbPowerRead s = .next (smbReply s (leBytes 2 s.meter.avg100)) ∧
       exec .smbAlarmRead s = .next (smbReply s (leBytes 2 s.alarms.status.toNat)) ∧
       exec .smbAlertEnRead s = .next (smbReply s (leBytes 2 s.smbus.alertEn.toNat)) ∧
       exec (.smbAlertEnWrite true e) s = .next (refreshAlert (alertConds s) { s with
         smbus := { s.smbus with alertEn := e &&& 0x3FE, reply := [], acked := true } }) ∧
       exec (.smbAlertEnWrite false e) s = .next (smbNack s) ∧
       (assayRuns s = true → exec .smbNonceRead s = .next (smbReply { s with
         freeCtr := s.freeCtr + 1,
         assay := { s.assay with nonce := some (leBytes 32 (Config.freeNat s.freeCtr)) } } (leBytes 32 (Config.freeNat s.freeCtr)))) ∧
       (assayRuns s = false → exec .smbNonceRead s = .next (smbNack s)) ∧
       (alertN s = false → ∃ t, exec .smbusAlertResponse s = .next t ∧ t.smbus.alertReleased = true ∧ t.smbus.acked = true ∧
         t.smbus.reply = [BitVec.ofNat 8 (2 * (smbAddress s).toNat)] ∧ t.rind = s.rind ∧ t.alarms = s.alarms)) ∧
     (∀ q ans, (spdmSend s q ans).spdm.transcript = s.spdm.transcript ++ q ++ ans ∧ (spdmSend s q ans).smbus.mctp = ans) ∧
     exec .smbusTimeout s = .next { s with smbus := { s.smbus with reply := [], acked := false, sclHeld := false, mctp := [] } } ∧
     (s.m3 = false → 2 ≤ s.modulePd.st → adr = smbAddress s → exec (.smbusAddressMatch adr) s =
       .next (wakeEvent { s with smbus := { s.smbus with acked := true, sclHeld := true } } .module .smbus)) ∧
     (s.m3 = false → 2 ≤ s.modulePd.st → adr ≠ smbAddress s → exec (.smbusAddressMatch adr) s =
       .next { s with smbus := { s.smbus with acked := false } }))

end
end

