-- ==== Sys2Proof/Laws/Memory.lean ====
section
/-! SUPPORT. Memory keeps its canonical form, and a byte written reads back. -/

namespace Sys2Proof.Machine

/-- The canonical form, as a property of the list: addresses strictly rising, no zero byte listed. -/
theorem memRising_iff (m : List Host.Cell) :
    memRising m = true ↔ m.Pairwise (fun a b => a.1 < b.1) ∧ ∀ c ∈ m, c.2 ≠ 0 := by
  induction m with
  | nil => simp [memRising]
  | cons a t ih =>
    cases t with
    | nil => simp [memRising]
    | cons b t =>
      simp only [memRising, Bool.and_eq_true, bne_iff_ne, ne_eq, decide_eq_true_eq, ih, List.pairwise_cons,
        List.forall_mem_cons]
      constructor
      · rintro ⟨⟨h1, h2⟩, ⟨h3, h4⟩, h5, h6⟩
        exact ⟨⟨⟨h2, fun c hc => Nat.lt_trans h2 (h3 c hc)⟩, h3, h4⟩, h1, h5, h6⟩
      · rintro ⟨⟨⟨h2, -⟩, h3, h4⟩, h1, h5, h6⟩
        exact ⟨⟨h1, h2⟩, ⟨h3, h4⟩, h5, h6⟩

theorem wf_iff (m : List Host.Cell) :
    Memory.wf m = true ↔ m.Pairwise (fun a b => a.1 < b.1) ∧ ∀ c ∈ m, c.2 ≠ 0 := memRising_iff m

theorem wf_nil : Memory.wf [] = true := rfl

theorem wf_filter {m : List Host.Cell} (p : Host.Cell → Bool) (h : Memory.wf m = true) :
    Memory.wf (m.filter p) = true := by
  rw [wf_iff] at h ⊢
  exact ⟨h.1.sublist List.filter_sublist, fun c hc => h.2 c (List.mem_filter.mp hc).1⟩

/-- Every cell of a byte string lies within it and holds a byte other than zero. -/
theorem mem_cellsOf {bs : List Byte} : ∀ {a : Nat} {c : Host.Cell}, c ∈ cellsOf a bs →
    a ≤ c.1 ∧ c.1 < a + bs.length ∧ c.2 ≠ 0 := by
  induction bs with
  | nil => simp [cellsOf]
  | cons b bs ih =>
    intro a c hc
    simp only [cellsOf] at hc
    split at hc
    · obtain ⟨h1, h2, h3⟩ := ih hc; exact ⟨by omega, by simp only [List.length_cons]; omega, h3⟩
    · rcases List.mem_cons.mp hc with rfl | hc
      · simpa using ‹b ≠ 0›
      · obtain ⟨h1, h2, h3⟩ := ih hc; exact ⟨by omega, by simp only [List.length_cons]; omega, h3⟩

theorem cellsOf_pairwise (bs : List Byte) : ∀ a, (cellsOf a bs).Pairwise (fun a b => a.1 < b.1) := by
  induction bs with
  | nil => simp [cellsOf]
  | cons b bs ih =>
    intro a
    simp only [cellsOf]
    split
    · exact ih _
    · exact List.pairwise_cons.mpr ⟨fun c hc => by have := (mem_cellsOf hc).1; simp only; omega, ih _⟩

theorem wf_memWrite {m : List Host.Cell} (a : Nat) (bs : List Byte) (h : Memory.wf m = true) :
    Memory.wf (memWrite m a bs) = true := by
  rw [wf_iff] at h ⊢
  have lo : ∀ c ∈ m.filter (fun c => c.1 < a), c.1 < a := fun c hc => by simpa using (List.mem_filter.mp hc).2
  have hi : ∀ c ∈ m.filter (fun c => a + bs.length ≤ c.1), a + bs.length ≤ c.1 :=
    fun c hc => by simpa using (List.mem_filter.mp hc).2
  refine ⟨?_, ?_⟩
  · simp only [memWrite, List.pairwise_append, List.mem_append]
    refine ⟨⟨h.1.sublist List.filter_sublist, cellsOf_pairwise _ _, ?_⟩, h.1.sublist List.filter_sublist, ?_⟩
    · intro x hx y hy; have := lo x hx; have := mem_cellsOf hy; omega
    · rintro x (hx | hx) y hy
      · have := lo x hx; have := hi y hy; omega
      · have := mem_cellsOf hx; have := hi y hy; omega
  · intro c hc
    simp only [memWrite, List.mem_append] at hc
    rcases hc with (hc | hc) | hc
    · exact h.2 c (List.mem_filter.mp hc).1
    · exact (mem_cellsOf hc).2.2
    · exact h.2 c (List.mem_filter.mp hc).1

end Sys2Proof.Machine
end

