-- ==== Sys2Proof/Laws/Units.lean ====
section
/-! SUPPORT. What the units of the cores leave alone: a property of the state that reads neither what they write nor anything of
memory but its form is kept by each of their operations. -/

set_option linter.unusedTactic false
set_option linter.unreachableTactic false
set_option linter.unusedSectionVars false

namespace Sys2Proof.Machine

/-- A property that the units' writes keep. -/
structure UnitClosed (P : State → Prop) : Prop where
  upd : ∀ {s t : State}, P s → unitCtl t = unitCtl s → (Memory.wf s.mem = true → Memory.wf t.mem = true) → P t

variable {P : State → Prop}

theorem foldl_has {α : Type} {f : State → α → State} {l : List α} {s : State} (hf : ∀ s x, P s → P (f s x)) (h : P s) :
    P (l.foldl f s) := by
  induction l generalizing s with
  | nil => exact h
  | cons a t ih => exact ih (hf s a h)

theorem ite_has {c : Prop} [Decidable c] {s t : State} (h : P s) (k : P t) : P (if c then s else t) := by
  split
  · exact h
  · exact k

theorem fst_of {α : Type} {p : State × α} {s : State} {x : α} (e : p = (s, x)) (h : P p.1) : P s := by
  rw [e] at h; exact h

theorem snd_of {α : Type} {p : α × State} {s : State} {x : α} (e : p = (x, s)) (h : P p.2) : P s := by
  rw [e] at h; exact h

/-- The property holds of the state that a result of type `Mid` carries. -/
def Mid.Has (P : State → Prop) : Mid → Prop
  | .ok s _ => P s
  | .wait s _ _ => P s
  | .fault s _ _ => P s

theorem Mid.ok_has {s : State} {a} (h : P s) : Mid.Has P (.ok s a) := h
theorem Mid.of_ok {m : Mid} {s : State} {a} (e : m = .ok s a) (h : Mid.Has P m) : P s := by
  rw [e] at h; exact h
theorem Mid.wait_has {s : State} {a} {b} (h : P s) : Mid.Has P (.wait s a b) := h
theorem Mid.of_wait {m : Mid} {s : State} {a} {b} (e : m = .wait s a b) (h : Mid.Has P m) : P s := by
  rw [e] at h; exact h
theorem Mid.fault_has {s : State} {a} {b} (h : P s) : Mid.Has P (.fault s a b) := h
theorem Mid.of_fault {m : Mid} {s : State} {a} {b} (e : m = .fault s a b) (h : Mid.Has P m) : P s := by
  rw [e] at h; exact h

/-- The property holds of the state that a result of type `Part` carries. -/
def Part.Has {α : Type} (P : State → Prop) : Part α → Prop
  | .ok s _ => P s
  | .wait s _ _ => P s
  | .fault s _ => P s

theorem Part.ok_has {α : Type} {s : State} {a} (h : P s) : Part.Has P (.ok s a : Part α) := h
theorem Part.of_ok {α : Type} {m : Part α} {s : State} {a} (e : m = .ok s a) (h : Part.Has P m) : P s := by
  rw [e] at h; exact h
theorem Part.wait_has {α : Type} {s : State} {a} {b} (h : P s) : Part.Has P (.wait s a b : Part α) := h
theorem Part.of_wait {α : Type} {m : Part α} {s : State} {a} {b} (e : m = .wait s a b) (h : Part.Has P m) : P s := by
  rw [e] at h; exact h
theorem Part.fault_has {α : Type} {s : State} {a} (h : P s) : Part.Has P (.fault s a : Part α) := h
theorem Part.of_fault {α : Type} {m : Part α} {s : State} {a} (e : m = .fault s a) (h : Part.Has P m) : P s := by
  rw [e] at h; exact h

/-- The property holds of the state that a result of type `Acc` carries. -/
def Acc.Has (P : State → Prop) : Acc → Prop
  | .ok s _ => P s
  | .fault s _ => P s
  | _ => True

theorem Acc.ok_has {s : State} {a} (h : P s) : Acc.Has P (.ok s a) := h
theorem Acc.of_ok {m : Acc} {s : State} {a} (e : m = .ok s a) (h : Acc.Has P m) : P s := by
  rw [e] at h; exact h
theorem Acc.fault_has {s : State} {a} (h : P s) : Acc.Has P (.fault s a) := h
theorem Acc.of_fault {m : Acc} {s : State} {a} (e : m = .fault s a) (h : Acc.Has P m) : P s := by
  rw [e] at h; exact h

/-- The property holds of the state that a result of type `BlockRead` carries. -/
def BlockRead.Has (P : State → Prop) : BlockRead → Prop
  | .ok s _ _ _ => P s
  | .wait s _ _ => P s
  | .fault s _ => P s

theorem BlockRead.ok_has {s : State} {a} {b} {c} (h : P s) : BlockRead.Has P (.ok s a b c) := h
theorem BlockRead.of_ok {m : BlockRead} {s : State} {a} {b} {c} (e : m = .ok s a b c) (h : BlockRead.Has P m) : P s := by
  rw [e] at h; exact h
theorem BlockRead.wait_has {s : State} {a} {b} (h : P s) : BlockRead.Has P (.wait s a b) := h
theorem BlockRead.of_wait {m : BlockRead} {s : State} {a} {b} (e : m = .wait s a b) (h : BlockRead.Has P m) : P s := by
  rw [e] at h; exact h
theorem BlockRead.fault_has {s : State} {a} (h : P s) : BlockRead.Has P (.fault s a) := h
theorem BlockRead.of_fault {m : BlockRead} {s : State} {a} (e : m = .fault s a) (h : BlockRead.Has P m) : P s := by
  rw [e] at h; exact h

/-- The property holds of the state that a result of type `Got` carries. -/
def Got.Has (P : State → Prop) : Got → Prop
  | .ok s _ _ => P s
  | .wait s _ _ => P s
  | .fault s _ _ => P s

theorem Got.ok_has {s : State} {a} {b} (h : P s) : Got.Has P (.ok s a b) := h
theorem Got.of_ok {m : Got} {s : State} {a} {b} (e : m = .ok s a b) (h : Got.Has P m) : P s := by
  rw [e] at h; exact h
theorem Got.wait_has {s : State} {a} {b} (h : P s) : Got.Has P (.wait s a b) := h
theorem Got.of_wait {m : Got} {s : State} {a} {b} (e : m = .wait s a b) (h : Got.Has P m) : P s := by
  rw [e] at h; exact h
theorem Got.fault_has {s : State} {a} {b} (h : P s) : Got.Has P (.fault s a b) := h
theorem Got.of_fault {m : Got} {s : State} {a} {b} (e : m = .fault s a b) (h : Got.Has P m) : P s := by
  rw [e] at h; exact h

/-- The property holds of the state that a result of type `IdxGot` carries. -/
def IdxGot.Has (P : State → Prop) : IdxGot → Prop
  | .ok s _ _ => P s
  | .wait s _ _ => P s
  | .fault s _ _ => P s

theorem IdxGot.ok_has {s : State} {a} {b} (h : P s) : IdxGot.Has P (.ok s a b) := h
theorem IdxGot.of_ok {m : IdxGot} {s : State} {a} {b} (e : m = .ok s a b) (h : IdxGot.Has P m) : P s := by
  rw [e] at h; exact h
theorem IdxGot.wait_has {s : State} {a} {b} (h : P s) : IdxGot.Has P (.wait s a b) := h
theorem IdxGot.of_wait {m : IdxGot} {s : State} {a} {b} (e : m = .wait s a b) (h : IdxGot.Has P m) : P s := by
  rw [e] at h; exact h
theorem IdxGot.fault_has {s : State} {a} {b} (h : P s) : IdxGot.Has P (.fault s a b) := h
theorem IdxGot.of_fault {m : IdxGot} {s : State} {a} {b} (e : m = .fault s a b) (h : IdxGot.Has P m) : P s := by
  rw [e] at h; exact h

/-- The property holds of the state that a result of type `Fetched` carries. -/
def Fetched.Has (P : State → Prop) : Fetched → Prop
  | .ok s _ => P s
  | .fault s _ => P s
  | _ => True

theorem Fetched.ok_has {s : State} {a} (h : P s) : Fetched.Has P (.ok s a) := h
theorem Fetched.of_ok {m : Fetched} {s : State} {a} (e : m = .ok s a) (h : Fetched.Has P m) : P s := by
  rw [e] at h; exact h
theorem Fetched.fault_has {s : State} {a} (h : P s) : Fetched.Has P (.fault s a) := h
theorem Fetched.of_fault {m : Fetched} {s : State} {a} (e : m = .fault s a) (h : Fetched.Has P m) : P s := by
  rw [e] at h; exact h

/-- The property holds of the state that a result of type `Out` carries. -/
def Out.Has (P : State → Prop) : Out → Prop
  | .next s => P s
  | _ => True

theorem Out.next_has {s : State} (h : P s) : Out.Has P (.next s) := h
theorem Out.of_next {m : Out} {s : State} (e : m = .next s) (h : Out.Has P m) : P s := by
  rw [e] at h; exact h
theorem Acc.wait_has {w : Wait} : Acc.Has P (.wait w) := trivial
theorem Fetched.wait_has : Fetched.Has P .wait := trivial

theorem Out.fault_has {f : Fault} : Out.Has P (.fault f) := trivial
theorem Out.refused_has {f : Refusal} : Out.Has P (.refused f) := trivial

theorem onCore_has {k : Nat} {o : Out} (h : Out.Has P o) : Out.Has P (onCore k o) := by
  unfold onCore; split
  · exact h
  · trivial
theorem onDie_has {k : Nat} {o : Out} (h : Out.Has P o) : Out.Has P (onDie k o) := by
  unfold onDie; split
  · exact h
  · trivial
theorem onPort_has {k : Nat} {o : Out} (h : Out.Has P o) : Out.Has P (onPort k o) := by
  unfold onPort; split
  · exact h
  · trivial
theorem onStack_has {k : Nat} {o : Out} (h : Out.Has P o) : Out.Has P (onStack k o) := by
  unfold onStack; split
  · exact h
  · trivial
theorem onPd_has {k : Nat} {o : Out} (h : Out.Has P o) : Out.Has P (onPd k o) := by
  unfold onPd; split
  · exact h
  · trivial
theorem onCh_has {k : Nat} {o : Out} (h : Out.Has P o) : Out.Has P (onCh k o) := by
  unfold onCh; split
  · exact h
  · trivial

section
variable (hP : UnitClosed P)
include hP

/-! ## Single updates -/

theorem upd_freeCtr {s : State} {x0} (h : P s) : P { s with freeCtr := x0 } := hP.upd h rfl id
theorem upd_errOne {s : State} {x0} (h : P s) : P { s with errOne := x0 } := hP.upd h rfl id
theorem upd_scrubNext {s : State} {x0} (h : P s) : P { s with scrubNext := x0 } := hP.upd h rfl id
theorem upd_poisonLog {s : State} {x0} (h : P s) : P { s with poisonLog := x0 } := hP.upd h rfl id
theorem upd_rxTracks {s : State} {x0} (h : P s) : P { s with rxTracks := x0 } := hP.upd h rfl id
theorem upd_evq {s : State} {x0} (h : P s) : P { s with evq := x0 } := hP.upd h rfl id

/-! ## Ops -/

theorem setCore_has {s : State} {c : Nat} {x : Core} (h : P s) : P (setCore s c x) := hP.upd h rfl id

theorem modCore_has {s : State} {c : Nat} {f : Core → Core} (h : P s) : P (modCore s c f) := hP.upd h rfl id

theorem setDie_has {s : State} {c : Nat} {x : Die} (h : P s) : P (setDie s c x) := hP.upd h rfl id

theorem modDie_has {s : State} {c : Nat} {f : Die → Die} (h : P s) : P (modDie s c f) := hP.upd h rfl id

theorem setStack_has {s : State} {c : Nat} {x : Stack} (h : P s) : P (setStack s c x) := hP.upd h rfl id

theorem modStack_has {s : State} {c : Nat} {f : Stack → Stack} (h : P s) : P (modStack s c f) := hP.upd h rfl id

theorem setPort_has {s : State} {c : Nat} {x : Port} (h : P s) : P (setPort s c x) := hP.upd h rfl id

theorem modPort_has {s : State} {c : Nat} {f : Port → Port} (h : P s) : P (modPort s c f) := hP.upd h rfl id

theorem takeFree_has {s : State} (hs : P s) : P (takeFree s).2 := by
  unfold takeFree
  try dsimp only
  with_reducible repeat' first | assumption | exact trivial | apply ite_has | dsimp only | split | apply upd_freeCtr hP

theorem wrBytes_has {s : State} {a : Nat} {bs : List Byte} (h : P s) : P (wrBytes s a bs) :=
  hP.upd h rfl (wf_memWrite a bs)

theorem hostWrite_has {s : State} {a : Nat} {bs : List Byte} (hs : P s) : P (hostWrite s a bs) := by
  unfold hostWrite
  try dsimp only
  with_reducible repeat' first | assumption | exact trivial | apply wrBytes_has hP | apply ite_has | dsimp only | split

theorem applyHost_has {s : State} {ws : List HostWrite} (hs : P s) : P (applyHost s ws) := by
  unfold applyHost
  try dsimp only
  with_reducible repeat' first | assumption | exact trivial | apply hostWrite_has hP | apply foldl_has | intro _ _ _ | intro _ _ _ _ _ _ | intro _ _ | intro _ | apply ite_has | dsimp only | split

theorem setTag_has {s : State} {r : Nat} {f : Bool} (h : P s) : P (setTag s r f) := hP.upd h rfl id

theorem pushEvent_has {s : State} {c : Nat} {r : FaultRec} (h : P s) : P (pushEvent s c r) := hP.upd h rfl id

theorem modJob_has {s : State} {c : Nat} {u : CoreUnit} {idx : Nat} {f : Job → Job} (h : P s) : P (modJob s c u idx f) := hP.upd h rfl id

theorem trackRow_has {s : State} {k row : Nat} {code : Option Nat} (h : P s) : P (trackRow s k row code) := by
  unfold trackRow
  split
  · exact h
  · exact hP.upd h rfl id

theorem faultChain_has {n : Nat} : ∀ {l : List (Nat × CoreUnit × Nat × Bad)} {s : State}, P s → P (faultChain n l s) := by
  induction n with
  | zero => exact fun h => by unfold faultChain; exact h
  | succ n ih =>
    intro l s h
    cases l with
    | nil => unfold faultChain; exact h
    | cons a rest =>
      unfold faultChain
      dsimp only
      split
      · exact ih (modCore_has hP h)
      · exact ih (foldl_has (fun _ _ h => trackRow_has hP h) (setCore_has hP h))

theorem raiseFault_has {s : State} {c : Nat} {u : CoreUnit} {idx : Nat} {b : Bad} (hs : P s) : P (raiseFault s c u idx b) := by
  unfold raiseFault
  try dsimp only
  with_reducible repeat' first | assumption | exact trivial | apply faultChain_has hP | apply ite_has | dsimp only | split

theorem markRemote_has {s : State} {c m : Nat} (h : P s) : P (markRemote s c m) := by
  unfold markRemote
  dsimp only
  split
  · exact hP.upd h rfl id
  · exact h

theorem queueRec_has {s : State} {r : FaultRec} {place : Nat} {part : Nat} (hs : P s) : P (queueRec s r place part) := by
  unfold queueRec
  try dsimp only
  with_reducible repeat' first | assumption | exact trivial | apply ite_has | dsimp only | split | apply upd_evq hP

/-! ## Access -/

theorem logPoison_has {s : State} {words : List Nat} {part : Nat} (hs : P s) : P (logPoison s words part) := by
  unfold logPoison
  try dsimp only
  with_reducible repeat' first | assumption | exact trivial | intro _ _ _ _ _ _ | intro _ _ _ | intro _ _ | intro _ | apply ite_has | dsimp only | split | apply upd_poisonLog hP

theorem logWords_has {s : State} {row : Nat} {mask : Nat} (hs : P s) : P (logWords s row mask) := by
  unfold logWords
  try dsimp only
  with_reducible repeat' first | assumption | exact trivial | apply logPoison_has hP | apply foldl_has | intro _ _ _ | intro _ _ _ _ _ _ | intro _ _ | intro _ | apply ite_has | dsimp only | split

theorem weightPoisoned_has {s : State} {c : Nat} {store : Nat} {row : Nat} {mask : Nat} (hs : P s) : P (weightPoisoned s c store row mask) := by
  unfold weightPoisoned
  try dsimp only
  with_reducible repeat' first | assumption | exact trivial | apply logPoison_has hP | apply queueRec_has hP | intro _ _ _ _ _ _ | intro _ _ _ | intro _ _ | intro _ | apply ite_has | dsimp only | split

theorem markPoison_has {s : State} {row mask : Nat} (h : P s) : P (markPoison s row mask) :=
  foldl_has (fun _ _ h => hP.upd h rfl id) h

theorem noteErrors_has {s : State} {row many : Nat} (h : P s) : P (noteErrors s row many) := hP.upd h rfl id

theorem noteCorrected_has {s : State} {row : Nat} {ones : Nat} (hs : P s) : P (noteCorrected s row ones) := by
  unfold noteCorrected
  try dsimp only
  with_reducible repeat' first | assumption | exact trivial | apply modStack_has hP | apply foldl_has | intro _ _ _ | intro _ _ _ _ _ _ | intro _ _ | intro _ | apply ite_has | dsimp only | split

theorem checkWords_has {s : State} {row used : Nat} (h : P s) : P (checkWords s row used) := by
  unfold checkWords
  dsimp only
  split
  · with_reducible apply weightPoisoned_has hP
    with_reducible apply upd_scrubNext hP
    exact modCore_has hP (markPoison_has hP (noteErrors_has hP h))
  · exact logWords_has hP (noteCorrected_has hP (markPoison_has hP h))
  · exact markPoison_has hP h

theorem checkRead_has {s : State} {row : Nat} {used : Nat} (hs : P s) : P (checkRead s row used) := by
  unfold checkRead
  try dsimp only
  with_reducible repeat' first | assumption | exact trivial | apply checkWords_has hP | apply logWords_has hP | apply ite_has | dsimp only | split

theorem clearMarks_has {s : State} {row mask : Nat} (h : P s) : P (clearMarks s row mask) :=
  foldl_has (fun _ _ h => hP.upd h rfl id) h

theorem putPart_has {s : State} {row : Nat} {data : List Byte} {mask whole : Nat} (h : P s) : P (putPart s row data mask whole).1 := by
  unfold putPart
  dsimp only
  split
  · split
    · exact checkWords_has hP h
    · exact wrBytes_has hP (upd_errOne hP (checkWords_has hP h))
  · split
    · exact markPoison_has hP (noteCorrected_has hP h)
    · exact wrBytes_has hP (clearMarks_has hP (noteCorrected_has hP h))
  · exact wrBytes_has hP h

theorem putRow_has {s : State} {row : Nat} {data : List Byte} {mask : Nat} (hs : P s) : P (putRow s row data mask).1 := by
  unfold putRow
  try dsimp only
  with_reducible repeat' first | assumption | exact trivial | apply putPart_has hP | apply clearMarks_has hP | apply wrBytes_has hP | refine fst_of (by assumption) ?_ | apply ite_has | dsimp only | split

theorem putBits_has {s : State} {row : Nat} {data : List Byte} {bits : Nat} (hs : P s) : P (putBits s row data bits).1 := by
  unfold putBits
  try dsimp only
  with_reducible repeat' first | assumption | exact trivial | apply putRow_has hP | apply putPart_has hP | refine fst_of (by assumption) ?_ | intro _ _ _ _ _ _ | intro _ _ _ | intro _ _ | intro _ | apply ite_has | dsimp only | split

theorem readPhys_has {s : State} {w : Who} {row : Nat} {addr : Nat} {mode : RdMode} {used : Nat} (hs : P s) : Acc.Has P (readPhys s w row addr mode used) := by
  unfold readPhys
  try dsimp only
  with_reducible repeat' first | assumption | exact trivial | apply checkRead_has hP | apply setTag_has hP | apply Acc.ok_has | apply Acc.fault_has | exact Acc.wait_has | refine Acc.of_ok (by assumption) ?_ | refine Acc.of_fault (by assumption) ?_ | apply ite_has | dsimp only | split

theorem writePhys_has {s : State} {w : Who} {row : Nat} {addr : Nat} {mode : WrMode} {data : List Byte} {bits : Nat} {first : Bool} {last : Bool} (hs : P s) : Acc.Has P (writePhys s w row addr mode data bits first last) := by
  unfold writePhys
  try dsimp only
  with_reducible repeat' first | assumption | exact trivial | apply putBits_has hP | apply setTag_has hP | apply modCore_has hP | apply Acc.ok_has | apply Acc.fault_has | exact Acc.wait_has | refine Acc.of_ok (by assumption) ?_ | refine Acc.of_fault (by assumption) ?_ | refine fst_of (by assumption) ?_ | intro _ _ _ _ _ _ | intro _ _ _ | intro _ _ | intro _ | apply ite_has | dsimp only | split

theorem readLoc_has {s : State} {w : Who} {loc : Loc} {mode : RdMode} {used : Nat} (hs : P s) : Acc.Has P (readLoc s w loc mode used) := by
  unfold readLoc
  try dsimp only
  with_reducible repeat' first | assumption | exact trivial | apply readPhys_has hP | apply Acc.ok_has | apply Acc.fault_has | exact Acc.wait_has | refine Acc.of_ok (by assumption) ?_ | refine Acc.of_fault (by assumption) ?_ | apply ite_has | dsimp only | split

theorem writeLoc_has {s : State} {w : Who} {loc : Loc} {mode : WrMode} {data : List Byte} {bits : Nat} {first : Bool} {last : Bool} (hs : P s) : Acc.Has P (writeLoc s w loc mode data bits first last) := by
  unfold writeLoc
  try dsimp only
  with_reducible repeat' first | assumption | exact trivial | apply writePhys_has hP | apply Acc.ok_has | apply Acc.fault_has | exact Acc.wait_has | refine Acc.of_ok (by assumption) ?_ | refine Acc.of_fault (by assumption) ?_ | apply ite_has | dsimp only | split

theorem readBlock_has {s : State} {w : Who} {a : Nat} {n : Nat} (hs : P s) : Acc.Has P (readBlock s w a n) := by
  unfold readBlock
  try dsimp only
  with_reducible repeat' first | assumption | exact trivial | apply readLoc_has hP | apply Acc.ok_has | apply Acc.fault_has | exact Acc.wait_has | refine Acc.of_ok (by assumption) ?_ | refine Acc.of_fault (by assumption) ?_ | intro _ _ _ _ _ _ | intro _ _ _ | intro _ _ | intro _ | apply ite_has | dsimp only | split

/-! ## Transport -/

theorem queuePacket_has {s : State} {port : Nat} {p : Packet} (hs : P s) : P (queuePacket s port p) := by
  unfold queuePacket
  try dsimp only
  with_reducible repeat' first | assumption | exact trivial | apply modPort_has hP | intro _ _ _ _ _ _ | intro _ _ _ | intro _ _ | intro _ | apply ite_has | dsimp only | split

theorem putTrack_has {s : State} {k : Nat} {t : RxTrack} (hs : P s) : P (putTrack s k t) := by
  unfold putTrack
  try dsimp only
  with_reducible repeat' first | assumption | exact trivial | apply ite_has | dsimp only | split | apply upd_rxTracks hP

theorem sendAnswer_has {s : State} {k : Nat} {t : RxTrack} {p : Packet} (hs : P s) : P (sendAnswer s k t p) := by
  unfold sendAnswer
  dsimp only
  generalize (if rtValid (routeEntry s p.dest) = true then _ else _ : Option Nat) = o
  cases o with
  | none => exact putTrack_has hP hs
  | some port => exact queuePacket_has hP (upd_rxTracks hP hs)

theorem answerPacket_has {s : State} {port : Nat} {p : Packet} {op : Nat} {value : Nat} {rows : List (List Byte)} (hs : P s) : P (answerPacket s port p op value rows) := by
  unfold answerPacket
  try dsimp only
  with_reducible repeat' first | assumption | exact trivial | apply sendAnswer_has hP | apply ite_has | dsimp only | split

theorem sendUnreachable_has {s : State} {port : Nat} {p : Packet} (hs : P s) : P (sendUnreachable s port p) := by
  unfold sendUnreachable
  try dsimp only
  with_reducible repeat' first | assumption | exact trivial | apply answerPacket_has hP | apply ite_has | dsimp only | split

/-! ## Convert -/

theorem countCodes_has {s : State} {c : Nat} {unit : Nat} {entry : Nat} {tag : Nat} {drift : Bool} {cs : List Coded} (hs : P s) : P (countCodes s c unit entry tag drift cs) := by
  unfold countCodes
  try dsimp only
  with_reducible repeat' first | assumption | exact trivial | apply pushEvent_has hP | apply modCore_has hP | apply setCore_has hP | apply foldl_has | intro _ _ _ | intro _ _ _ _ _ _ | intro _ _ | intro _ | apply ite_has | dsimp only | split

/-! ## Press -/

theorem modStats_has {s : State} {c : Nat} {f : Stats → Stats} (hs : P s) : P (modStats s c f) := by
  unfold modStats
  try dsimp only
  with_reducible repeat' first | assumption | exact trivial | apply modCore_has hP | intro _ _ _ _ _ _ | intro _ _ _ | intro _ _ | intro _ | apply ite_has | dsimp only | split

theorem modRegs_has {s : State} {c : Nat} {f : PressRegs → PressRegs} (hs : P s) : P (modRegs s c f) := by
  unfold modRegs
  try dsimp only
  with_reducible repeat' first | assumption | exact trivial | apply modCore_has hP | intro _ _ _ _ _ _ | intro _ _ _ | intro _ _ | intro _ | apply ite_has | dsimp only | split

theorem pressRead_has {s : State} {w : Who} {j : Job} (hs : P s) : Mid.Has P (pressRead s w j) := by
  unfold pressRead
  try dsimp only
  with_reducible repeat' first | assumption | exact trivial | apply readBlock_has hP | apply Acc.ok_has | apply Acc.fault_has | apply Mid.ok_has | apply Mid.wait_has | apply Mid.fault_has | exact Acc.wait_has | refine Acc.of_ok (by assumption) ?_ | refine Acc.of_fault (by assumption) ?_ | refine Mid.of_ok (by assumption) ?_ | refine Mid.of_wait (by assumption) ?_ | refine Mid.of_fault (by assumption) ?_ | apply ite_has | dsimp only | split

theorem pressCheck_has {s : State} {w : Who} {j : Job} (hs : P s) : Mid.Has P (pressCheck s w j) := by
  unfold pressCheck
  try dsimp only
  with_reducible repeat' first | assumption | exact trivial | apply modStats_has hP | apply takeFree_has hP | apply modCore_has hP | apply Mid.ok_has | apply Mid.wait_has | apply Mid.fault_has | refine Mid.of_ok (by assumption) ?_ | refine Mid.of_wait (by assumption) ?_ | refine Mid.of_fault (by assumption) ?_ | refine snd_of (by assumption) ?_ | intro _ _ _ _ _ _ | intro _ _ _ | intro _ _ | intro _ | apply ite_has | dsimp only | split

theorem pressStart_has {s : State} {w : Who} {j : Job} (hs : P s) : Mid.Has P (pressStart s w j) := by
  unfold pressStart
  try dsimp only
  with_reducible repeat' first | assumption | exact trivial | apply pressCheck_has hP | apply pressRead_has hP | apply Mid.ok_has | apply Mid.wait_has | apply Mid.fault_has | refine Mid.of_ok (by assumption) ?_ | refine Mid.of_wait (by assumption) ?_ | refine Mid.of_fault (by assumption) ?_ | apply ite_has | dsimp only | split

theorem readScales_has {w : Who} {l : List (Nat × Nat × Bool)} : ∀ {s : State} {t : Tbl (List Byte)}, P s →
    Part.Has P (readScales w l s t) := by
  induction l with
  | nil => exact fun hs => hs
  | cons a rest ih =>
    intro s t hs
    unfold readScales
    with_reducible repeat' first | assumption | apply ih | apply readLoc_has hP | apply Part.ok_has | apply Part.wait_has | apply Part.fault_has | refine Acc.of_ok (by assumption) ?_ | refine Acc.of_fault (by assumption) ?_ | split

theorem pressScales_has {s : State} {w : Who} {j : Job} {q : Nat} {t : Nat} {must : Bool} (hs : P s) : Mid.Has P (pressScales s w j q t must) := by
  unfold pressScales
  try dsimp only
  with_reducible repeat' first | assumption | exact trivial | apply readScales_has hP | apply Mid.ok_has | apply Mid.wait_has | apply Mid.fault_has | apply Part.ok_has | apply Part.wait_has | apply Part.fault_has | refine Mid.of_ok (by assumption) ?_ | refine Mid.of_wait (by assumption) ?_ | refine Mid.of_fault (by assumption) ?_ | refine Part.of_ok (by assumption) ?_ | refine Part.of_wait (by assumption) ?_ | refine Part.of_fault (by assumption) ?_ | intro _ _ _ _ _ _ | intro _ _ _ | intro _ _ | intro _ | apply ite_has | dsimp only | split

theorem pressTile_has {s : State} {w : Who} {j : Job} {t : Nat} (hs : P s) : Mid.Has P (pressTile s w j t) := by
  unfold pressTile
  try dsimp only
  with_reducible repeat' first | assumption | exact trivial | apply pressScales_has hP | apply modRegs_has hP | apply Mid.ok_has | apply Mid.wait_has | apply Mid.fault_has | refine Mid.of_ok (by assumption) ?_ | refine Mid.of_wait (by assumption) ?_ | refine Mid.of_fault (by assumption) ?_ | intro _ _ _ _ _ _ | intro _ _ _ | intro _ _ | intro _ | apply ite_has | dsimp only | split

theorem landRow_has {s : State} {c : Nat} {d : Nat} {l : PressLoad} {dest : LoadDest} {data : List Byte} (hs : P s) : P (landRow s c d l dest data).1 := by
  unfold landRow
  try dsimp only
  with_reducible repeat' first | assumption | exact trivial | apply modRegs_has hP | apply ite_has | dsimp only | split

theorem loadRows_has {w : Who} {d : Nat} {rows : List LoadRow} : ∀ {s : State} {l : PressLoad}, P s →
    Part.Has P (loadRows w d rows s l) := by
  induction rows with
  | nil => exact fun hs => hs
  | cons a rest ih =>
    intro s l hs
    unfold loadRows
    dsimp only
    with_reducible repeat' first | assumption | apply ih | apply landRow_has hP | apply readLoc_has hP | apply Part.ok_has | apply Part.wait_has | apply Part.fault_has | refine Acc.of_ok (by assumption) ?_ | refine Acc.of_fault (by assumption) ?_ | split

theorem readBlockRow_has {s : State} {w : Who} {store : Nat} {base : Nat} {ext : Nat} {b : Nat} {k : Nat} {cur : RunCursor} (hs : P s) : BlockRead.Has P (readBlockRow s w store base ext b k cur) := by
  unfold readBlockRow
  try dsimp only
  with_reducible repeat' first | assumption | exact trivial | apply readLoc_has hP | apply Acc.ok_has | apply Acc.fault_has | apply BlockRead.ok_has | apply BlockRead.wait_has | apply BlockRead.fault_has | exact Acc.wait_has | refine Acc.of_ok (by assumption) ?_ | refine Acc.of_fault (by assumption) ?_ | refine BlockRead.of_ok (by assumption) ?_ | refine BlockRead.of_wait (by assumption) ?_ | refine BlockRead.of_fault (by assumption) ?_ | apply ite_has | dsimp only | split

theorem runLoad_has {s : State} {w : Who} {d : Nat} {l : PressLoad} (hs : P s) : Part.Has P (runLoad s w d l) := by
  unfold runLoad
  try dsimp only
  with_reducible repeat' first | assumption | exact trivial | apply readBlockRow_has hP | apply modRegs_has hP | apply BlockRead.ok_has | apply BlockRead.wait_has | apply BlockRead.fault_has | apply Part.ok_has | apply Part.wait_has | apply Part.fault_has | refine BlockRead.of_ok (by assumption) ?_ | refine BlockRead.of_wait (by assumption) ?_ | refine BlockRead.of_fault (by assumption) ?_ | refine Part.of_ok (by assumption) ?_ | refine Part.of_wait (by assumption) ?_ | refine Part.of_fault (by assumption) ?_ | intro _ _ _ _ _ _ | intro _ _ _ | intro _ _ | intro _ | apply ite_has | dsimp only | split

theorem refill_has {w : Who} {store base ext b k n : Nat} : ∀ {s : State} {cur : RunCursor}, P s →
    BlockRead.Has P (refill w store base ext b k n s cur) := by
  induction n with
  | zero => exact fun hs => hs
  | succ n ih =>
    intro s cur hs
    unfold refill
    with_reducible repeat' first | assumption | apply ih | apply readBlockRow_has hP | apply BlockRead.ok_has | apply BlockRead.wait_has | apply BlockRead.fault_has | refine BlockRead.of_ok (by assumption) ?_ | refine BlockRead.of_wait (by assumption) ?_ | refine BlockRead.of_fault (by assumption) ?_ | split

theorem mergeRun_has {w : Who} {d t n : Nat} : ∀ {s : State} {l : PressLoad}, P s → Part.Has P (mergeRun w d t n s l) := by
  induction n with
  | zero => exact fun hs => hs
  | succ n ih =>
    intro s l hs
    unfold mergeRun
    with_reducible repeat' first | assumption | apply ih | apply refill_has hP | apply Part.ok_has | apply Part.wait_has | apply Part.fault_has | refine BlockRead.of_ok (by assumption) ?_ | refine BlockRead.of_wait (by assumption) ?_ | refine BlockRead.of_fault (by assumption) ?_ | split

theorem mergeLoad_has {s : State} {w : Who} {d : Nat} {l : PressLoad} (hs : P s) : Part.Has P (mergeLoad s w d l) := by
  unfold mergeLoad
  try dsimp only
  with_reducible repeat' first | assumption | exact trivial | apply mergeRun_has hP | apply modRegs_has hP | apply Part.ok_has | apply Part.wait_has | apply Part.fault_has | refine Part.of_ok (by assumption) ?_ | refine Part.of_wait (by assumption) ?_ | refine Part.of_fault (by assumption) ?_ | intro _ _ _ _ _ _ | intro _ _ _ | intro _ _ | intro _ | apply ite_has | dsimp only | split

theorem loadUnit_has {s : State} {w : Who} {d : Nat} {l : PressLoad} (hs : P s) : Part.Has P (loadUnit s w d l) := by
  unfold loadUnit
  split
  · exact hs
  have h : Part.Has P (if l.begun = true then Part.ok s l else match ldSparse d with
      | 2 => runLoad s w d l
      | 3 => mergeLoad s w d l
      | _ => .ok (modRegs s w.core (clearIdle false)) (plainLoad d l)) := by
    split
    · exact Part.ok_has hs
    · split
      · exact runLoad_has hP hs
      · exact mergeLoad_has hP hs
      · exact Part.ok_has (modRegs_has hP hs)
  revert h
  generalize (if l.begun = true then Part.ok s l else _ : Part PressLoad) = m
  intro h
  split
  · exact loadRows_has hP (Part.of_ok rfl h)
  · exact h

theorem pressLoad_has {s : State} {w : Who} {j : Job} {u : Nat} (hs : P s) : Mid.Has P (pressLoad s w j u) := by
  unfold pressLoad
  try dsimp only
  with_reducible repeat' first | assumption | exact trivial | apply loadUnit_has hP | apply modRegs_has hP | apply Mid.ok_has | apply Mid.wait_has | apply Mid.fault_has | apply Part.ok_has | apply Part.wait_has | apply Part.fault_has | refine Mid.of_ok (by assumption) ?_ | refine Mid.of_wait (by assumption) ?_ | refine Mid.of_fault (by assumption) ?_ | refine Part.of_ok (by assumption) ?_ | refine Part.of_wait (by assumption) ?_ | refine Part.of_fault (by assumption) ?_ | intro _ _ _ _ _ _ | intro _ _ _ | intro _ _ | intro _ | apply ite_has | dsimp only | split

theorem loadAhead_has {s : State} {w : Who} {j : Job} (hs : P s) : Mid.Has P (loadAhead s w j) := by
  unfold loadAhead
  try dsimp only
  with_reducible repeat' first | assumption | exact trivial | apply loadUnit_has hP | apply Mid.ok_has | apply Mid.wait_has | apply Mid.fault_has | apply Part.ok_has | apply Part.wait_has | apply Part.fault_has | refine Mid.of_ok (by assumption) ?_ | refine Mid.of_wait (by assumption) ?_ | refine Mid.of_fault (by assumption) ?_ | refine Part.of_ok (by assumption) ?_ | refine Part.of_wait (by assumption) ?_ | refine Part.of_fault (by assumption) ?_ | apply ite_has | dsimp only | split

theorem readKeep_has {w : Who} {l : List (Nat × Nat × Nat × Nat)} : ∀ {s : State} {j : Job}, P s →
    Mid.Has P (readKeep w l s j) := by
  induction l with
  | nil => exact fun hs => hs
  | cons a rest ih =>
    intro s j hs
    unfold readKeep
    with_reducible repeat' first | assumption | apply ih | apply readLoc_has hP | apply Mid.ok_has | apply Mid.wait_has | apply Mid.fault_has | refine Acc.of_ok (by assumption) ?_ | refine Acc.of_fault (by assumption) ?_ | split

theorem reckAll_has {s : State} {c : Nat} {add : Nat → Nat → Int} (hs : P s) : P (reckAll s c add) := by
  unfold reckAll
  try dsimp only
  with_reducible repeat' first | assumption | exact trivial | apply modRegs_has hP | apply modStats_has hP | intro _ _ _ _ _ _ | intro _ _ _ | intro _ _ | intro _ | apply ite_has | dsimp only | split

theorem onePass_has {s : State} {c : Nat} {j : Job} {p : Nat × Nat} (hs : P s) : P (onePass s c j p) := by
  unfold onePass
  extract_lets b skim base s1
  have h1 : P s1 := ite_has (upd_freeCtr hP hs) hs
  clear_value s1
  split
  · exact reckAll_has hP hs
  · exact modRegs_has hP h1

theorem pressDecide_has {s : State} {c : Nat} {d : Nat} {pw : PressWork} (hs : P s) : P (pressDecide s c d pw).1 := by
  unfold pressDecide
  try dsimp only
  with_reducible repeat' first | assumption | exact trivial | apply modStats_has hP | intro _ _ _ _ _ _ | intro _ _ _ | intro _ _ | intro _ | apply ite_has | dsimp only | split

theorem runPasses_has {w : Who} {l : List (Nat × Nat)} : ∀ {s : State} {j : Job}, P s → Mid.Has P (runPasses w l s j) := by
  induction l with
  | nil => exact fun hs => hs
  | cons a rest ih =>
    intro s j hs
    unfold runPasses
    dsimp only
    with_reducible repeat' first | assumption | apply ih | apply onePass_has hP | apply readKeep_has hP | apply pressDecide_has hP | apply Mid.ok_has | apply Mid.wait_has | apply Mid.fault_has | refine Mid.of_ok (by assumption) ?_ | refine Mid.of_wait (by assumption) ?_ | refine Mid.of_fault (by assumption) ?_ | split

theorem endSlice_has {s : State} {c : Nat} {d : Nat} (hs : P s) : P (endSlice s c d) := by
  unfold endSlice
  try dsimp only
  with_reducible repeat' first | assumption | exact trivial | apply reckAll_has hP | apply modRegs_has hP | intro _ _ _ _ _ _ | intro _ _ _ | intro _ _ | intro _ | apply ite_has | dsimp only | split

theorem streamSlice_has {s : State} {c : Nat} {j : Job} (hs : P s) : P (streamSlice s c j) := by
  unfold streamSlice
  try dsimp only
  with_reducible repeat' first | assumption | exact trivial | apply modCore_has hP | intro _ _ _ _ _ _ | intro _ _ _ | intro _ _ | intro _ | apply ite_has | dsimp only | split

theorem pressSlice_has {s : State} {w : Who} {j : Job} (hs : P s) : Mid.Has P (pressSlice s w j) := by
  unfold pressSlice
  try dsimp only
  with_reducible repeat' first | assumption | exact trivial | apply streamSlice_has hP | apply endSlice_has hP | apply runPasses_has hP | apply loadAhead_has hP | apply Mid.ok_has | apply Mid.wait_has | apply Mid.fault_has | refine Mid.of_ok (by assumption) ?_ | refine Mid.of_wait (by assumption) ?_ | refine Mid.of_fault (by assumption) ?_ | apply ite_has | dsimp only | split

theorem pressRail_has {s : State} {j : Job} {k : Nat} (hs : P s) : Mid.Has P (pressRail s j k) := by
  unfold pressRail
  try dsimp only
  with_reducible repeat' first | assumption | exact trivial | apply takeFree_has hP | apply Mid.ok_has | apply Mid.wait_has | apply Mid.fault_has | refine Mid.of_ok (by assumption) ?_ | refine Mid.of_wait (by assumption) ?_ | refine Mid.of_fault (by assumption) ?_ | refine snd_of (by assumption) ?_ | apply ite_has | dsimp only | split

theorem pressPromote_has {s : State} {w : Who} {j : Job} {g : Nat} (hs : P s) : Mid.Has P (pressPromote s w j g) := by
  unfold pressPromote
  try dsimp only
  with_reducible repeat' first | assumption | exact trivial | apply pressScales_has hP | apply modRegs_has hP | apply Mid.ok_has | apply Mid.wait_has | apply Mid.fault_has | refine Mid.of_ok (by assumption) ?_ | refine Mid.of_wait (by assumption) ?_ | refine Mid.of_fault (by assumption) ?_ | intro _ _ _ _ _ _ | intro _ _ _ | intro _ _ | intro _ | apply ite_has | dsimp only | split

theorem eventStall_has {s : State} {w : Who} {j : Job} {k : State → Mid} (hs : P s) (hk : ∀ s, P s → Mid.Has P (k s)) :
    Mid.Has P (eventStall s w j k) := by
  unfold eventStall
  dsimp only
  split
  · exact Mid.wait_has hs
  · exact hk s hs

theorem spillEvent_has {s : State} {w : Who} {j : Job} (hs : P s) : Mid.Has P (spillEvent s w j) := by
  unfold spillEvent
  try dsimp only
  with_reducible repeat' first | assumption | exact trivial | apply eventStall_has hP | apply modRegs_has hP | apply Mid.ok_has | apply Mid.wait_has | apply Mid.fault_has | refine Mid.of_ok (by assumption) ?_ | refine Mid.of_wait (by assumption) ?_ | refine Mid.of_fault (by assumption) ?_ | intro _ _ _ _ _ _ | intro _ _ _ | intro _ _ | intro _ | apply ite_has | dsimp only | split

theorem spillRow_has {s : State} {w : Who} {j : Job} {r : Nat} (hs : P s) : Mid.Has P (spillRow s w j r) := by
  unfold spillRow
  try dsimp only
  with_reducible repeat' first | assumption | exact trivial | apply putRow_has hP | apply modCore_has hP | apply Mid.ok_has | apply Mid.wait_has | apply Mid.fault_has | refine Mid.of_ok (by assumption) ?_ | refine Mid.of_wait (by assumption) ?_ | refine Mid.of_fault (by assumption) ?_ | refine fst_of (by assumption) ?_ | intro _ _ _ _ _ _ | intro _ _ _ | intro _ _ | intro _ | apply ite_has | dsimp only | split

theorem pressSpill_has {s : State} {w : Who} {j : Job} {k : Nat} (hs : P s) : Mid.Has P (pressSpill s w j k) := by
  unfold pressSpill
  try dsimp only
  with_reducible repeat' first | assumption | exact trivial | apply spillRow_has hP | apply spillEvent_has hP | apply Mid.ok_has | apply Mid.wait_has | apply Mid.fault_has | refine Mid.of_ok (by assumption) ?_ | refine Mid.of_wait (by assumption) ?_ | refine Mid.of_fault (by assumption) ?_ | apply ite_has | dsimp only | split

theorem pressOutRead_has {s : State} {w : Who} {j : Job} {r : Nat} (hs : P s) : Mid.Has P (pressOutRead s w j r) := by
  unfold pressOutRead
  try dsimp only
  with_reducible repeat' first | assumption | exact trivial | apply eventStall_has hP | apply readLoc_has hP | apply modCore_has hP | apply Mid.ok_has | apply Mid.wait_has | apply Mid.fault_has | apply Acc.ok_has | apply Acc.fault_has | exact Acc.wait_has | refine Mid.of_ok (by assumption) ?_ | refine Mid.of_wait (by assumption) ?_ | refine Mid.of_fault (by assumption) ?_ | refine Acc.of_ok (by assumption) ?_ | refine Acc.of_fault (by assumption) ?_ | intro _ _ _ _ _ _ | intro _ _ _ | intro _ _ | intro _ | apply ite_has | dsimp only | split

theorem pressRelease_has {s : State} {w : Who} {j : Job} {t : Nat} (hs : P s) : Mid.Has P (pressRelease s w j t) := by
  unfold pressRelease
  try dsimp only
  with_reducible repeat' first | assumption | exact trivial | apply setTag_has hP | apply modCore_has hP | apply Mid.ok_has | apply Mid.wait_has | apply Mid.fault_has | refine Mid.of_ok (by assumption) ?_ | refine Mid.of_wait (by assumption) ?_ | refine Mid.of_fault (by assumption) ?_ | apply foldl_has | intro _ _ _ | intro _ _ _ _ _ _ | intro _ _ | intro _ | apply ite_has | dsimp only | split

theorem pressOut_has {s : State} {w : Who} {j : Job} {t : Nat} (hs : P s) : Mid.Has P (pressOut s w j t) := by
  unfold pressOut
  try dsimp only
  with_reducible repeat' first | assumption | exact trivial | apply modStats_has hP | apply countCodes_has hP | apply Mid.ok_has | apply Mid.wait_has | apply Mid.fault_has | refine Mid.of_ok (by assumption) ?_ | refine Mid.of_wait (by assumption) ?_ | refine Mid.of_fault (by assumption) ?_ | intro _ _ _ _ _ _ | intro _ _ _ | intro _ _ | intro _ | apply ite_has | dsimp only | split

theorem pressEnd_has {s : State} {w : Who} {j : Job} (hs : P s) : Mid.Has P (pressEnd s w j) := by
  unfold pressEnd
  try dsimp only
  with_reducible repeat' first | assumption | exact trivial | apply pushEvent_has hP | apply Mid.ok_has | apply Mid.wait_has | apply Mid.fault_has | refine Mid.of_ok (by assumption) ?_ | refine Mid.of_wait (by assumption) ?_ | refine Mid.of_fault (by assumption) ?_ | intro _ _ _ _ _ _ | intro _ _ _ | intro _ _ | intro _ | apply ite_has | dsimp only | split

/-! ## Hoops -/

theorem answerApplied_has {s : State} {a : Arrival} (hs : P s) : P (answerApplied s a) := by
  unfold answerApplied
  try dsimp only
  with_reducible repeat' first | assumption | exact trivial | apply trackRow_has hP | apply modJob_has hP | apply modCore_has hP | intro _ _ _ _ _ _ | intro _ _ _ | intro _ _ | intro _ | apply ite_has | dsimp only | split

theorem answerRefused_has {s : State} {c : Nat} {a : Arrival} {code : Nat} {mask : Nat} (hs : P s) : P (answerRefused s c a code mask) := by
  unfold answerRefused
  try dsimp only
  with_reducible repeat' first | assumption | exact trivial | apply raiseFault_has hP | apply trackRow_has hP | apply ite_has | dsimp only | split

theorem countRefused_has {s : State} {c : Nat} {hoop : Nat} {k : HoopCheck} (hs : P s) : P (countRefused s c hoop k) := by
  unfold countRefused
  try dsimp only
  with_reducible repeat' first | assumption | exact trivial | apply modCore_has hP | intro _ _ _ _ _ _ | intro _ _ _ | intro _ _ | intro _ | apply ite_has | dsimp only | split

theorem refuseArrival_has {s : State} {c : Nat} {k : Nat} {a : Arrival} {chk : HoopCheck} (hs : P s) : P (refuseArrival s c k a chk) := by
  unfold refuseArrival
  try dsimp only
  with_reducible repeat' first | assumption | exact trivial | apply countRefused_has hP | apply answerRefused_has hP | apply modCore_has hP | intro _ _ _ _ _ _ | intro _ _ _ | intro _ _ | intro _ | apply ite_has | dsimp only | split

theorem arriveWrite_has {s : State} {c : Nat} {k : Nat} {a : Arrival} (hs : P s) : P (arriveWrite s c k a) := by
  unfold arriveWrite
  try dsimp only
  with_reducible repeat' first | assumption | exact trivial | apply refuseArrival_has hP | apply answerApplied_has hP | apply putRow_has hP | apply setTag_has hP | apply modCore_has hP | refine fst_of (by assumption) ?_ | intro _ _ _ _ _ _ | intro _ _ _ | intro _ _ | intro _ | apply ite_has | dsimp only | split

theorem arriveAdd_has {s : State} {c : Nat} {k : Nat} {a : Arrival} (hs : P s) : P (arriveAdd s c k a) := by
  unfold arriveAdd
  try dsimp only
  with_reducible repeat' first | assumption | exact trivial | apply refuseArrival_has hP | apply modCore_has hP | intro _ _ _ _ _ _ | intro _ _ _ | intro _ _ | intro _ | apply ite_has | dsimp only | split

theorem arriveSignal_has {s : State} {c : Nat} {k : Nat} {a : Arrival} {v : Nat} (hs : P s) : P (arriveSignal s c k a v) := by
  unfold arriveSignal
  try dsimp only
  with_reducible repeat' first | assumption | exact trivial | apply refuseArrival_has hP | apply answerApplied_has hP | apply modCore_has hP | intro _ _ _ _ _ _ | intro _ _ _ | intro _ _ | intro _ | apply ite_has | dsimp only | split

theorem answerRead_has {s : State} {c : Nat} {a : Arrival} {r : ReadAnswer} (hs : P s) : P (answerRead s c a r) := by
  unfold answerRead
  try dsimp only
  with_reducible repeat' first | assumption | exact trivial | apply answerRefused_has hP | apply sendAnswer_has hP | apply modJob_has hP | intro _ _ _ _ _ _ | intro _ _ _ | intro _ _ | intro _ | apply ite_has | dsimp only | split

theorem arriveRead_has {s : State} {c : Nat} {k : Nat} {a : Arrival} (hs : P s) : P (arriveRead s c k a) := by
  unfold arriveRead
  try dsimp only
  with_reducible repeat' first | assumption | exact trivial | apply answerRead_has hP | apply countRefused_has hP | apply checkRead_has hP | apply setTag_has hP | apply modCore_has hP | intro _ _ _ _ _ _ | intro _ _ _ | intro _ _ | intro _ | apply ite_has | dsimp only | split

theorem reductionSat_has {s : State} {c : Nat} {entry : Nat} {tag : Nat} {unit : Nat} (hs : P s) : P (reductionSat s c entry tag unit) := by
  unfold reductionSat
  try dsimp only
  with_reducible repeat' first | assumption | exact trivial | apply pushEvent_has hP | apply ite_has | dsimp only | split

theorem refuseEntry_has {s : State} {c : Nat} {co : Core} {e : CqEntry} {code : Nat} {mask : Nat} (hs : P s) : P (refuseEntry s c co e code mask) := by
  unfold refuseEntry
  try dsimp only
  with_reducible repeat' first | assumption | exact trivial | apply answerRefused_has hP | apply raiseFault_has hP | apply ite_has | dsimp only | split

theorem retireOne_has {s : State} {c : Nat} {k : Nat} {e : CqEntry} (hs : P s) : P (retireOne s c k e) := by
  unfold retireOne
  try dsimp only
  with_reducible repeat' first | assumption | exact trivial | apply refuseEntry_has hP | apply reductionSat_has hP | apply answerApplied_has hP | apply putRow_has hP | apply checkRead_has hP | apply modJob_has hP | apply modCore_has hP | refine fst_of (by assumption) ?_ | intro _ _ _ _ _ _ | intro _ _ _ | intro _ _ | intro _ | apply ite_has | dsimp only | split

theorem execRemoteWriteArrival_has {core : Nat} {k : Nat} {s : State} (hs : P s) : Out.Has P (execRemoteWriteArrival core k s) := by
  unfold execRemoteWriteArrival
  try dsimp only
  with_reducible repeat' first | assumption | exact trivial | apply arriveWrite_has hP | apply onCore_has | apply Out.next_has | exact Out.fault_has | refine Out.of_next (by assumption) ?_ | apply ite_has | dsimp only | split

theorem execReduceAddArrival_has {core : Nat} {k : Nat} {s : State} (hs : P s) : Out.Has P (execReduceAddArrival core k s) := by
  unfold execReduceAddArrival
  try dsimp only
  with_reducible repeat' first | assumption | exact trivial | apply arriveAdd_has hP | apply onCore_has | apply Out.next_has | exact Out.fault_has | refine Out.of_next (by assumption) ?_ | apply ite_has | dsimp only | split

theorem execSignalArrival_has {core : Nat} {k : Nat} {s : State} (hs : P s) : Out.Has P (execSignalArrival core k s) := by
  unfold execSignalArrival
  try dsimp only
  with_reducible repeat' first | assumption | exact trivial | apply arriveSignal_has hP | apply onCore_has | apply Out.next_has | exact Out.fault_has | refine Out.of_next (by assumption) ?_ | apply ite_has | dsimp only | split

theorem execRemoteRead_has {core : Nat} {k : Nat} {s : State} (hs : P s) : Out.Has P (execRemoteRead core k s) := by
  unfold execRemoteRead
  try dsimp only
  with_reducible repeat' first | assumption | exact trivial | apply arriveRead_has hP | apply onCore_has | apply Out.next_has | exact Out.fault_has | refine Out.of_next (by assumption) ?_ | apply ite_has | dsimp only | split

theorem execConflictQueueRetire_has {core : Nat} {s : State} (hs : P s) : Out.Has P (execConflictQueueRetire core s) := by
  unfold execConflictQueueRetire
  try dsimp only
  with_reducible repeat' first | assumption | exact trivial | apply retireOne_has hP | apply onCore_has | apply Out.next_has | exact Out.fault_has | refine Out.of_next (by assumption) ?_ | apply ite_has | dsimp only | split

/-! ## Moves -/

theorem fetch_has {w : Who} {l : List (Loc × RdMode × Nat)} : ∀ {s : State} {j : Job}, P s → Got.Has P (fetch w s j l) := by
  induction l with
  | nil => exact fun hs => hs
  | cons a rest ih =>
    intro s j hs
    unfold fetch
    with_reducible repeat' first | assumption | apply ih | apply readLoc_has hP | apply logWords_has hP | apply Got.ok_has | apply Got.fault_has | apply Got.wait_has | refine Acc.of_ok (by assumption) ?_ | refine Acc.of_fault (by assumption) ?_ | refine Got.of_ok (by assumption) ?_ | dsimp only | split

theorem compressCode_has {s : State} {w : Who} {j : Job} {k : Nat} (hs : P s) : Mid.Has P (compressCode s w j k) := by
  unfold compressCode
  try dsimp only
  with_reducible repeat' first | assumption | exact trivial | apply Mid.ok_has | apply Mid.wait_has | apply Mid.fault_has | refine Mid.of_ok (by assumption) ?_ | refine Mid.of_wait (by assumption) ?_ | refine Mid.of_fault (by assumption) ?_ | apply foldl_has | intro _ _ _ | intro _ _ _ _ _ _ | intro _ _ | intro _ | apply ite_has | dsimp only | split

theorem zrStore_has {s : State} {w : Who} {j : Job} {k : Nat} (hs : P s) : Mid.Has P (zrStore s w j k) := by
  unfold zrStore
  try dsimp only
  with_reducible repeat' first | assumption | exact trivial | apply Mid.ok_has | apply Mid.wait_has | apply Mid.fault_has | refine Mid.of_ok (by assumption) ?_ | refine Mid.of_wait (by assumption) ?_ | refine Mid.of_fault (by assumption) ?_ | intro _ _ _ _ _ _ | intro _ _ _ | intro _ _ | intro _ | apply ite_has | dsimp only | split

theorem scatterRow_has {s : State} {w : Who} {j : Job} {r : Nat} {v : Nat} {data : List Byte} (hs : P s) : Mid.Has P (scatterRow s w j r v data) := by
  unfold scatterRow
  try dsimp only
  with_reducible repeat' first | assumption | exact trivial | apply modCore_has hP | apply Mid.ok_has | apply Mid.wait_has | apply Mid.fault_has | refine Mid.of_ok (by assumption) ?_ | refine Mid.of_wait (by assumption) ?_ | refine Mid.of_fault (by assumption) ?_ | intro _ _ _ _ _ _ | intro _ _ _ | intro _ _ | intro _ | apply ite_has | dsimp only | split

theorem sfIndex_has {s : State} {w : Who} {j : Job} {b : Nat} {q : Nat} (hs : P s) : IdxGot.Has P (sfIndex s w j b q) := by
  unfold sfIndex
  try dsimp only
  with_reducible repeat' first | assumption | exact trivial | apply fetch_has hP | apply IdxGot.ok_has | apply IdxGot.wait_has | apply IdxGot.fault_has | apply Got.ok_has | apply Got.wait_has | apply Got.fault_has | refine IdxGot.of_ok (by assumption) ?_ | refine IdxGot.of_wait (by assumption) ?_ | refine IdxGot.of_fault (by assumption) ?_ | refine Got.of_ok (by assumption) ?_ | refine Got.of_wait (by assumption) ?_ | refine Got.of_fault (by assumption) ?_ | apply ite_has | dsimp only | split

theorem sfIndexes_has {w : Who} {b : Nat} {l : List Nat} : ∀ {s : State} {j : Job}, P s →
    Got.Has P (sfIndexes w b s j l) := by
  induction l with
  | nil => exact fun hs => hs
  | cons a rest ih =>
    intro s j hs
    unfold sfIndexes
    with_reducible repeat' first | assumption | apply ih | apply sfIndex_has hP | apply Got.ok_has | apply Got.fault_has | apply Got.wait_has | refine Got.of_ok (by assumption) ?_ | refine IdxGot.of_ok (by assumption) ?_ | refine IdxGot.of_fault (by assumption) ?_ | refine IdxGot.of_wait (by assumption) ?_ | split

theorem selective_has {s : State} {w : Who} {j : Job} {k : Nat} (hs : P s) : Mid.Has P (selective s w j k) := by
  unfold selective
  try dsimp only
  with_reducible repeat' first | assumption | exact trivial | apply sfIndexes_has hP | apply sfIndex_has hP | apply fetch_has hP | apply IdxGot.ok_has | apply IdxGot.wait_has | apply IdxGot.fault_has | apply Mid.ok_has | apply Mid.wait_has | apply Mid.fault_has | apply Got.ok_has | apply Got.wait_has | apply Got.fault_has | refine IdxGot.of_ok (by assumption) ?_ | refine IdxGot.of_wait (by assumption) ?_ | refine IdxGot.of_fault (by assumption) ?_ | refine Mid.of_ok (by assumption) ?_ | refine Mid.of_wait (by assumption) ?_ | refine Mid.of_fault (by assumption) ?_ | refine Got.of_ok (by assumption) ?_ | refine Got.of_wait (by assumption) ?_ | refine Got.of_fault (by assumption) ?_ | apply foldl_has | intro _ _ _ | intro _ _ _ _ _ _ | intro _ _ | intro _ | apply ite_has | dsimp only | split

theorem moveStart_has {s : State} {w : Who} {j : Job} (hs : P s) : Mid.Has P (moveStart s w j) := by
  unfold moveStart
  try dsimp only
  with_reducible repeat' first | assumption | exact trivial | apply readBlock_has hP | apply Acc.ok_has | apply Acc.fault_has | apply Mid.ok_has | apply Mid.wait_has | apply Mid.fault_has | exact Acc.wait_has | refine Acc.of_ok (by assumption) ?_ | refine Acc.of_fault (by assumption) ?_ | refine Mid.of_ok (by assumption) ?_ | refine Mid.of_wait (by assumption) ?_ | refine Mid.of_fault (by assumption) ?_ | intro _ _ _ _ _ _ | intro _ _ _ | intro _ _ | intro _ | apply ite_has | dsimp only | split

/-! ## Vector -/

theorem tapValues_has {s : State} {c : Nat} {tap : Nat} {xs : List Nat} (hs : P s) : P (tapValues s c tap xs) := by
  unfold tapValues
  try dsimp only
  with_reducible repeat' first | assumption | exact trivial | apply modCore_has hP | apply foldl_has | intro _ _ _ | intro _ _ _ _ _ _ | intro _ _ | intro _ | apply ite_has | dsimp only | split

theorem quantStart_has {s : State} {w : Who} {j : Job} {a : Nat} {d : Nat} (hs : P s) : Mid.Has P (quantStart s w j a d) := by
  unfold quantStart
  try dsimp only
  with_reducible repeat' first | assumption | exact trivial | apply modStats_has hP | apply modCore_has hP | apply Mid.ok_has | apply Mid.wait_has | apply Mid.fault_has | refine Mid.of_ok (by assumption) ?_ | refine Mid.of_wait (by assumption) ?_ | refine Mid.of_fault (by assumption) ?_ | intro _ _ _ _ _ _ | intro _ _ _ | intro _ _ | intro _ | apply ite_has | dsimp only | split

theorem quantScale_has {s : State} {w : Who} {j : Job} {t : Nat} (hs : P s) : Mid.Has P (quantScale s w j t) := by
  unfold quantScale
  try dsimp only
  with_reducible repeat' first | assumption | exact trivial | apply fetch_has hP | apply Mid.ok_has | apply Mid.wait_has | apply Mid.fault_has | apply Got.ok_has | apply Got.wait_has | apply Got.fault_has | refine Mid.of_ok (by assumption) ?_ | refine Mid.of_wait (by assumption) ?_ | refine Mid.of_fault (by assumption) ?_ | refine Got.of_ok (by assumption) ?_ | refine Got.of_wait (by assumption) ?_ | refine Got.of_fault (by assumption) ?_ | apply ite_has | dsimp only | split

theorem quantRow_has {s : State} {w : Who} {j : Job} {t : Nat} (hs : P s) : Mid.Has P (quantRow s w j t) := by
  unfold quantRow
  try dsimp only
  with_reducible repeat' first | assumption | exact trivial | apply tapValues_has hP | apply fetch_has hP | apply countCodes_has hP | apply Mid.ok_has | apply Mid.wait_has | apply Mid.fault_has | apply Got.ok_has | apply Got.wait_has | apply Got.fault_has | refine Mid.of_ok (by assumption) ?_ | refine Mid.of_wait (by assumption) ?_ | refine Mid.of_fault (by assumption) ?_ | refine Got.of_ok (by assumption) ?_ | refine Got.of_wait (by assumption) ?_ | refine Got.of_fault (by assumption) ?_ | intro _ _ _ _ _ _ | intro _ _ _ | intro _ _ | intro _ | apply ite_has | dsimp only | split

theorem gradStart_has {s : State} {w : Who} {j : Job} {a : Nat} {d : Nat} (hs : P s) : Mid.Has P (gradStart s w j a d) := by
  unfold gradStart
  try dsimp only
  with_reducible repeat' first | assumption | exact trivial | apply modStats_has hP | apply Mid.ok_has | apply Mid.wait_has | apply Mid.fault_has | refine Mid.of_ok (by assumption) ?_ | refine Mid.of_wait (by assumption) ?_ | refine Mid.of_fault (by assumption) ?_ | intro _ _ _ _ _ _ | intro _ _ _ | intro _ _ | intro _ | apply ite_has | dsimp only | split

theorem gradRow_has {s : State} {w : Who} {j : Job} {t : Nat} (hs : P s) : Mid.Has P (gradRow s w j t) := by
  unfold gradRow
  try dsimp only
  with_reducible repeat' first | assumption | exact trivial | apply tapValues_has hP | apply fetch_has hP | apply modStats_has hP | apply Mid.ok_has | apply Mid.wait_has | apply Mid.fault_has | apply Got.ok_has | apply Got.wait_has | apply Got.fault_has | refine Mid.of_ok (by assumption) ?_ | refine Mid.of_wait (by assumption) ?_ | refine Mid.of_fault (by assumption) ?_ | refine Got.of_ok (by assumption) ?_ | refine Got.of_wait (by assumption) ?_ | refine Got.of_fault (by assumption) ?_ | apply foldl_has | intro _ _ _ | intro _ _ _ _ _ _ | intro _ _ | intro _ | apply ite_has | dsimp only | split

theorem gradScale_has {s : State} {j : Job} (hs : P s) : Mid.Has P (gradScale s j) := by
  unfold gradScale
  try dsimp only
  with_reducible repeat' first | assumption | exact trivial | apply Mid.ok_has | apply Mid.wait_has | apply Mid.fault_has | refine Mid.of_ok (by assumption) ?_ | refine Mid.of_wait (by assumption) ?_ | refine Mid.of_fault (by assumption) ?_ | apply ite_has | dsimp only | split

theorem updStart_has {s : State} {w : Who} {j : Job} {a : Nat} {d : Nat} (hs : P s) : Mid.Has P (updStart s w j a d) := by
  unfold updStart
  try dsimp only
  with_reducible repeat' first | assumption | exact trivial | apply modStats_has hP | apply Mid.ok_has | apply Mid.wait_has | apply Mid.fault_has | refine Mid.of_ok (by assumption) ?_ | refine Mid.of_wait (by assumption) ?_ | refine Mid.of_fault (by assumption) ?_ | intro _ _ _ _ _ _ | intro _ _ _ | intro _ _ | intro _ | apply ite_has | dsimp only | split

theorem update_has {s : State} {w : Who} {j : Job} {h : Nat} (hs : P s) : Mid.Has P (update s w j h) := by
  unfold update
  try dsimp only
  with_reducible repeat' first | assumption | exact trivial | apply tapValues_has hP | apply fetch_has hP | apply modStats_has hP | apply Mid.ok_has | apply Mid.wait_has | apply Mid.fault_has | apply Got.ok_has | apply Got.wait_has | apply Got.fault_has | refine Mid.of_ok (by assumption) ?_ | refine Mid.of_wait (by assumption) ?_ | refine Mid.of_fault (by assumption) ?_ | refine Got.of_ok (by assumption) ?_ | refine Got.of_wait (by assumption) ?_ | refine Got.of_fault (by assumption) ?_ | apply foldl_has | intro _ _ _ | intro _ _ _ _ _ _ | intro _ _ | intro _ | apply ite_has | dsimp only | split

theorem topStart_has {s : State} {w : Who} {j : Job} {a : Nat} {d : Nat} (hs : P s) : Mid.Has P (topStart s w j a d) := by
  unfold topStart
  try dsimp only
  with_reducible repeat' first | assumption | exact trivial | apply Mid.ok_has | apply Mid.wait_has | apply Mid.fault_has | refine Mid.of_ok (by assumption) ?_ | refine Mid.of_wait (by assumption) ?_ | refine Mid.of_fault (by assumption) ?_ | intro _ _ _ _ _ _ | intro _ _ _ | intro _ _ | intro _ | apply ite_has | dsimp only | split

theorem topK_has {s : State} {w : Who} {j : Job} {t : Nat} (hs : P s) : Mid.Has P (topK s w j t) := by
  unfold topK
  try dsimp only
  with_reducible repeat' first | assumption | exact trivial | apply fetch_has hP | apply Mid.ok_has | apply Mid.wait_has | apply Mid.fault_has | apply Got.ok_has | apply Got.wait_has | apply Got.fault_has | refine Mid.of_ok (by assumption) ?_ | refine Mid.of_wait (by assumption) ?_ | refine Mid.of_fault (by assumption) ?_ | refine Got.of_ok (by assumption) ?_ | refine Got.of_wait (by assumption) ?_ | refine Got.of_fault (by assumption) ?_ | intro _ _ _ _ _ _ | intro _ _ _ | intro _ _ | intro _ | apply ite_has | dsimp only | split

theorem rowStart_has {s : State} {w : Who} {j : Job} {a : Nat} {d : Nat} (hs : P s) : Mid.Has P (rowStart s w j a d) := by
  unfold rowStart
  try dsimp only
  with_reducible repeat' first | assumption | exact trivial | apply Mid.ok_has | apply Mid.wait_has | apply Mid.fault_has | refine Mid.of_ok (by assumption) ?_ | refine Mid.of_wait (by assumption) ?_ | refine Mid.of_fault (by assumption) ?_ | intro _ _ _ _ _ _ | intro _ _ _ | intro _ _ | intro _ | apply ite_has | dsimp only | split

theorem rowOp_has {s : State} {w : Who} {j : Job} {t : Nat} (hs : P s) : Mid.Has P (rowOp s w j t) := by
  unfold rowOp
  try dsimp only
  with_reducible repeat' first | assumption | exact trivial | apply fetch_has hP | apply Mid.ok_has | apply Mid.wait_has | apply Mid.fault_has | apply Got.ok_has | apply Got.wait_has | apply Got.fault_has | refine Mid.of_ok (by assumption) ?_ | refine Mid.of_wait (by assumption) ?_ | refine Mid.of_fault (by assumption) ?_ | refine Got.of_ok (by assumption) ?_ | refine Got.of_wait (by assumption) ?_ | refine Got.of_fault (by assumption) ?_ | intro _ _ _ _ _ _ | intro _ _ _ | intro _ _ | intro _ | apply ite_has | dsimp only | split

theorem vectorStart_has {s : State} {w : Who} {j : Job} (hs : P s) : Mid.Has P (vectorStart s w j) := by
  unfold vectorStart
  dsimp only
  split
  · exact hs
  · exact Acc.of_fault (by assumption) (readBlock_has hP hs)
  · rename_i s1 bs e
    have h1 : P s1 := Acc.of_ok e (readBlock_has hP hs)
    generalize fld j.entry 48 3 = k
    split
    · exact quantStart_has hP h1
    · exact gradStart_has hP h1
    · exact updStart_has hP h1
    · exact topStart_has hP h1
    · exact rowStart_has hP h1

/-! ## Fsu -/

theorem fsuStart_has {s : State} {w : Who} {j : Job} (hs : P s) : Mid.Has P (fsuStart s w j) := by
  unfold fsuStart
  try dsimp only
  with_reducible repeat' first | assumption | exact trivial | apply readBlock_has hP | apply Acc.ok_has | apply Acc.fault_has | apply Mid.ok_has | apply Mid.wait_has | apply Mid.fault_has | exact Acc.wait_has | refine Acc.of_ok (by assumption) ?_ | refine Acc.of_fault (by assumption) ?_ | refine Mid.of_ok (by assumption) ?_ | refine Mid.of_wait (by assumption) ?_ | refine Mid.of_fault (by assumption) ?_ | intro _ _ _ _ _ _ | intro _ _ _ | intro _ _ | intro _ | apply ite_has | dsimp only | split

theorem fsuTile_has {s : State} {w : Who} {j : Job} {k : Nat} (hs : P s) : Mid.Has P (fsuTile s w j k) := by
  unfold fsuTile
  try dsimp only
  with_reducible repeat' first | assumption | exact trivial | apply fetch_has hP | apply Mid.ok_has | apply Mid.wait_has | apply Mid.fault_has | apply Got.ok_has | apply Got.wait_has | apply Got.fault_has | refine Mid.of_ok (by assumption) ?_ | refine Mid.of_wait (by assumption) ?_ | refine Mid.of_fault (by assumption) ?_ | refine Got.of_ok (by assumption) ?_ | refine Got.of_wait (by assumption) ?_ | refine Got.of_fault (by assumption) ?_ | apply foldl_has | intro _ _ _ | intro _ _ _ _ _ _ | intro _ _ | intro _ | apply ite_has | dsimp only | split

/-! ## Jobs -/

theorem sendHoop_has {s : State} {w : Who} {k : ArrKind} {dest : HoopDest} {core : Nat} {hoop : Nat} {row : Nat} {data : List Byte} (hs : P s) : P (sendHoop s w k dest core hoop row data) := by
  unfold sendHoop
  try dsimp only
  with_reducible repeat' first | assumption | exact trivial | apply markRemote_has hP | apply modCore_has hP | intro _ _ _ _ _ _ | intro _ _ _ | intro _ _ | intro _ | apply ite_has | dsimp only | split

theorem emitRow_has {s : State} {w : Who} {j : Job} {loc : Loc} {mode : WrMode} {value : Nat} {bits : Nat} {first : Bool} {last : Bool} (hs : P s) : Mid.Has P (emitRow s w j loc mode value bits first last) := by
  unfold emitRow
  try dsimp only
  with_reducible repeat' first | assumption | exact trivial | apply sendHoop_has hP | apply writeLoc_has hP | apply modDie_has hP | apply Acc.ok_has | apply Acc.fault_has | apply Mid.ok_has | apply Mid.wait_has | apply Mid.fault_has | exact Acc.wait_has | refine Acc.of_ok (by assumption) ?_ | refine Acc.of_fault (by assumption) ?_ | refine Mid.of_ok (by assumption) ?_ | refine Mid.of_wait (by assumption) ?_ | refine Mid.of_fault (by assumption) ?_ | intro _ _ _ _ _ _ | intro _ _ _ | intro _ _ | intro _ | apply ite_has | dsimp only | split

theorem readHoop_has {s : State} {w : Who} {j : Job} {n : Nat} {remote : Option Nat} {core : Nat} {hoop : Nat} {row : Nat} (hs : P s) : Mid.Has P (readHoop s w j n remote core hoop row) := by
  unfold readHoop
  try dsimp only
  with_reducible repeat' first | assumption | exact trivial | apply sendHoop_has hP | apply Mid.ok_has | apply Mid.wait_has | apply Mid.fault_has | refine Mid.of_ok (by assumption) ?_ | refine Mid.of_wait (by assumption) ?_ | refine Mid.of_fault (by assumption) ?_ | apply ite_has | dsimp only | split

theorem copyRowStep_has {s : State} {w : Who} {j : Job} {src : Loc} {dst : Loc} {rd : RdMode} {wr : WrMode} (hs : P s) : Mid.Has P (copyRowStep s w j src dst rd wr) := by
  unfold copyRowStep
  try dsimp only
  with_reducible repeat' first | assumption | exact trivial | apply writeLoc_has hP | apply readLoc_has hP | apply Acc.ok_has | apply Acc.fault_has | apply Mid.ok_has | apply Mid.wait_has | apply Mid.fault_has | exact Acc.wait_has | refine Acc.of_ok (by assumption) ?_ | refine Acc.of_fault (by assumption) ?_ | refine Mid.of_ok (by assumption) ?_ | refine Mid.of_wait (by assumption) ?_ | refine Mid.of_fault (by assumption) ?_ | apply ite_has | dsimp only | split

theorem markRow_has {s : State} {w : Who} {j : Job} {store : Nat} {row : Nat} {f : Bool} (hs : P s) : Mid.Has P (markRow s w j store row f) := by
  unfold markRow
  try dsimp only
  with_reducible repeat' first | assumption | exact trivial | apply setTag_has hP | apply Mid.ok_has | apply Mid.wait_has | apply Mid.fault_has | refine Mid.of_ok (by assumption) ?_ | refine Mid.of_wait (by assumption) ?_ | refine Mid.of_fault (by assumption) ?_ | apply ite_has | dsimp only | split

theorem inPlaceStep_has {s : State} {w : Who} {j : Job} (hs : P s) : Mid.Has P (inPlaceStep s w j) := by
  unfold inPlaceStep
  try dsimp only
  with_reducible repeat' first | assumption | exact trivial | apply modCore_has hP | apply Mid.ok_has | apply Mid.wait_has | apply Mid.fault_has | refine Mid.of_ok (by assumption) ?_ | refine Mid.of_wait (by assumption) ?_ | refine Mid.of_fault (by assumption) ?_ | intro _ _ _ _ _ _ | intro _ _ _ | intro _ _ | intro _ | apply ite_has | dsimp only | split

theorem calcStep_has {s : State} {w : Who} {j : Job} {k : Nat} {x0 : Calc} (hs : P s) : Mid.Has P (calcStep s w j k x0) := by
  unfold calcStep
  try dsimp only
  with_reducible repeat' first | assumption | exact trivial | apply inPlaceStep_has hP | apply fsuTile_has hP | apply rowOp_has hP | apply topK_has hP | apply update_has hP | apply gradScale_has hP | apply gradRow_has hP | apply quantRow_has hP | apply quantScale_has hP | apply selective_has hP | apply zrStore_has hP | apply compressCode_has hP | apply pressEnd_has hP | apply pressOut_has hP | apply pressRelease_has hP | apply pressOutRead_has hP | apply pressSpill_has hP | apply pressPromote_has hP | apply pressRail_has hP | apply pressSlice_has hP | apply pressLoad_has hP | apply pressTile_has hP | apply Mid.ok_has | apply Mid.wait_has | apply Mid.fault_has | refine Mid.of_ok (by assumption) ?_ | refine Mid.of_wait (by assumption) ?_ | refine Mid.of_fault (by assumption) ?_ | apply ite_has | dsimp only | split

theorem microStep_has {s : State} {w : Who} {j : Job} {x0 : Micro} (hs : P s) : Mid.Has P (microStep s w j x0) := by
  unfold microStep
  try dsimp only
  with_reducible repeat' first | assumption | exact trivial | apply calcStep_has hP | apply markRow_has hP | apply copyRowStep_has hP | apply readHoop_has hP | apply emitRow_has hP | apply scatterRow_has hP | apply writeLoc_has hP | apply readLoc_has hP | apply modCore_has hP | apply Mid.ok_has | apply Mid.wait_has | apply Mid.fault_has | apply Acc.ok_has | apply Acc.fault_has | exact Acc.wait_has | refine Mid.of_ok (by assumption) ?_ | refine Mid.of_wait (by assumption) ?_ | refine Mid.of_fault (by assumption) ?_ | refine Acc.of_ok (by assumption) ?_ | refine Acc.of_fault (by assumption) ?_ | intro _ _ _ _ _ _ | intro _ _ _ | intro _ _ | intro _ | apply ite_has | dsimp only | split

theorem rowEngineStart_has {s : State} {w : Who} {j : Job} (hs : P s) : Mid.Has P (rowEngineStart s w j) := by
  unfold rowEngineStart
  try dsimp only
  with_reducible repeat' first | assumption | exact trivial | apply Mid.ok_has | apply Mid.wait_has | apply Mid.fault_has | refine Mid.of_ok (by assumption) ?_ | refine Mid.of_wait (by assumption) ?_ | refine Mid.of_fault (by assumption) ?_ | intro _ _ _ _ _ _ | intro _ _ _ | intro _ _ | intro _ | apply ite_has | dsimp only | split

theorem startJob_has {s : State} {w : Who} {j : Job} (hs : P s) : Mid.Has P (startJob s w j) := by
  unfold startJob
  try dsimp only
  with_reducible repeat' first | assumption | exact trivial | apply rowEngineStart_has hP | apply fsuStart_has hP | apply vectorStart_has hP | apply moveStart_has hP | apply pressStart_has hP | apply Mid.ok_has | apply Mid.wait_has | apply Mid.fault_has | refine Mid.of_ok (by assumption) ?_ | refine Mid.of_wait (by assumption) ?_ | refine Mid.of_fault (by assumption) ?_ | apply ite_has | dsimp only | split

theorem runList_has {w : Who} {l : List Micro} : ∀ {s : State} {j : Job}, P s → Mid.Has P (runList w l s j) := by
  induction l with
  | nil => exact fun hs => hs
  | cons a rest ih =>
    intro s j hs
    unfold runList
    with_reducible repeat' first | assumption | apply ih | apply microStep_has hP | apply Mid.fault_has | apply Mid.wait_has | refine Mid.of_ok (by assumption) ?_ | refine Mid.of_fault (by assumption) ?_ | refine Mid.of_wait (by assumption) ?_ | split

theorem runMid_has {s : State} {w : Who} {j : Job} (hs : P s) : Mid.Has P (runMid s w j) := by
  unfold runMid
  try dsimp only
  with_reducible repeat' first | assumption | exact trivial | apply runList_has hP | apply startJob_has hP | apply Mid.ok_has | apply Mid.wait_has | apply Mid.fault_has | refine Mid.of_ok (by assumption) ?_ | refine Mid.of_wait (by assumption) ?_ | refine Mid.of_fault (by assumption) ?_ | apply ite_has | dsimp only | split

theorem runTurn_has {w : Who} {l : List Micro} : ∀ {s : State} {j : Job}, P s → Mid.Has P (runTurn w l s j) := by
  induction l with
  | nil => exact fun hs => hs
  | cons a rest ih =>
    intro s j hs
    unfold runTurn
    with_reducible repeat' first | assumption | apply ih | apply microStep_has hP | apply Mid.fault_has | apply Mid.wait_has | refine Mid.of_ok (by assumption) ?_ | refine Mid.of_fault (by assumption) ?_ | refine Mid.of_wait (by assumption) ?_ | split

theorem startTurn_has {s : State} {w : Who} {j : Job} (hs : P s) : Mid.Has P (startTurn s w j) := by
  unfold startTurn
  try dsimp only
  with_reducible repeat' first | assumption | exact trivial | apply startJob_has hP | apply Mid.ok_has | apply Mid.wait_has | apply Mid.fault_has | refine Mid.of_ok (by assumption) ?_ | refine Mid.of_wait (by assumption) ?_ | refine Mid.of_fault (by assumption) ?_ | apply ite_has | dsimp only | split

theorem goOn_has {s : State} {w : Who} {j : Job} (hs : P s) : Mid.Has P (goOn s w j) := by
  unfold goOn
  try dsimp only
  with_reducible repeat' first | assumption | exact trivial | apply startTurn_has hP | apply runTurn_has hP | apply runMid_has hP | apply Mid.ok_has | apply Mid.wait_has | apply Mid.fault_has | refine Mid.of_ok (by assumption) ?_ | refine Mid.of_wait (by assumption) ?_ | refine Mid.of_fault (by assumption) ?_ | apply ite_has | dsimp only | split

theorem settle_has {c : Nat} {u : CoreUnit} {m : Mid} (hm : Mid.Has P m) : P (settle c u m) := by
  cases m with
  | ok s j => unfold settle; exact modCore_has hP hm
  | wait s j x => unfold settle; exact modCore_has hP hm
  | fault s j b => unfold settle; exact raiseFault_has hP (modCore_has hP hm)

theorem readAhead_has {s : State} {c : Nat} (hs : P s) : P (readAhead s c) := by
  unfold readAhead
  try dsimp only
  with_reducible repeat' first | assumption | exact trivial | apply pressRead_has hP | apply raiseFault_has hP | apply modCore_has hP | apply Mid.ok_has | apply Mid.wait_has | apply Mid.fault_has | refine Mid.of_ok (by assumption) ?_ | refine Mid.of_wait (by assumption) ?_ | refine Mid.of_fault (by assumption) ?_ | intro _ _ _ _ _ _ | intro _ _ _ | intro _ _ | intro _ | apply ite_has | dsimp only | split

theorem runJob_has {s : State} {c : Nat} {u : CoreUnit} {j : Job} (hs : P s) : P (runJob s c u j) := by
  unfold runJob
  try dsimp only
  with_reducible repeat' first | assumption | exact trivial | apply readAhead_has hP | apply settle_has hP | apply runMid_has hP | apply Mid.ok_has | apply Mid.wait_has | apply Mid.fault_has | refine Mid.of_ok (by assumption) ?_ | refine Mid.of_wait (by assumption) ?_ | refine Mid.of_fault (by assumption) ?_ | apply ite_has | dsimp only | split

theorem resume_has {s : State} {c : Nat} {u : CoreUnit} {j : Job} (hs : P s) : P (resume s c u j) := by
  unfold resume
  try dsimp only
  with_reducible repeat' first | assumption | exact trivial | apply runJob_has hP | apply settle_has hP | apply startTurn_has hP | apply Mid.ok_has | apply Mid.wait_has | apply Mid.fault_has | refine Mid.of_ok (by assumption) ?_ | refine Mid.of_wait (by assumption) ?_ | refine Mid.of_fault (by assumption) ?_ | apply ite_has | dsimp only | split

theorem runReady_has {c : Nat} {u : CoreUnit} {n : Nat} : ∀ {s : State}, P s → P (runReady c u n s) := by
  induction n with
  | zero => exact fun hs => hs
  | succ n ih =>
    intro s hs
    unfold runReady
    split
    · exact ih (runJob_has hP hs)
    · exact hs

/-! ## Sequencer -/

theorem fetchRow_has {s : State} {c : Nat} {row : Nat} (hs : P s) : Fetched.Has P (fetchRow s c row) := by
  unfold fetchRow
  try dsimp only
  with_reducible repeat' first | assumption | exact trivial | apply readLoc_has hP | apply setCore_has hP | apply Acc.ok_has | apply Acc.fault_has | apply Fetched.ok_has | apply Fetched.fault_has | exact Acc.wait_has | exact Fetched.wait_has | refine Acc.of_ok (by assumption) ?_ | refine Acc.of_fault (by assumption) ?_ | refine Fetched.of_ok (by assumption) ?_ | refine Fetched.of_fault (by assumption) ?_ | apply ite_has | dsimp only | split

theorem execListStart_has {core : Nat} {s : State} (hs : P s) : Out.Has P (execListStart core s) := by
  unfold execListStart
  try dsimp only
  with_reducible repeat' first | assumption | exact trivial | apply fetchRow_has hP | apply raiseFault_has hP | apply onCore_has | apply modCore_has hP | apply setCore_has hP | apply Out.next_has | apply Fetched.ok_has | apply Fetched.fault_has | exact Out.fault_has | exact Fetched.wait_has | refine Out.of_next (by assumption) ?_ | refine Fetched.of_ok (by assumption) ?_ | refine Fetched.of_fault (by assumption) ?_ | intro _ _ _ _ _ _ | intro _ _ _ | intro _ _ | intro _ | apply ite_has | dsimp only | split

theorem execListFetchReturn_has {core : Nat} {ahead : Nat} {s : State} (hs : P s) : Out.Has P (execListFetchReturn core ahead s) := by
  unfold execListFetchReturn
  try dsimp only
  with_reducible repeat' first | assumption | exact trivial | apply fetchRow_has hP | apply raiseFault_has hP | apply onCore_has | apply modCore_has hP | apply Out.next_has | apply Fetched.ok_has | apply Fetched.fault_has | exact Out.fault_has | exact Fetched.wait_has | refine Out.of_next (by assumption) ?_ | refine Fetched.of_ok (by assumption) ?_ | refine Fetched.of_fault (by assumption) ?_ | intro _ _ _ _ _ _ | intro _ _ _ | intro _ _ | intro _ | apply ite_has | dsimp only | split

theorem entryFault_has {s : State} {c : Nat} {idx : Nat} {p : Nat} (hs : P s) : P (entryFault s c idx p) := by
  unfold entryFault
  try dsimp only
  with_reducible repeat' first | assumption | exact trivial | apply raiseFault_has hP | apply ite_has | dsimp only | split

theorem goTo_has {s : State} {c : Nat} {pos : Nat} (hs : P s) : P (goTo s c pos) := by
  unfold goTo
  try dsimp only
  with_reducible repeat' first | assumption | exact trivial | apply entryFault_has hP | apply setCore_has hP | apply ite_has | dsimp only | split

theorem nextEntry_has {s : State} {c : Nat} (hs : P s) : P (nextEntry s c) := by
  unfold nextEntry
  try dsimp only
  with_reducible repeat' first | assumption | exact trivial | apply goTo_has hP | apply ite_has | dsimp only | split

theorem issueAt_has {c kind : Nat} {s : State} {sel : Nat → Bool} {room : Core → Nat → Bool} {act : Nat → Nat → State}
    (hs : P s) (ha : ∀ i e, P (act i e)) : Out.Has P (issueAt c kind s sel room act) := by
  unfold issueAt
  dsimp only
  apply onCore_has
  split
  · exact hs
  split
  · exact hs
  split
  · exact entryFault_has hP hs
  split
  · exact ha _ _
  · exact hs

theorem issueJob_has {s : State} {c : Nat} {u : CoreUnit} {j : Job} {kind : Nat} {toHoop : Bool} (hs : P s) : P (issueJob s c u j kind toHoop) := by
  unfold issueJob
  try dsimp only
  with_reducible repeat' first | assumption | exact trivial | apply nextEntry_has hP | apply runReady_has hP | apply readAhead_has hP | apply modCore_has hP | intro _ _ _ _ _ _ | intro _ _ _ | intro _ _ | intro _ | apply ite_has | dsimp only | split

theorem execRunLayer_has {core : Nat} {s : State} (hs : P s) : Out.Has P (execRunLayer core s) := by
  unfold execRunLayer
  try dsimp only
  with_reducible repeat' first | assumption | exact trivial | apply issueJob_has hP | apply issueAt_has hP | apply Out.next_has | exact Out.fault_has | refine Out.of_next (by assumption) ?_ | intro _ _ _ _ _ _ | intro _ _ _ | intro _ _ | intro _ | apply ite_has | dsimp only | split

theorem issueMove_has {s : State} {c : Nat} {idx : Nat} {e : Nat} (hs : P s) : P (issueMove s c idx e) := by
  unfold issueMove
  try dsimp only
  with_reducible repeat' first | assumption | exact trivial | apply issueJob_has hP | apply readBlock_has hP | apply raiseFault_has hP | apply Acc.ok_has | apply Acc.fault_has | exact Acc.wait_has | refine Acc.of_ok (by assumption) ?_ | refine Acc.of_fault (by assumption) ?_ | apply ite_has | dsimp only | split

theorem moveIssue_has {core : Nat} {fn : Nat} {s : State} (hs : P s) : Out.Has P (moveIssue core fn s) := by
  unfold moveIssue
  try dsimp only
  with_reducible repeat' first | assumption | exact trivial | apply issueMove_has hP | apply issueAt_has hP | apply Out.next_has | exact Out.fault_has | refine Out.of_next (by assumption) ?_ | intro _ _ _ _ _ _ | intro _ _ _ | intro _ _ | intro _ | apply ite_has | dsimp only | split

theorem execMoveCopy_has {core : Nat} {s : State} (hs : P s) : Out.Has P (execMoveCopy core s) := by
  unfold execMoveCopy
  try dsimp only
  with_reducible repeat' first | assumption | exact trivial | apply moveIssue_has hP | apply Out.next_has | exact Out.fault_has | refine Out.of_next (by assumption) ?_ | apply ite_has | dsimp only | split

theorem execMoveCompress_has {core : Nat} {s : State} (hs : P s) : Out.Has P (execMoveCompress core s) := by
  unfold execMoveCompress
  try dsimp only
  with_reducible repeat' first | assumption | exact trivial | apply moveIssue_has hP | apply Out.next_has | exact Out.fault_has | refine Out.of_next (by assumption) ?_ | apply ite_has | dsimp only | split

theorem execMoveZeroRunStore_has {core : Nat} {s : State} (hs : P s) : Out.Has P (execMoveZeroRunStore core s) := by
  unfold execMoveZeroRunStore
  try dsimp only
  with_reducible repeat' first | assumption | exact trivial | apply moveIssue_has hP | apply Out.next_has | exact Out.fault_has | refine Out.of_next (by assumption) ?_ | apply ite_has | dsimp only | split

theorem execMoveMaskTranspose_has {core : Nat} {s : State} (hs : P s) : Out.Has P (execMoveMaskTranspose core s) := by
  unfold execMoveMaskTranspose
  try dsimp only
  with_reducible repeat' first | assumption | exact trivial | apply moveIssue_has hP | apply Out.next_has | exact Out.fault_has | refine Out.of_next (by assumption) ?_ | apply ite_has | dsimp only | split

theorem execMoveScatterAdd_has {core : Nat} {s : State} (hs : P s) : Out.Has P (execMoveScatterAdd core s) := by
  unfold execMoveScatterAdd
  try dsimp only
  with_reducible repeat' first | assumption | exact trivial | apply moveIssue_has hP | apply Out.next_has | exact Out.fault_has | refine Out.of_next (by assumption) ?_ | apply ite_has | dsimp only | split

theorem execMoveReduceContribution_has {core : Nat} {s : State} (hs : P s) : Out.Has P (execMoveReduceContribution core s) := by
  unfold execMoveReduceContribution
  try dsimp only
  with_reducible repeat' first | assumption | exact trivial | apply moveIssue_has hP | apply Out.next_has | exact Out.fault_has | refine Out.of_next (by assumption) ?_ | apply ite_has | dsimp only | split

theorem execMoveSelectiveFetch_has {core : Nat} {s : State} (hs : P s) : Out.Has P (execMoveSelectiveFetch core s) := by
  unfold execMoveSelectiveFetch
  try dsimp only
  with_reducible repeat' first | assumption | exact trivial | apply moveIssue_has hP | apply Out.next_has | exact Out.fault_has | refine Out.of_next (by assumption) ?_ | apply ite_has | dsimp only | split

theorem execDieDmaMoveStart_has {core : Nat} {s : State} (hs : P s) : Out.Has P (execDieDmaMoveStart core s) := by
  unfold execDieDmaMoveStart
  try dsimp only
  with_reducible repeat' first | assumption | exact trivial | apply resume_has hP | apply onCore_has | apply Out.next_has | exact Out.fault_has | refine Out.of_next (by assumption) ?_ | apply ite_has | dsimp only | split

theorem finishJob_has {s : State} {c : Nat} {u : CoreUnit} {idx : Nat} (hs : P s) : P (finishJob s c u idx) := by
  unfold finishJob
  try dsimp only
  with_reducible repeat' first | assumption | exact trivial | apply runReady_has hP | apply modCore_has hP | intro _ _ _ _ _ _ | intro _ _ _ | intro _ _ | intro _ | apply ite_has | dsimp only | split

theorem execMoveComplete_has {core : Nat} {idx : Nat} {s : State} (hs : P s) : Out.Has P (execMoveComplete core idx s) := by
  unfold execMoveComplete
  try dsimp only
  with_reducible repeat' first | assumption | exact trivial | apply finishJob_has hP | apply onCore_has | apply modCore_has hP | apply Out.next_has | exact Out.fault_has | refine Out.of_next (by assumption) ?_ | intro _ _ _ _ _ _ | intro _ _ _ | intro _ _ | intro _ | apply ite_has | dsimp only | split

theorem execHbmWriteAck_has {core : Nat} {stack : Nat} {s : State} (hs : P s) : Out.Has P (execHbmWriteAck core stack s) := by
  unfold execHbmWriteAck
  try dsimp only
  with_reducible repeat' first | assumption | exact trivial | apply onStack_has | apply onCore_has | apply modCore_has hP | apply Out.next_has | exact Out.fault_has | refine Out.of_next (by assumption) ?_ | intro _ _ _ _ _ _ | intro _ _ _ | intro _ _ | intro _ | apply ite_has | dsimp only | split

theorem execFill_has {core : Nat} {s : State} (hs : P s) : Out.Has P (execFill core s) := by
  unfold execFill
  try dsimp only
  with_reducible repeat' first | assumption | exact trivial | apply issueJob_has hP | apply issueAt_has hP | apply Out.next_has | exact Out.fault_has | refine Out.of_next (by assumption) ?_ | intro _ _ _ _ _ _ | intro _ _ _ | intro _ _ | intro _ | apply ite_has | dsimp only | split

theorem execMarkEmpty_has {core : Nat} {s : State} (hs : P s) : Out.Has P (execMarkEmpty core s) := by
  unfold execMarkEmpty
  try dsimp only
  with_reducible repeat' first | assumption | exact trivial | apply issueJob_has hP | apply issueAt_has hP | apply Out.next_has | exact Out.fault_has | refine Out.of_next (by assumption) ?_ | intro _ _ _ _ _ _ | intro _ _ _ | intro _ _ | intro _ | apply ite_has | dsimp only | split

theorem execMarkFull_has {core : Nat} {s : State} (hs : P s) : Out.Has P (execMarkFull core s) := by
  unfold execMarkFull
  try dsimp only
  with_reducible repeat' first | assumption | exact trivial | apply issueJob_has hP | apply issueAt_has hP | apply Out.next_has | exact Out.fault_has | refine Out.of_next (by assumption) ?_ | intro _ _ _ _ _ _ | intro _ _ _ | intro _ _ | intro _ | apply ite_has | dsimp only | split

theorem execCopy_has {core : Nat} {s : State} (hs : P s) : Out.Has P (execCopy core s) := by
  unfold execCopy
  try dsimp only
  with_reducible repeat' first | assumption | exact trivial | apply issueJob_has hP | apply issueAt_has hP | apply Out.next_has | exact Out.fault_has | refine Out.of_next (by assumption) ?_ | intro _ _ _ _ _ _ | intro _ _ _ | intro _ _ | intro _ | apply ite_has | dsimp only | split

theorem completeHead_has {s : State} {c : Nat} {u : CoreUnit} (hs : P s) : P (completeHead s c u) := by
  unfold completeHead
  try dsimp only
  with_reducible repeat' first | assumption | exact trivial | apply finishJob_has hP | apply ite_has | dsimp only | split

theorem execRowEngineComplete_has {core : Nat} {s : State} (hs : P s) : Out.Has P (execRowEngineComplete core s) := by
  unfold execRowEngineComplete
  try dsimp only
  with_reducible repeat' first | assumption | exact trivial | apply completeHead_has hP | apply onCore_has | apply Out.next_has | exact Out.fault_has | refine Out.of_next (by assumption) ?_ | apply ite_has | dsimp only | split

theorem vecIssue_has {core : Nat} {vop : Nat} {s : State} (hs : P s) : Out.Has P (vecIssue core vop s) := by
  unfold vecIssue
  try dsimp only
  with_reducible repeat' first | assumption | exact trivial | apply issueJob_has hP | apply issueAt_has hP | apply Out.next_has | exact Out.fault_has | refine Out.of_next (by assumption) ?_ | intro _ _ _ _ _ _ | intro _ _ _ | intro _ _ | intro _ | apply ite_has | dsimp only | split

theorem execQuantise_has {core : Nat} {s : State} (hs : P s) : Out.Has P (execQuantise core s) := by
  unfold execQuantise
  try dsimp only
  with_reducible repeat' first | assumption | exact trivial | apply vecIssue_has hP | apply Out.next_has | exact Out.fault_has | refine Out.of_next (by assumption) ?_ | apply ite_has | dsimp only | split

theorem execScaleGradient_has {core : Nat} {s : State} (hs : P s) : Out.Has P (execScaleGradient core s) := by
  unfold execScaleGradient
  try dsimp only
  with_reducible repeat' first | assumption | exact trivial | apply vecIssue_has hP | apply Out.next_has | exact Out.fault_has | refine Out.of_next (by assumption) ?_ | apply ite_has | dsimp only | split

theorem execOptimiserUpdate_has {core : Nat} {s : State} (hs : P s) : Out.Has P (execOptimiserUpdate core s) := by
  unfold execOptimiserUpdate
  try dsimp only
  with_reducible repeat' first | assumption | exact trivial | apply vecIssue_has hP | apply Out.next_has | exact Out.fault_has | refine Out.of_next (by assumption) ?_ | apply ite_has | dsimp only | split

theorem execTopK_has {core : Nat} {s : State} (hs : P s) : Out.Has P (execTopK core s) := by
  unfold execTopK
  try dsimp only
  with_reducible repeat' first | assumption | exact trivial | apply vecIssue_has hP | apply Out.next_has | exact Out.fault_has | refine Out.of_next (by assumption) ?_ | apply ite_has | dsimp only | split

theorem execRowOperation_has {core : Nat} {s : State} (hs : P s) : Out.Has P (execRowOperation core s) := by
  unfold execRowOperation
  try dsimp only
  with_reducible repeat' first | assumption | exact trivial | apply vecIssue_has hP | apply Out.next_has | exact Out.fault_has | refine Out.of_next (by assumption) ?_ | apply ite_has | dsimp only | split

theorem execVectorOpComplete_has {core : Nat} {s : State} (hs : P s) : Out.Has P (execVectorOpComplete core s) := by
  unfold execVectorOpComplete
  try dsimp only
  with_reducible repeat' first | assumption | exact trivial | apply completeHead_has hP | apply onCore_has | apply Out.next_has | exact Out.fault_has | refine Out.of_next (by assumption) ?_ | apply ite_has | dsimp only | split

theorem execFsuJob_has {core : Nat} {s : State} (hs : P s) : Out.Has P (execFsuJob core s) := by
  unfold execFsuJob
  try dsimp only
  with_reducible repeat' first | assumption | exact trivial | apply issueJob_has hP | apply issueAt_has hP | apply Out.next_has | exact Out.fault_has | refine Out.of_next (by assumption) ?_ | intro _ _ _ _ _ _ | intro _ _ _ | intro _ _ | intro _ | apply ite_has | dsimp only | split

theorem execFsuJobComplete_has {core : Nat} {s : State} (hs : P s) : Out.Has P (execFsuJobComplete core s) := by
  unfold execFsuJobComplete
  try dsimp only
  with_reducible repeat' first | assumption | exact trivial | apply completeHead_has hP | apply onCore_has | apply Out.next_has | exact Out.fault_has | refine Out.of_next (by assumption) ?_ | apply ite_has | dsimp only | split

theorem blockOn_has {s : State} {c : Nat} {idx : Nat} {e : Nat} {stage : Nat} (hs : P s) : P (blockOn s c idx e stage) := by
  unfold blockOn
  try dsimp only
  with_reducible repeat' first | assumption | exact trivial | apply modCore_has hP | intro _ _ _ _ _ _ | intro _ _ _ | intro _ _ | intro _ | apply ite_has | dsimp only | split

theorem execWaitCount_has {core : Nat} {s : State} (hs : P s) : Out.Has P (execWaitCount core s) := by
  unfold execWaitCount
  try dsimp only
  with_reducible repeat' first | assumption | exact trivial | apply blockOn_has hP | apply issueAt_has hP | apply Out.next_has | exact Out.fault_has | refine Out.of_next (by assumption) ?_ | intro _ _ _ _ _ _ | intro _ _ _ | intro _ _ | intro _ | apply ite_has | dsimp only | split

theorem execWaitCountMet_has {core : Nat} {s : State} (hs : P s) : Out.Has P (execWaitCountMet core s) := by
  unfold execWaitCountMet
  try dsimp only
  with_reducible repeat' first | assumption | exact trivial | apply nextEntry_has hP | apply onCore_has | apply Out.next_has | exact Out.fault_has | refine Out.of_next (by assumption) ?_ | apply ite_has | dsimp only | split

theorem execWaitTag_has {core : Nat} {s : State} (hs : P s) : Out.Has P (execWaitTag core s) := by
  unfold execWaitTag
  try dsimp only
  with_reducible repeat' first | assumption | exact trivial | apply blockOn_has hP | apply issueAt_has hP | apply Out.next_has | exact Out.fault_has | refine Out.of_next (by assumption) ?_ | intro _ _ _ _ _ _ | intro _ _ _ | intro _ _ | intro _ | apply ite_has | dsimp only | split

theorem execWaitTagMet_has {core : Nat} {s : State} (hs : P s) : Out.Has P (execWaitTagMet core s) := by
  unfold execWaitTagMet
  try dsimp only
  with_reducible repeat' first | assumption | exact trivial | apply nextEntry_has hP | apply onCore_has | apply Out.next_has | exact Out.fault_has | refine Out.of_next (by assumption) ?_ | apply ite_has | dsimp only | split

theorem execSignal_has {core : Nat} {s : State} (hs : P s) : Out.Has P (execSignal core s) := by
  unfold execSignal
  try dsimp only
  with_reducible repeat' first | assumption | exact trivial | apply issueAt_has hP | apply nextEntry_has hP | apply modCore_has hP | apply Out.next_has | exact Out.fault_has | refine Out.of_next (by assumption) ?_ | intro _ _ _ _ _ _ | intro _ _ _ | intro _ _ | intro _ | apply ite_has | dsimp only | split

theorem execSignalSend_has {core : Nat} {s : State} (hs : P s) : Out.Has P (execSignalSend core s) := by
  unfold execSignalSend
  try dsimp only
  with_reducible repeat' first | assumption | exact trivial | apply sendHoop_has hP | apply raiseFault_has hP | apply onCore_has | apply modCore_has hP | apply Out.next_has | exact Out.fault_has | refine Out.of_next (by assumption) ?_ | intro _ _ _ _ _ _ | intro _ _ _ | intro _ _ | intro _ | apply ite_has | dsimp only | split

theorem execOpenHoop_has {core : Nat} {s : State} (hs : P s) : Out.Has P (execOpenHoop core s) := by
  unfold execOpenHoop
  try dsimp only
  with_reducible repeat' first | assumption | exact trivial | apply blockOn_has hP | apply issueAt_has hP | apply Out.next_has | exact Out.fault_has | refine Out.of_next (by assumption) ?_ | intro _ _ _ _ _ _ | intro _ _ _ | intro _ _ | intro _ | apply ite_has | dsimp only | split

theorem execHoopOpened_has {core : Nat} {s : State} (hs : P s) : Out.Has P (execHoopOpened core s) := by
  unfold execHoopOpened
  try dsimp only
  with_reducible repeat' first | assumption | exact trivial | apply nextEntry_has hP | apply markRemote_has hP | apply onCore_has | apply setCore_has hP | apply Out.next_has | exact Out.fault_has | refine Out.of_next (by assumption) ?_ | apply ite_has | dsimp only | split

theorem execCloseHoop_has {core : Nat} {s : State} (hs : P s) : Out.Has P (execCloseHoop core s) := by
  unfold execCloseHoop
  try dsimp only
  with_reducible repeat' first | assumption | exact trivial | apply blockOn_has hP | apply issueAt_has hP | apply modCore_has hP | apply Out.next_has | exact Out.fault_has | refine Out.of_next (by assumption) ?_ | intro _ _ _ _ _ _ | intro _ _ _ | intro _ _ | intro _ | apply ite_has | dsimp only | split

theorem execCloseHoopComplete_has {core : Nat} {s : State} (hs : P s) : Out.Has P (execCloseHoopComplete core s) := by
  unfold execCloseHoopComplete
  try dsimp only
  with_reducible repeat' first | assumption | exact trivial | apply nextEntry_has hP | apply onCore_has | apply Out.next_has | exact Out.fault_has | refine Out.of_next (by assumption) ?_ | intro _ _ _ _ _ _ | intro _ _ _ | intro _ _ | intro _ | apply ite_has | dsimp only | split

theorem execHistogramArm_has {core : Nat} {s : State} (hs : P s) : Out.Has P (execHistogramArm core s) := by
  unfold execHistogramArm
  try dsimp only
  with_reducible repeat' first | assumption | exact trivial | apply issueAt_has hP | apply nextEntry_has hP | apply modCore_has hP | apply Out.next_has | exact Out.fault_has | refine Out.of_next (by assumption) ?_ | intro _ _ _ _ _ _ | intro _ _ _ | intro _ _ | intro _ | apply ite_has | dsimp only | split

theorem execHistogramStop_has {core : Nat} {s : State} (hs : P s) : Out.Has P (execHistogramStop core s) := by
  unfold execHistogramStop
  try dsimp only
  with_reducible repeat' first | assumption | exact trivial | apply issueAt_has hP | apply nextEntry_has hP | apply modCore_has hP | apply Out.next_has | exact Out.fault_has | refine Out.of_next (by assumption) ?_ | intro _ _ _ _ _ _ | intro _ _ _ | intro _ _ | intro _ | apply ite_has | dsimp only | split

theorem reapTally_has {s : State} {c : Nat} (hs : P s) : P (reapTally s c) := by
  unfold reapTally
  try dsimp only
  with_reducible repeat' first | assumption | exact trivial | apply modCore_has hP | apply foldl_has | intro _ _ _ | intro _ _ _ _ _ _ | intro _ _ | intro _ | apply ite_has | dsimp only | split

theorem issueDump_has {s : State} {c : Nat} {idx : Nat} {e : Nat} {clear : Bool} (hs : P s) : P (issueDump s c idx e clear) := by
  unfold issueDump
  try dsimp only
  with_reducible repeat' first | assumption | exact trivial | apply reapTally_has hP | apply nextEntry_has hP | apply runReady_has hP | apply modCore_has hP | intro _ _ _ _ _ _ | intro _ _ _ | intro _ _ | intro _ | apply ite_has | dsimp only | split

theorem execHistogramDump_has {core : Nat} {s : State} (hs : P s) : Out.Has P (execHistogramDump core s) := by
  unfold execHistogramDump
  try dsimp only
  with_reducible repeat' first | assumption | exact trivial | apply issueDump_has hP | apply issueAt_has hP | apply Out.next_has | exact Out.fault_has | refine Out.of_next (by assumption) ?_ | intro _ _ _ _ _ _ | intro _ _ _ | intro _ _ | intro _ | apply ite_has | dsimp only | split

theorem execHistogramDumpAndClear_has {core : Nat} {s : State} (hs : P s) : Out.Has P (execHistogramDumpAndClear core s) := by
  unfold execHistogramDumpAndClear
  try dsimp only
  with_reducible repeat' first | assumption | exact trivial | apply issueDump_has hP | apply issueAt_has hP | apply Out.next_has | exact Out.fault_has | refine Out.of_next (by assumption) ?_ | intro _ _ _ _ _ _ | intro _ _ _ | intro _ _ | intro _ | apply ite_has | dsimp only | split

theorem execTurn_has {core : Nat} {s : State} (hs : P s) : Out.Has P (execTurn core s) := by
  unfold execTurn
  try dsimp only
  with_reducible repeat' first | assumption | exact trivial | apply blockOn_has hP | apply issueAt_has hP | apply entryFault_has hP | apply Out.next_has | exact Out.fault_has | refine Out.of_next (by assumption) ?_ | intro _ _ _ _ _ _ | intro _ _ _ | intro _ _ | intro _ | apply ite_has | dsimp only | split

theorem execTurnCommitWrite_has {core : Nat} {s : State} (hs : P s) : Out.Has P (execTurnCommitWrite core s) := by
  unfold execTurnCommitWrite
  try dsimp only
  with_reducible repeat' first | assumption | exact trivial | apply raiseFault_has hP | apply onCore_has | apply modCore_has hP | apply Out.next_has | exact Out.fault_has | refine Out.of_next (by assumption) ?_ | intro _ _ _ _ _ _ | intro _ _ _ | intro _ _ | intro _ | apply ite_has | dsimp only | split

theorem branchGo_has {s : State} {c : Nat} {idx : Nat} {e : Nat} {taken : Bool} (hs : P s) : P (branchGo s c idx e taken) := by
  unfold branchGo
  try dsimp only
  with_reducible repeat' first | assumption | exact trivial | apply nextEntry_has hP | apply goTo_has hP | apply raiseFault_has hP | apply ite_has | dsimp only | split

theorem execBranchOnCount_has {core : Nat} {s : State} (hs : P s) : Out.Has P (execBranchOnCount core s) := by
  unfold execBranchOnCount
  try dsimp only
  with_reducible repeat' first | assumption | exact trivial | apply branchGo_has hP | apply issueAt_has hP | apply Out.next_has | exact Out.fault_has | refine Out.of_next (by assumption) ?_ | intro _ _ _ _ _ _ | intro _ _ _ | intro _ _ | intro _ | apply ite_has | dsimp only | split

theorem execBranchDecrement_has {core : Nat} {s : State} (hs : P s) : Out.Has P (execBranchDecrement core s) := by
  unfold execBranchDecrement
  try dsimp only
  with_reducible repeat' first | assumption | exact trivial | apply branchGo_has hP | apply issueAt_has hP | apply modCore_has hP | apply Out.next_has | exact Out.fault_has | refine Out.of_next (by assumption) ?_ | intro _ _ _ _ _ _ | intro _ _ _ | intro _ _ | intro _ | apply ite_has | dsimp only | split

theorem execLoopLoad_has {core : Nat} {s : State} (hs : P s) : Out.Has P (execLoopLoad core s) := by
  unfold execLoopLoad
  try dsimp only
  with_reducible repeat' first | assumption | exact trivial | apply issueAt_has hP | apply nextEntry_has hP | apply modCore_has hP | apply Out.next_has | exact Out.fault_has | refine Out.of_next (by assumption) ?_ | intro _ _ _ _ _ _ | intro _ _ _ | intro _ _ | intro _ | apply ite_has | dsimp only | split

theorem grantTo_has {c : Nat} {u : CoreUnit} {s : State} {idx : Nat} (hs : P s) : P (grantTo c u s idx) := by
  unfold grantTo
  try dsimp only
  with_reducible repeat' first | assumption | exact trivial | apply resume_has hP | apply ite_has | dsimp only | split

theorem execAccessGrantAfterWait_has {core : Nat} {unit : CoreUnit} {s : State} (hs : P s) : Out.Has P (execAccessGrantAfterWait core unit s) := by
  unfold execAccessGrantAfterWait
  try dsimp only
  with_reducible repeat' first | assumption | exact trivial | apply grantTo_has hP | apply reapTally_has hP | apply onCore_has | apply Out.next_has | exact Out.fault_has | refine Out.of_next (by assumption) ?_ | apply foldl_has | intro _ _ _ | apply ite_has | dsimp only | split

theorem execWatchdogExpiry_has {core : Nat} {unit : CoreUnit} {s : State} (hs : P s) : Out.Has P (execWatchdogExpiry core unit s) := by
  unfold execWatchdogExpiry
  try dsimp only
  with_reducible repeat' first | assumption | exact trivial | apply raiseFault_has hP | apply onCore_has | apply Out.next_has | exact Out.fault_has | refine Out.of_next (by assumption) ?_ | apply ite_has | dsimp only | split

theorem execCtuTranslationFill_has {core : Nat} {unit : CoreUnit} {s : State} (hs : P s) : Out.Has P (execCtuTranslationFill core unit s) := by
  unfold execCtuTranslationFill
  try dsimp only
  with_reducible repeat' first | assumption | exact trivial | apply resume_has hP | apply readAhead_has hP | apply onCore_has | apply setCore_has hP | apply Out.next_has | exact Out.fault_has | refine Out.of_next (by assumption) ?_ | intro _ _ _ _ _ _ | intro _ _ _ | intro _ _ | intro _ | apply ite_has | dsimp only | split

theorem execRemoteReadRetry_has {core : Nat} {unit : CoreUnit} {s : State} (hs : P s) : Out.Has P (execRemoteReadRetry core unit s) := by
  unfold execRemoteReadRetry
  try dsimp only
  with_reducible repeat' first | assumption | exact trivial | apply resume_has hP | apply onCore_has | apply Out.next_has | exact Out.fault_has | refine Out.of_next (by assumption) ?_ | intro _ _ _ _ _ _ | intro _ _ _ | intro _ _ | intro _ | apply ite_has | dsimp only | split

theorem execSkimDownUnconfirmed_has {core : Nat} {s : State} (hs : P s) : Out.Has P (execSkimDownUnconfirmed core s) := by
  unfold execSkimDownUnconfirmed
  try dsimp only
  with_reducible repeat' first | assumption | exact trivial | apply runJob_has hP | apply pushEvent_has hP | apply onCore_has | apply modCore_has hP | apply Out.next_has | exact Out.fault_has | refine Out.of_next (by assumption) ?_ | intro _ _ _ _ _ _ | intro _ _ _ | intro _ _ | intro _ | apply ite_has | dsimp only | split

theorem execSkimBackUnconfirmed_has {core : Nat} {s : State} (hs : P s) : Out.Has P (execSkimBackUnconfirmed core s) := by
  unfold execSkimBackUnconfirmed
  try dsimp only
  with_reducible repeat' first | assumption | exact trivial | apply raiseFault_has hP | apply onCore_has | apply Out.next_has | exact Out.fault_has | refine Out.of_next (by assumption) ?_ | apply ite_has | dsimp only | split

/-! ## Reducer -/

theorem reducerFault_has {s : State} {c : Contribution} {code : Nat} {addr : Nat} {detail : Nat} (hs : P s) : P (reducerFault s c code addr detail) := by
  unfold reducerFault
  try dsimp only
  with_reducible repeat' first | assumption | exact trivial | apply raiseFault_has hP | apply ite_has | dsimp only | split

theorem deliverRow_has {s : State} {die : Nat} {c : Contribution} {data : List Byte} (hs : P s) : P (deliverRow s die c data) := by
  unfold deliverRow
  try dsimp only
  with_reducible repeat' first | assumption | exact trivial | apply reducerFault_has hP | apply putRow_has hP | apply modCore_has hP | refine fst_of (by assumption) ?_ | intro _ _ _ _ _ _ | intro _ _ _ | intro _ _ | intro _ | apply ite_has | dsimp only | split

theorem emitResult_has {s : State} {die : Nat} {c : Contribution} {r : RedRow} {second : Bool} (hs : P s) : P (emitResult s die c r second) := by
  unfold emitResult
  try dsimp only
  with_reducible repeat' first | assumption | exact trivial | apply deliverRow_has hP | apply reductionSat_has hP | apply modDie_has hP | intro _ _ _ _ _ _ | intro _ _ _ | intro _ _ | intro _ | apply ite_has | dsimp only | split

theorem countTaken_has {s : State} {c : Contribution} (hs : P s) : P (countTaken s c) := by
  unfold countTaken
  try dsimp only
  with_reducible repeat' first | assumption | exact trivial | apply modCore_has hP | intro _ _ _ _ _ _ | intro _ _ _ | intro _ _ | intro _ | apply ite_has | dsimp only | split

theorem takeRow_has {s : State} {die : Nat} {c : Contribution} {n : Nat} (hs : P s) : P (takeRow s die c n) := by
  unfold takeRow
  try dsimp only
  with_reducible repeat' first | assumption | exact trivial | apply countTaken_has hP | apply emitResult_has hP | apply setDie_has hP | intro _ _ _ _ _ _ | intro _ _ _ | intro _ _ | intro _ | apply ite_has | dsimp only | split

theorem execReducerContribution_has {die : Nat} {k : Nat} {s : State} (hs : P s) : Out.Has P (execReducerContribution die k s) := by
  unfold execReducerContribution
  try dsimp only
  with_reducible repeat' first | assumption | exact trivial | apply takeRow_has hP | apply raiseFault_has hP | apply onDie_has | apply setDie_has hP | apply Out.next_has | exact Out.fault_has | refine Out.of_next (by assumption) ?_ | intro _ _ _ _ _ _ | intro _ _ _ | intro _ _ | intro _ | apply ite_has | dsimp only | split

end

end Sys2Proof.Machine
end

