-- ==== Sys2Proof/Laws/Control.lean ====
section
/-! SUPPORT. What every command leaves alone: the queue of waiting commands, the canonical form of memory, and the stamp where its
rules do not change it. -/

set_option linter.unusedTactic false
set_option linter.unreachableTactic false
set_option linter.unusedSectionVars false

namespace Sys2Proof.Machine

/-- A property kept by every change that leaves the queue, the form of memory and the rule of the stamp. -/
structure CtlClosed (P : State → Prop) : Prop where
  upd : ∀ {s t : State}, P s → t.pending = s.pending → (StampOk s.stamp → StampOk t.stamp) →
    (Memory.wf s.mem = true → Memory.wf t.mem = true) → P t

variable {P : State → Prop}

theorem CtlClosed.unit (hC : CtlClosed P) : UnitClosed P :=
  ⟨fun {s t} h e w => hC.upd h (show (unitCtl t).pending = (unitCtl s).pending by rw [e])
    (fun k => (show (unitCtl t).stamp = (unitCtl s).stamp by rw [e]) ▸ k) w⟩

/-- No processor holds the stamp. -/
theorem stampOk_none {t : Stamp} (h : t.holder = 0) : StampOk t :=
  ⟨by omega, fun k => by omega, fun k => by omega⟩

/-- The property holds of the state that an optional result carries. -/
def OptHas (P : State → Prop) (o : Option State) : Prop := ∀ t, o = some t → P t

theorem opt_none : OptHas P none := fun _ e => by cases e

theorem opt_some {s : State} (h : P s) : OptHas P (some s) := fun _ e => by cases e; exact h

theorem OptHas.getD {o : Option State} {s : State} (ho : OptHas P o) (h : P s) : P (o.getD s) := by
  cases o with
  | none => exact h
  | some t => exact ho t rfl

theorem foldl_fst {α β : Type} {f : State × β → α → State × β} {l : List α} {x : State × β}
    (hf : ∀ x a, P x.1 → P (f x a).1) (h : P x.1) : P (l.foldl f x).1 := by
  induction l generalizing x with
  | nil => exact h
  | cons a t ih => exact ih (hf x a h)

/-- A grant names the processor in `HOLDER`. -/
theorem grantStamp_holder (s : State) (m : Mp) (prev : Option Mp) : (grantStamp s m prev).stamp.holder = mpCode m := by
  have hr : ∀ (s : State) (k : Nat), (raiseAlarm s k).stamp = s.stamp := by
    intro s k
    have e : (refreshWake (refreshAlert (alertConds s) (setAlarm s k))).stamp = s.stamp := by
      unfold refreshWake refreshAlert setAlarm
      dsimp only
      repeat' split
      all_goals rfl
    unfold raiseAlarm signalVector
    dsimp only
    repeat' split
    all_goals exact e
  unfold grantStamp
  dsimp only
  split
  · rw [hr]; cases m <;> rfl
  · cases m <;> rfl

section
variable (hC : CtlClosed P)
include hC

theorem set_mem {s : State} {x0} (hw : Memory.wf s.mem = true → Memory.wf x0 = true) (h : P s) : P { s with mem := x0 } :=
  hC.upd h rfl id hw
theorem set_full {s : State} {x0} (h : P s) : P { s with full := x0 } := hC.upd h rfl id id
theorem set_errOne {s : State} {x0} (h : P s) : P { s with errOne := x0 } := hC.upd h rfl id id
theorem set_scrubNext {s : State} {x0} (h : P s) : P { s with scrubNext := x0 } := hC.upd h rfl id id
theorem set_spares {s : State} {x0} (h : P s) : P { s with spares := x0 } := hC.upd h rfl id id
theorem set_fuses {s : State} {x0} (h : P s) : P { s with fuses := x0 } := hC.upd h rfl id id
theorem set_cores {s : State} {x0} (h : P s) : P { s with cores := x0 } := hC.upd h rfl id id
theorem set_dies {s : State} {x0} (h : P s) : P { s with dies := x0 } := hC.upd h rfl id id
theorem set_photonics {s : State} {x0} (h : P s) : P { s with photonics := x0 } := hC.upd h rfl id id
theorem set_hubPhases {s : State} {x0} (h : P s) : P { s with hubPhases := x0 } := hC.upd h rfl id id
theorem set_hubTemps {s : State} {x0} (h : P s) : P { s with hubTemps := x0 } := hC.upd h rfl id id
theorem set_moduleId {s : State} {x0} (h : P s) : P { s with moduleId := x0 } := hC.upd h rfl id id
theorem set_forwards {s : State} {x0} (h : P s) : P { s with forwards := x0 } := hC.upd h rfl id id
theorem set_partitions {s : State} {x0} (h : P s) : P { s with partitions := x0 } := hC.upd h rfl id id
theorem set_windows {s : State} {x0} (h : P s) : P { s with windows := x0 } := hC.upd h rfl id id
theorem set_works {s : State} {x0} (h : P s) : P { s with works := x0 } := hC.upd h rfl id id
theorem set_recoveries {s : State} {x0} (h : P s) : P { s with recoveries := x0 } := hC.upd h rfl id id
theorem set_partLog {s : State} {x0} (h : P s) : P { s with partLog := x0 } := hC.upd h rfl id id
theorem set_cmds {s : State} {x0} (h : P s) : P { s with cmds := x0 } := hC.upd h rfl id id
theorem set_ledger {s : State} {x0} (h : P s) : P { s with ledger := x0 } := hC.upd h rfl id id
theorem set_hbmLost {s : State} {x0} (h : P s) : P { s with hbmLost := x0 } := hC.upd h rfl id id
theorem set_channels {s : State} {x0} (h : P s) : P { s with channels := x0 } := hC.upd h rfl id id
theorem set_evq {s : State} {x0} (h : P s) : P { s with evq := x0 } := hC.upd h rfl id id
theorem set_alarms {s : State} {x0} (h : P s) : P { s with alarms := x0 } := hC.upd h rfl id id
theorem set_msix {s : State} {x0} (h : P s) : P { s with msix := x0 } := hC.upd h rfl id id
theorem set_endpointUp {s : State} {x0} (h : P s) : P { s with endpointUp := x0 } := hC.upd h rfl id id
theorem set_perstN {s : State} {x0} (h : P s) : P { s with perstN := x0 } := hC.upd h rfl id id
theorem set_l0 {s : State} {x0} (h : P s) : P { s with l0 := x0 } := hC.upd h rfl id id
theorem set_bar2 {s : State} {x0} (h : P s) : P { s with bar2 := x0 } := hC.upd h rfl id id
theorem set_pdSelect {s : State} {x0} (h : P s) : P { s with pdSelect := x0 } := hC.upd h rfl id id
theorem set_reproducible {s : State} {x0} (h : P s) : P { s with reproducible := x0 } := hC.upd h rfl id id
theorem set_reproWait {s : State} {x0} (h : P s) : P { s with reproWait := x0 } := hC.upd h rfl id id
theorem set_stamp {s : State} {x0} (hx : StampOk s.stamp → StampOk x0) (h : P s) : P { s with stamp := x0 } := hC.upd h rfl hx id
theorem set_assay {s : State} {x0} (h : P s) : P { s with assay := x0 } := hC.upd h rfl id id
theorem set_boot {s : State} {x0} (h : P s) : P { s with boot := x0 } := hC.upd h rfl id id
theorem set_smbus {s : State} {x0} (h : P s) : P { s with smbus := x0 } := hC.upd h rfl id id
theorem set_spdm {s : State} {x0} (h : P s) : P { s with spdm := x0 } := hC.upd h rfl id id
theorem set_rind {s : State} {x0} (h : P s) : P { s with rind := x0 } := hC.upd h rfl id id
theorem set_corePd {s : State} {x0} (h : P s) : P { s with corePd := x0 } := hC.upd h rfl id id
theorem set_diePd {s : State} {x0} (h : P s) : P { s with diePd := x0 } := hC.upd h rfl id id
theorem set_photonicPd {s : State} {x0} (h : P s) : P { s with photonicPd := x0 } := hC.upd h rfl id id
theorem set_modulePd {s : State} {x0} (h : P s) : P { s with modulePd := x0 } := hC.upd h rfl id id
theorem set_pads {s : State} {x0} (h : P s) : P { s with pads := x0 } := hC.upd h rfl id id
theorem set_meter {s : State} {x0} (h : P s) : P { s with meter := x0 } := hC.upd h rfl id id
theorem set_m3 {s : State} {x0} (h : P s) : P { s with m3 := x0 } := hC.upd h rfl id id
theorem set_restarted {s : State} {x0} (h : P s) : P { s with restarted := x0 } := hC.upd h rfl id id
theorem set_errOne_errMany {s : State} {x0 x1} (h : P s) : P { s with errOne := x0, errMany := x1 } := hC.upd h rfl id id
theorem set_errOne_errFound {s : State} {x0 x1} (h : P s) : P { s with errOne := x0, errFound := x1 } := hC.upd h rfl id id
theorem set_dies_routes {s : State} {x0 x1} (h : P s) : P { s with dies := x0, routes := x1 } := hC.upd h rfl id id
theorem set_hubThrottled_hubPhaseLost {s : State} {x0 x1} (h : P s) : P { s with hubThrottled := x0, hubPhaseLost := x1 } := hC.upd h rfl id id
theorem set_retiredLinks_partLog {s : State} {x0 x1} (h : P s) : P { s with retiredLinks := x0, partLog := x1 } := hC.upd h rfl id id
theorem set_ledger_hbmLost {s : State} {x0 x1} (h : P s) : P { s with ledger := x0, hbmLost := x1 } := hC.upd h rfl id id
theorem set_endpointUp_modulePd {s : State} {x0 x1} (h : P s) : P { s with endpointUp := x0, modulePd := x1 } := hC.upd h rfl id id
theorem set_smbus_spdm {s : State} {x0 x1} (h : P s) : P { s with smbus := x0, spdm := x1 } := hC.upd h rfl id id
theorem set_smbus_rind {s : State} {x0 x1} (h : P s) : P { s with smbus := x0, rind := x1 } := hC.upd h rfl id id
theorem set_rind_restarted {s : State} {x0 x1} (h : P s) : P { s with rind := x0, restarted := x1 } := hC.upd h rfl id id
theorem set_refCount_acc40_rind {s : State} {x0 x1 x2} (h : P s) : P { s with refCount := x0, acc40 := x1, rind := x2 } := hC.upd h rfl id id
theorem set_poison_errOne_errMany {s : State} {x0 x1 x2} (h : P s) : P { s with poison := x0, errOne := x1, errMany := x2 } := hC.upd h rfl id id
theorem set_errOne_scrubNext_ceHistory {s : State} {x0 x1 x2} (h : P s) : P { s with errOne := x0, scrubNext := x1, ceHistory := x2 } := hC.upd h rfl id id
theorem set_hbmStacks_boot_pads {s : State} {x0 x1 x2} (h : P s) : P { s with hbmStacks := x0, boot := x1, pads := x2 } := hC.upd h rfl id id
theorem set_works_cmds_reproWait {s : State} {x0 x1 x2} (h : P s) : P { s with works := x0, cmds := x1, reproWait := x2 } := hC.upd h rfl id id
theorem set_endpointUp_smbus_modulePd {s : State} {x0 x1 x2} (h : P s) : P { s with endpointUp := x0, smbus := x1, modulePd := x2 } := hC.upd h rfl id id
theorem set_boot_rind_pads {s : State} {x0 x1 x2} (h : P s) : P { s with boot := x0, rind := x1, pads := x2 } := hC.upd h rfl id id
theorem set_mem_poison_errOne_errMany {s : State} {x0 x1 x2 x3} (hw : Memory.wf s.mem = true → Memory.wf x0 = true) (h : P s) : P { s with mem := x0, poison := x1, errOne := x2, errMany := x3 } :=
  hC.upd h rfl id hw
theorem set_cores_dies_partitions_partLog {s : State} {x0 x1 x2 x3} (h : P s) : P { s with cores := x0, dies := x1, partitions := x2, partLog := x3 } := hC.upd h rfl id id
theorem set_endpointUp_perstN_legacy_boot {s : State} {x0 x1 x2 x3} (h : P s) : P { s with endpointUp := x0, perstN := x1, legacy := x2, boot := x3 } := hC.upd h rfl id id
theorem set_mem_full_poison_errOne_errMany_errFound {s : State} {x0 x1 x2 x3 x4 x5} (hw : Memory.wf s.mem = true → Memory.wf x0 = true) (h : P s) : P { s with mem := x0, full := x1, poison := x2, errOne := x3, errMany := x4, errFound := x5 } :=
  hC.upd h rfl id hw
theorem set_mem_poison_errOne_errMany_works_m3 {s : State} {x0 x1 x2 x3 x4 x5} (hw : Memory.wf s.mem = true → Memory.wf x0 = true) (h : P s) : P { s with mem := x0, poison := x1, errOne := x2, errMany := x3, works := x4, m3 := x5 } :=
  hC.upd h rfl id hw
theorem set_ledger_channels_evq_msix_endpointUp_l0_bar2 {s : State} {x0 x1 x2 x3 x4 x5 x6} (h : P s) : P { s with ledger := x0, channels := x1, evq := x2, msix := x3, endpointUp := x4, l0 := x5, bar2 := x6 } := hC.upd h rfl id id

/-! ## Ops -/

theorem setPd_keeps {s : State} {k : Nat} {x : Photonic} (hs : P s) : P (setPd s k x) := by
  unfold setPd
  try dsimp only
  with_reducible repeat' first | assumption | exact trivial | apply ite_has | dsimp only | split | apply set_photonics hC

theorem modPd_keeps {s : State} {k : Nat} {f : Photonic → Photonic} (hs : P s) : P (modPd s k f) := by
  unfold modPd
  try dsimp only
  with_reducible repeat' first | assumption | exact trivial | apply setPd_keeps hC | apply ite_has | dsimp only | split

theorem setCh_keeps {s : State} {k : Nat} {x : Channel} (hs : P s) : P (setCh s k x) := by
  unfold setCh
  try dsimp only
  with_reducible repeat' first | assumption | exact trivial | apply ite_has | dsimp only | split | apply set_channels hC

theorem modCh_keeps {s : State} {k : Nat} {f : Channel → Channel} (hs : P s) : P (modCh s k f) := by
  unfold modCh
  try dsimp only
  with_reducible repeat' first | assumption | exact trivial | apply setCh_keeps hC | apply ite_has | dsimp only | split

theorem setPart_keeps {s : State} {p : Nat} {x : Partition} (hs : P s) : P (setPart s p x) := by
  unfold setPart
  try dsimp only
  with_reducible repeat' first | assumption | exact trivial | apply ite_has | dsimp only | split | apply set_partitions hC

theorem modPart_keeps {s : State} {p : Nat} {f : Partition → Partition} (hs : P s) : P (modPart s p f) := by
  unfold modPart
  try dsimp only
  with_reducible repeat' first | assumption | exact trivial | apply setPart_keeps hC | apply ite_has | dsimp only | split

theorem setPower_keeps {s : State} {d : Domain} {p : Power} (hs : P s) : P (setPower s d p) := by
  unfold setPower
  try dsimp only
  with_reducible repeat' first | assumption | exact trivial | apply ite_has | dsimp only | split | apply set_corePd hC | apply set_diePd hC | apply set_photonicPd hC | apply set_modulePd hC

theorem modPower_keeps {s : State} {d : Domain} {f : Power → Power} (hs : P s) : P (modPower s d f) := by
  unfold modPower
  try dsimp only
  with_reducible repeat' first | assumption | exact trivial | apply setPower_keeps hC | apply ite_has | dsimp only | split

theorem setAlarm_keeps {s : State} {bit : Nat} (hs : P s) : P (setAlarm s bit) := by
  unfold setAlarm
  try dsimp only
  with_reducible repeat' first | assumption | exact trivial | apply ite_has | dsimp only | split | apply set_alarms hC

/-! ## Flags -/

theorem setPending_keeps {s : State} {v : Nat} {on : Bool} (hs : P s) : P (setPending s v on) := by
  unfold setPending
  try dsimp only
  with_reducible repeat' first | assumption | exact trivial | apply ite_has | dsimp only | split | apply set_msix hC

theorem signalVector_keeps {s : State} {v : Nat} (hs : P s) : P (signalVector s v) := by
  unfold signalVector
  try dsimp only
  with_reducible repeat' first | assumption | exact trivial | apply setPending_keeps hC | apply hostWrite_has hC.unit | apply ite_has | dsimp only | split

theorem refreshAlert_keeps {old : Nat} {s : State} (hs : P s) : P (refreshAlert old s) := by
  unfold refreshAlert
  try dsimp only
  with_reducible repeat' first | assumption | exact trivial | apply ite_has | dsimp only | split | apply set_smbus hC

theorem refreshWake_keeps {s : State} (hs : P s) : P (refreshWake s) := by
  unfold refreshWake
  try dsimp only
  with_reducible repeat' first | assumption | exact trivial | apply ite_has | dsimp only | split | apply set_rind hC

theorem raiseAlarm_keeps {s : State} {bit : Nat} (hs : P s) : P (raiseAlarm s bit) := by
  unfold raiseAlarm
  try dsimp only
  with_reducible repeat' first | assumption | exact trivial | apply refreshWake_keeps hC | apply refreshAlert_keeps hC | apply signalVector_keeps hC | apply setAlarm_keeps hC | apply ite_has | dsimp only | split

theorem clearAlarms_keeps {s : State} {mask : Word} (hs : P s) : P (clearAlarms s mask) := by
  unfold clearAlarms
  try dsimp only
  with_reducible repeat' first | assumption | exact trivial | apply refreshWake_keeps hC | apply ite_has | dsimp only | split | apply set_alarms hC

theorem auxPwrClear_keeps {s : State} {d : Nat} {m : Nat} (hs : P s) : P (auxPwrClear s d m) := by
  unfold auxPwrClear
  try dsimp only
  with_reducible repeat' first | assumption | exact trivial | apply modPd_keeps hC | intro _ _ _ _ _ _ | intro _ _ _ | intro _ _ | intro _ | apply ite_has | dsimp only | split | apply set_hubThrottled_hubPhaseLost hC

/-! ## Service -/

theorem applyUpsets_keeps {s : State} {us : List Upset} (hs : P s) : P (applyUpsets s us) := by
  unfold applyUpsets
  try dsimp only
  with_reducible repeat' first | assumption | exact trivial | apply foldl_has | intro _ _ _ | intro _ _ _ _ _ _ | intro _ _ | intro _ | apply ite_has | dsimp only | split | apply set_errOne_errMany hC | apply set_errOne_errFound hC

theorem visitRow_keeps {s : State} {c : Nat} {row : Nat} (hs : P s) : P (visitRow s c row) := by
  unfold visitRow
  try dsimp only
  with_reducible repeat' first | assumption | exact trivial | apply noteErrors_has hC.unit | apply markPoison_has hC.unit | apply weightPoisoned_has hC.unit | apply modCore_has hC.unit | apply foldl_has | intro _ _ _ | intro _ _ _ _ _ _ | intro _ _ | intro _ | apply ite_has | dsimp only | split | apply set_errOne hC

theorem execScrubVisit_keeps {core : Nat} {upsets : List Upset} {s : State} (hs : P s) : Out.Has P (execScrubVisit core upsets s) := by
  unfold execScrubVisit
  try dsimp only
  with_reducible repeat' first | assumption | exact trivial | apply visitRow_keeps hC | apply applyUpsets_keeps hC | apply onCore_has | apply modCore_has hC.unit | apply Out.next_has | exact Out.fault_has | refine Out.of_next (by assumption) ?_ | intro _ _ _ _ _ _ | intro _ _ _ | intro _ _ | intro _ | apply ite_has | dsimp only | split | apply set_scrubNext hC

theorem spareRow_keeps {s : State} {c : Nat} {st : Nat} {r : Nat} (hs : P s) : P (spareRow s c st r) := by
  unfold spareRow
  try dsimp only
  with_reducible repeat' first | assumption | exact trivial | apply markPoison_has hC.unit | apply weightPoisoned_has hC.unit | apply modCore_has hC.unit | apply foldl_has | intro _ _ _ | intro _ _ _ _ _ _ | intro _ _ | intro _ | apply ite_has | dsimp only | split | apply set_errOne_scrubNext_ceHistory hC | apply set_spares hC

theorem execSpareCopy_keeps {core : Nat} {store : Nat} {row : Nat} {s : State} (hs : P s) : Out.Has P (execSpareCopy core store row s) := by
  unfold execSpareCopy
  try dsimp only
  with_reducible repeat' first | assumption | exact trivial | apply spareRow_keeps hC | apply onCore_has | apply modCore_has hC.unit | apply Out.next_has | exact Out.fault_has | refine Out.of_next (by assumption) ?_ | intro _ _ _ _ _ _ | intro _ _ _ | intro _ _ | intro _ | apply ite_has | dsimp only | split

theorem execHbmPatrolScrub_keeps {stack : Nat} {upsets : List Upset} {s : State} (hs : P s) : Out.Has P (execHbmPatrolScrub stack upsets s) := by
  unfold execHbmPatrolScrub
  try dsimp only
  with_reducible repeat' first | assumption | exact trivial | apply applyUpsets_keeps hC | apply logPoison_has hC.unit | apply takeFree_has hC.unit | apply onStack_has | apply modStack_has hC.unit | apply Out.next_has | exact Out.fault_has | refine Out.of_next (by assumption) ?_ | refine snd_of (by assumption) ?_ | apply foldl_has | intro _ _ _ | intro _ _ _ _ _ _ | intro _ _ | intro _ | apply ite_has | dsimp only | split | apply set_poison_errOne_errMany hC

theorem execHbmSoftRepair_keeps {addr : Nat} {s : State} (hs : P s) : Out.Has P (execHbmSoftRepair addr s) := by
  unfold execHbmSoftRepair
  try dsimp only
  with_reducible repeat' first | assumption | exact trivial | apply logWords_has hC.unit | apply modStack_has hC.unit | apply Out.next_has | exact Out.fault_has | refine Out.of_next (by assumption) ?_ | apply foldl_has | intro _ _ _ | intro _ _ _ _ _ _ | intro _ _ | intro _ | apply ite_has | dsimp only | split | apply set_poison_errOne_errMany hC

theorem hardRepair_keeps {s : State} (hs : P s) : P (hardRepair s) := by
  unfold hardRepair
  try dsimp only
  with_reducible repeat' first | assumption | exact trivial | apply modStack_has hC.unit | apply foldl_has | intro _ _ _ | intro _ _ _ _ _ _ | intro _ _ | intro _ | apply ite_has | dsimp only | split

theorem zeroPage_keeps {s : State} {pg : Nat} (hs : P s) : P (zeroPage s pg) := by
  unfold zeroPage
  try dsimp only
  with_reducible repeat' first | assumption | exact trivial | exact fun w => wf_filter _ w | exact fun w => wf_memWrite _ _ w | intro _ _ _ _ _ _ | intro _ _ _ | intro _ _ | intro _ | apply ite_has | dsimp only | split | apply set_mem_poison_errOne_errMany hC

theorem execPageZeroiseDone_keeps {stack : Nat} {s : State} (hs : P s) : Out.Has P (execPageZeroiseDone stack s) := by
  unfold execPageZeroiseDone
  try dsimp only
  with_reducible repeat' first | assumption | exact trivial | apply zeroPage_keeps hC | apply onStack_has | apply modStack_has hC.unit | apply Out.next_has | exact Out.fault_has | refine Out.of_next (by assumption) ?_ | intro _ _ _ _ _ _ | intro _ _ _ | intro _ _ | intro _ | apply ite_has | dsimp only | split

/-! ## Link -/

theorem rerouteOne_keeps {s : State} {part : Nat} {p : Packet} (hs : P s) : P (rerouteOne s part p) := by
  unfold rerouteOne
  try dsimp only
  with_reducible repeat' first | assumption | exact trivial | apply putTrack_has hC.unit | apply queuePacket_has hC.unit | apply modCore_has hC.unit | intro _ _ _ _ _ _ | intro _ _ _ | intro _ _ | intro _ | apply ite_has | dsimp only | split | apply set_forwards hC

theorem leaveUp_keeps {s : State} {port : Nat} {link : LinkState} (hs : P s) : P (leaveUp s port link) := by
  unfold leaveUp
  try dsimp only
  with_reducible repeat' first | assumption | exact trivial | apply rerouteOne_keeps hC | apply modPort_has hC.unit | apply setPort_has hC.unit | apply foldl_has | intro _ _ _ | intro _ _ _ _ _ _ | intro _ _ | intro _ | apply ite_has | dsimp only | split | apply set_partLog hC

theorem goDown_keeps {s : State} {port : Nat} (hs : P s) : P (goDown s port) := by
  unfold goDown
  try dsimp only
  with_reducible repeat' first | assumption | exact trivial | apply leaveUp_keeps hC | apply ite_has | dsimp only | split

theorem settleRecords_keeps {s : State} {port : Nat} (hs : P s) : P (settleRecords s port) := by
  unfold settleRecords
  try dsimp only
  with_reducible repeat' first | assumption | exact trivial | apply goDown_keeps hC | apply ite_has | dsimp only | split

theorem execFlitTransmit_keeps {port : Nat} {s : State} (hs : P s) : Out.Has P (execFlitTransmit port s) := by
  unfold execFlitTransmit
  try dsimp only
  with_reducible repeat' first | assumption | exact trivial | apply settleRecords_keeps hC | apply onPort_has | apply modPort_has hC.unit | apply Out.next_has | exact Out.fault_has | refine Out.of_next (by assumption) ?_ | apply ite_has | dsimp only | split

theorem execRecordCloseEarly_keeps {port : Nat} {s : State} (hs : P s) : Out.Has P (execRecordCloseEarly port s) := by
  unfold execRecordCloseEarly
  try dsimp only
  with_reducible repeat' first | assumption | exact trivial | apply settleRecords_keeps hC | apply onPort_has | apply setPort_has hC.unit | apply Out.next_has | exact Out.fault_has | refine Out.of_next (by assumption) ?_ | apply ite_has | dsimp only | split

theorem settleResends_keeps {s : State} {port : Nat} (hs : P s) : P (settleResends s port) := by
  unfold settleResends
  try dsimp only
  with_reducible repeat' first | assumption | exact trivial | apply goDown_keeps hC | apply ite_has | dsimp only | split

theorem execReplayTimeout_keeps {port : Nat} {s : State} (hs : P s) : Out.Has P (execReplayTimeout port s) := by
  unfold execReplayTimeout
  try dsimp only
  with_reducible repeat' first | assumption | exact trivial | apply settleResends_keeps hC | apply onPort_has | apply modPort_has hC.unit | apply Out.next_has | exact Out.fault_has | refine Out.of_next (by assumption) ?_ | apply ite_has | dsimp only | split

theorem execFrameReceive_keeps {port : Nat} {frame : List Container} {s : State} (hs : P s) : Out.Has P (execFrameReceive port frame s) := by
  unfold execFrameReceive
  try dsimp only
  with_reducible repeat' first | assumption | exact trivial | apply settleResends_keeps hC | apply goDown_keeps hC | apply onPort_has | apply setPort_has hC.unit | apply Out.next_has | exact Out.fault_has | refine Out.of_next (by assumption) ?_ | apply foldl_has | intro _ _ _ | intro _ _ _ _ _ _ | intro _ _ | intro _ | apply ite_has | dsimp only | split

/-! ## Sequencer -/

theorem serveCore_keeps {s : State} {c : Nat} (hs : P s) : OptHas P (serveCore s c) := by
  unfold serveCore
  try dsimp only
  with_reducible repeat' first | assumption | exact trivial | apply settle_has hC.unit | apply runTurn_has hC.unit | apply Mid.ok_has | apply Mid.wait_has | apply Mid.fault_has | refine Mid.of_ok (by assumption) ?_ | refine Mid.of_wait (by assumption) ?_ | refine Mid.of_fault (by assumption) ?_ | apply opt_none | apply opt_some | apply OptHas.getD | apply ite_has | dsimp only | split

theorem holdBack_keeps {s : State} {c : Nat} (hs : P s) : P (holdBack s c) := by
  unfold holdBack
  try dsimp only
  with_reducible repeat' first | assumption | exact trivial | apply settle_has hC.unit | apply runTurn_has hC.unit | apply Mid.ok_has | apply Mid.wait_has | apply Mid.fault_has | refine Mid.of_ok (by assumption) ?_ | refine Mid.of_wait (by assumption) ?_ | refine Mid.of_fault (by assumption) ?_ | apply ite_has | dsimp only | split

theorem serveFirst_keeps {d : Nat} {l : List Nat} : ∀ {s : State}, P s → P (serveFirst d l s) := by
  induction l with
  | nil => exact fun hs => hs
  | cons c cs ih =>
    intro s hs
    unfold serveFirst
    split
    · exact modDie_has hC.unit (serveCore_keeps hC hs _ (by assumption))
    · exact ih (holdBack_keeps hC hs)

theorem serveDie_keeps {s : State} {d : Nat} (hs : P s) : P (serveDie s d) := by
  unfold serveDie
  try dsimp only
  with_reducible repeat' first | assumption | exact trivial | apply serveFirst_keeps hC | apply ite_has | dsimp only | split

theorem serveDies_keeps {s : State} (hs : P s) : P (serveDies s) := by
  unfold serveDies
  try dsimp only
  with_reducible repeat' first | assumption | exact trivial | apply serveDie_keeps hC | apply foldl_has | intro _ _ _ | intro _ _ _ _ _ _ | intro _ _ | intro _ | apply ite_has | dsimp only | split

theorem writeCommit_keeps {s : State} {c : Nat} {b : SeqBlock} (hs : P s) : P (writeCommit s c b) := by
  unfold writeCommit
  try dsimp only
  with_reducible repeat' first | assumption | exact trivial | apply putRow_has hC.unit | refine fst_of (by assumption) ?_ | apply ite_has | dsimp only | split

/-! ## Packets -/

theorem execPacketRoute_keeps {core : Nat} {unit : CoreUnit} {s : State} (hs : P s) : Out.Has P (execPacketRoute core unit s) := by
  unfold execPacketRoute
  try dsimp only
  with_reducible repeat' first | assumption | exact trivial | apply queuePacket_has hC.unit | apply raiseFault_has hC.unit | apply onCore_has | apply setCore_has hC.unit | apply Out.next_has | exact Out.fault_has | refine Out.of_next (by assumption) ?_ | intro _ _ _ _ _ _ | intro _ _ _ | intro _ _ | intro _ | apply ite_has | dsimp only | split

theorem execRouteEntryFill_keeps {die : Nat} {id : Nat} {s : State} (hs : P s) : Out.Has P (execRouteEntryFill die id s) := by
  unfold execRouteEntryFill
  try dsimp only
  with_reducible repeat' first | assumption | exact trivial | apply onDie_has | apply modDie_has hC.unit | apply Out.next_has | exact Out.fault_has | refine Out.of_next (by assumption) ?_ | intro _ _ _ _ _ _ | intro _ _ _ | intro _ _ | intro _ | apply ite_has | dsimp only | split

theorem tookPacket_keeps {s : State} {port : Nat} {vc : Nat} {rx : List (List Byte)} {freed : Nat} (hs : P s) : P (tookPacket s port vc rx freed) := by
  unfold tookPacket
  try dsimp only
  with_reducible repeat' first | assumption | exact trivial | apply modPort_has hC.unit | intro _ _ _ _ _ _ | intro _ _ _ | intro _ _ | intro _ | apply ite_has | dsimp only | split

theorem dropCount_keeps {s : State} {port : Nat} (hs : P s) : P (dropCount s port) := by
  unfold dropCount
  try dsimp only
  with_reducible repeat' first | assumption | exact trivial | apply modPort_has hC.unit | apply ite_has | dsimp only | split

theorem deliverPacket_keeps {s : State} {port : Nat} {p : Packet} (hs : P s) : P (deliverPacket s port p) := by
  unfold deliverPacket
  try dsimp only
  with_reducible repeat' first | assumption | exact trivial | apply countRefused_has hC.unit | apply answerPacket_has hC.unit | apply putTrack_has hC.unit | apply modCore_has hC.unit | apply foldl_has | intro _ _ _ | intro _ _ _ _ _ _ | intro _ _ | intro _ | apply ite_has | dsimp only | split

theorem discardPacket_keeps {s : State} {port : Nat} {p : Packet} (hs : P s) : P (discardPacket s port p) := by
  unfold discardPacket
  try dsimp only
  with_reducible repeat' first | assumption | exact trivial | apply dropCount_keeps hC | apply answerPacket_has hC.unit | apply ite_has | dsimp only | split

theorem discardBuffer_keeps {port vc n : Nat} : ∀ {s : State}, P s → P (discardBuffer port vc n s) := by
  induction n with
  | zero => exact fun h => h
  | succ n ih =>
    intro s hs
    unfold discardBuffer
    dsimp only
    split
    · exact ih (ite_has (tookPacket_keeps hC hs) (discardPacket_keeps hC (tookPacket_keeps hC hs)))
    · exact hs

theorem discardHeld_keeps {s : State} {port : Nat} (hs : P s) : P (discardHeld s port) := by
  unfold discardHeld
  try dsimp only
  with_reducible repeat' first | assumption | exact trivial | apply discardBuffer_keeps hC | apply foldl_has | intro _ _ _ | intro _ _ _ _ _ _ | intro _ _ | intro _ | apply ite_has | dsimp only | split

theorem forwardPacket_keeps {s : State} {port : Nat} {p : Packet} (hs : P s) : P (forwardPacket s port p) := by
  unfold forwardPacket
  try dsimp only
  with_reducible repeat' first | assumption | exact trivial | apply dropCount_keeps hC | apply sendUnreachable_has hC.unit | apply queuePacket_has hC.unit | apply ite_has | dsimp only | split | apply set_forwards hC

theorem execPacketArrival_keeps {port : Nat} {vc : Nat} {s : State} (hs : P s) : Out.Has P (execPacketArrival port vc s) := by
  unfold execPacketArrival
  try dsimp only
  with_reducible repeat' first | assumption | exact trivial | apply forwardPacket_keeps hC | apply discardPacket_keeps hC | apply deliverPacket_keeps hC | apply dropCount_keeps hC | apply tookPacket_keeps hC | apply answerPacket_has hC.unit | apply onPort_has | apply Out.next_has | exact Out.fault_has | refine Out.of_next (by assumption) ?_ | apply ite_has | dsimp only | split

theorem execForwardTimeout_keeps {port : Nat} {vc : Nat} {s : State} (hs : P s) : Out.Has P (execForwardTimeout port vc s) := by
  unfold execForwardTimeout
  try dsimp only
  with_reducible repeat' first | assumption | exact trivial | apply dropCount_keeps hC | apply sendUnreachable_has hC.unit | apply onPort_has | apply Out.next_has | exact Out.fault_has | refine Out.of_next (by assumption) ?_ | intro _ _ _ _ _ _ | intro _ _ _ | intro _ _ | intro _ | apply ite_has | dsimp only | split | apply set_forwards hC

theorem retryForwards_keeps {s : State} (hs : P s) : P (retryForwards s) := by
  unfold retryForwards
  try dsimp only
  with_reducible repeat' first | assumption | exact trivial | apply queuePacket_has hC.unit | apply foldl_has | intro _ _ _ | intro _ _ _ _ _ _ | intro _ _ | intro _ | apply ite_has | dsimp only | split | apply set_forwards hC

theorem execAppliedResponseSend_keeps {k : Nat} {s : State} (hs : P s) : Out.Has P (execAppliedResponseSend k s) := by
  unfold execAppliedResponseSend
  try dsimp only
  with_reducible repeat' first | assumption | exact trivial | apply sendAnswer_has hC.unit | apply Out.next_has | exact Out.fault_has | refine Out.of_next (by assumption) ?_ | apply ite_has | dsimp only | split

theorem nextResponse_keeps {s : State} {port op : Nat} (hs : P s) : ∀ p t, nextResponse s port op = some (p, t) → P t := by
  intro p t e
  unfold nextResponse at e
  dsimp only at e
  split at e
  · split at e
    · cases e; exact tookPacket_keeps hC hs
    · cases e
  · cases e

theorem onResponse_keeps {port op : Nat} {s : State} {act : State → Nat → CoreUnit → Nat → Packet → State} (hs : P s)
    (ha : ∀ s c u i p, P s → P (act s c u i p)) : Out.Has P (onResponse port op s act) := by
  unfold onResponse
  apply onPort_has
  split
  · rename_i pk s1 e
    have h1 := nextResponse_keeps hC hs _ _ e
    split
    · split
      · exact ha _ _ _ _ _ h1
      · exact h1
    · exact h1
  · exact hs

theorem execAppliedResponse_keeps {port : Nat} {s : State} (hs : P s) : Out.Has P (execAppliedResponse port s) := by
  unfold execAppliedResponse
  try dsimp only
  with_reducible repeat' first | assumption | exact trivial | apply onResponse_keeps hC | apply modJob_has hC.unit | apply modCore_has hC.unit | apply Out.next_has | exact Out.fault_has | refine Out.of_next (by assumption) ?_ | intro _ _ _ _ _ _ | intro _ _ _ | intro _ _ | intro _ | apply ite_has | dsimp only | split

theorem responseFault_keeps {s : State} {c : Nat} {u : CoreUnit} {idx : Nat} {code : Nat} (hs : P s) : P (responseFault s c u idx code) := by
  unfold responseFault
  try dsimp only
  with_reducible repeat' first | assumption | exact trivial | apply raiseFault_has hC.unit | apply takeFree_has hC.unit | refine snd_of (by assumption) ?_ | intro _ _ _ _ _ _ | intro _ _ _ | intro _ _ | intro _ | apply ite_has | dsimp only | split

theorem execRefusedResponse_keeps {port : Nat} {s : State} (hs : P s) : Out.Has P (execRefusedResponse port s) := by
  unfold execRefusedResponse
  try dsimp only
  with_reducible repeat' first | assumption | exact trivial | apply responseFault_keeps hC | apply onResponse_keeps hC | apply Out.next_has | exact Out.fault_has | refine Out.of_next (by assumption) ?_ | intro _ _ _ _ _ _ | intro _ _ _ | intro _ _ | intro _ | apply ite_has | dsimp only | split

theorem execUnreachableResponse_keeps {port : Nat} {s : State} (hs : P s) : Out.Has P (execUnreachableResponse port s) := by
  unfold execUnreachableResponse
  try dsimp only
  with_reducible repeat' first | assumption | exact trivial | apply responseFault_keeps hC | apply onResponse_keeps hC | apply Out.next_has | exact Out.fault_has | refine Out.of_next (by assumption) ?_ | intro _ _ _ _ _ _ | intro _ _ _ | intro _ _ | intro _ | apply ite_has | dsimp only | split

theorem execReadDataResponse_keeps {port : Nat} {s : State} (hs : P s) : Out.Has P (execReadDataResponse port s) := by
  unfold execReadDataResponse
  try dsimp only
  with_reducible repeat' first | assumption | exact trivial | apply onResponse_keeps hC | apply modJob_has hC.unit | apply Out.next_has | exact Out.fault_has | refine Out.of_next (by assumption) ?_ | intro _ _ _ _ _ _ | intro _ _ _ | intro _ _ | intro _ | apply ite_has | dsimp only | split

theorem execNotReadyResponse_keeps {port : Nat} {s : State} (hs : P s) : Out.Has P (execNotReadyResponse port s) := by
  unfold execNotReadyResponse
  try dsimp only
  with_reducible repeat' first | assumption | exact trivial | apply onResponse_keeps hC | apply modJob_has hC.unit | apply Out.next_has | exact Out.fault_has | refine Out.of_next (by assumption) ?_ | intro _ _ _ _ _ _ | intro _ _ _ | intro _ _ | intro _ | apply ite_has | dsimp only | split

theorem agreeKey_keeps {s : State} {port : Nat} (hs : P s) : P (agreeKey s port) := by
  unfold agreeKey
  try dsimp only
  with_reducible repeat' first | assumption | exact trivial | apply takeFree_has hC.unit | apply setPort_has hC.unit | refine snd_of (by assumption) ?_ | apply ite_has | dsimp only | split

theorem execManagementMessage_keeps {port : Nat} {s : State} (hs : P s) : Out.Has P (execManagementMessage port s) := by
  unfold execManagementMessage
  try dsimp only
  with_reducible repeat' first | assumption | exact trivial | apply agreeKey_keeps hC | apply tookPacket_keeps hC | apply onPort_has | apply modPort_has hC.unit | apply Out.next_has | exact Out.fault_has | refine Out.of_next (by assumption) ?_ | intro _ _ _ _ _ _ | intro _ _ _ | intro _ _ | intro _ | apply ite_has | dsimp only | split

/-! ## Ports -/

theorem execLightDetected_keeps {port : Nat} {mask : Nat} {s : State} (hs : P s) : Out.Has P (execLightDetected port mask s) := by
  unfold execLightDetected
  try dsimp only
  with_reducible repeat' first | assumption | exact trivial | apply onPort_has | apply setPort_has hC.unit | apply Out.next_has | exact Out.fault_has | refine Out.of_next (by assumption) ?_ | apply ite_has | dsimp only | split

theorem execTrainingComplete_keeps {port : Nat} {peer : PeerInfo} {s : State} (hs : P s) : Out.Has P (execTrainingComplete port peer s) := by
  unfold execTrainingComplete
  try dsimp only
  with_reducible repeat' first | assumption | exact trivial | apply retryForwards_keeps hC | apply onPort_has | apply setPort_has hC.unit | apply Out.next_has | exact Out.fault_has | refine Out.of_next (by assumption) ?_ | apply ite_has | dsimp only | split

theorem execTrainingFail_keeps {port : Nat} {s : State} (hs : P s) : Out.Has P (execTrainingFail port s) := by
  unfold execTrainingFail
  try dsimp only
  with_reducible repeat' first | assumption | exact trivial | apply goDown_keeps hC | apply onPort_has | apply Out.next_has | exact Out.fault_has | refine Out.of_next (by assumption) ?_ | apply ite_has | dsimp only | split

theorem execFrameLockLost_keeps {port : Nat} {s : State} (hs : P s) : Out.Has P (execFrameLockLost port s) := by
  unfold execFrameLockLost
  try dsimp only
  with_reducible repeat' first | assumption | exact trivial | apply onPort_has | apply modPort_has hC.unit | apply Out.next_has | exact Out.fault_has | refine Out.of_next (by assumption) ?_ | apply ite_has | dsimp only | split

theorem execFrameLockReturn_keeps {port : Nat} {s : State} (hs : P s) : Out.Has P (execFrameLockReturn port s) := by
  unfold execFrameLockReturn
  try dsimp only
  with_reducible repeat' first | assumption | exact trivial | apply retryForwards_keeps hC | apply onPort_has | apply setPort_has hC.unit | apply Out.next_has | exact Out.fault_has | refine Out.of_next (by assumption) ?_ | apply ite_has | dsimp only | split

theorem execHoldTimeout_keeps {port : Nat} {s : State} (hs : P s) : Out.Has P (execHoldTimeout port s) := by
  unfold execHoldTimeout
  try dsimp only
  with_reducible repeat' first | assumption | exact trivial | apply goDown_keeps hC | apply onPort_has | apply Out.next_has | exact Out.fault_has | refine Out.of_next (by assumption) ?_ | apply ite_has | dsimp only | split

theorem execDownRetrain_keeps {port : Nat} {s : State} (hs : P s) : Out.Has P (execDownRetrain port s) := by
  unfold execDownRetrain
  try dsimp only
  with_reducible repeat' first | assumption | exact trivial | apply onPort_has | apply setPort_has hC.unit | apply Out.next_has | exact Out.fault_has | refine Out.of_next (by assumption) ?_ | apply ite_has | dsimp only | split

theorem execLaneDegrade_keeps {port : Nat} {lane : Nat} {s : State} (hs : P s) : Out.Has P (execLaneDegrade port lane s) := by
  unfold execLaneDegrade
  try dsimp only
  with_reducible repeat' first | assumption | exact trivial | apply goDown_keeps hC | apply onPort_has | apply setPort_has hC.unit | apply Out.next_has | exact Out.fault_has | refine Out.of_next (by assumption) ?_ | apply ite_has | dsimp only | split

theorem execLaneMove_keeps {port : Nat} {s : State} (hs : P s) : Out.Has P (execLaneMove port s) := by
  unfold execLaneMove
  try dsimp only
  with_reducible repeat' first | assumption | exact trivial | apply onPort_has | apply setPort_has hC.unit | apply Out.next_has | exact Out.fault_has | refine Out.of_next (by assumption) ?_ | apply ite_has | dsimp only | split

theorem execLaneTest_keeps {port : Nat} {wl : Nat} {pass : Bool} {s : State} (hs : P s) : Out.Has P (execLaneTest port wl pass s) := by
  unfold execLaneTest
  try dsimp only
  with_reducible repeat' first | assumption | exact trivial | apply onPort_has | apply setPort_has hC.unit | apply Out.next_has | exact Out.fault_has | refine Out.of_next (by assumption) ?_ | intro _ _ _ _ _ _ | intro _ _ _ | intro _ _ | intro _ | apply ite_has | dsimp only | split

theorem execRoleRequest_keeps {port : Nat} {s : State} (hs : P s) : Out.Has P (execRoleRequest port s) := by
  unfold execRoleRequest
  try dsimp only
  with_reducible repeat' first | assumption | exact trivial | apply onPort_has | apply setPort_has hC.unit | apply Out.next_has | exact Out.fault_has | refine Out.of_next (by assumption) ?_ | apply ite_has | dsimp only | split

theorem execHandover_keeps {port : Nat} {s : State} (hs : P s) : Out.Has P (execHandover port s) := by
  unfold execHandover
  try dsimp only
  with_reducible repeat' first | assumption | exact trivial | apply onPort_has | apply setPort_has hC.unit | apply Out.next_has | exact Out.fault_has | refine Out.of_next (by assumption) ?_ | apply ite_has | dsimp only | split

theorem execRoleChangeover_keeps {port : Nat} {s : State} (hs : P s) : Out.Has P (execRoleChangeover port s) := by
  unfold execRoleChangeover
  try dsimp only
  with_reducible repeat' first | assumption | exact trivial | apply takeFree_has hC.unit | apply onPort_has | apply setPort_has hC.unit | apply Out.next_has | exact Out.fault_has | refine Out.of_next (by assumption) ?_ | refine snd_of (by assumption) ?_ | apply ite_has | dsimp only | split

theorem execFenceRequest_keeps {port : Nat} {s : State} (hs : P s) : Out.Has P (execFenceRequest port s) := by
  unfold execFenceRequest
  try dsimp only
  with_reducible repeat' first | assumption | exact trivial | apply onPort_has | apply modPort_has hC.unit | apply Out.next_has | exact Out.fault_has | refine Out.of_next (by assumption) ?_ | apply foldl_has | intro _ _ _ | intro _ _ _ _ _ _ | intro _ _ | intro _ | apply ite_has | dsimp only | split

theorem takeMarker_keeps {s : State} {port : Nat} {vc : Nat} (hs : P s) : P (takeMarker s port vc) := by
  unfold takeMarker
  try dsimp only
  with_reducible repeat' first | assumption | exact trivial | apply tookPacket_keeps hC | apply ite_has | dsimp only | split

theorem execFenceMarker_keeps {port : Nat} {vc : Nat} {s : State} (hs : P s) : Out.Has P (execFenceMarker port vc s) := by
  unfold execFenceMarker
  try dsimp only
  with_reducible repeat' first | assumption | exact trivial | apply takeMarker_keeps hC | apply onPort_has | apply modPort_has hC.unit | apply Out.next_has | exact Out.fault_has | refine Out.of_next (by assumption) ?_ | intro _ _ _ _ _ _ | intro _ _ _ | intro _ _ | intro _ | apply ite_has | dsimp only | split

theorem execFenceTimeout_keeps {port : Nat} {s : State} (hs : P s) : Out.Has P (execFenceTimeout port s) := by
  unfold execFenceTimeout
  try dsimp only
  with_reducible repeat' first | assumption | exact trivial | apply discardHeld_keeps hC | apply goDown_keeps hC | apply onPort_has | apply setPort_has hC.unit | apply Out.next_has | exact Out.fault_has | refine Out.of_next (by assumption) ?_ | apply ite_has | dsimp only | split

theorem startFence_keeps {s : State} {port : Nat} (hs : P s) : P (startFence s port) := by
  unfold startFence
  try dsimp only
  with_reducible repeat' first | assumption | exact trivial | apply discardHeld_keeps hC | apply queuePacket_has hC.unit | apply setPort_has hC.unit | intro _ _ _ _ _ _ | intro _ _ _ | intro _ _ | intro _ | apply ite_has | dsimp only | split

theorem switchInputs_keeps {s : State} {k : Nat} {lowerB : Bool} {upperB : Bool} (hs : P s) : P (switchInputs s k lowerB upperB) := by
  unfold switchInputs
  try dsimp only
  with_reducible repeat' first | assumption | exact trivial | apply modPd_keeps hC | apply modPort_has hC.unit | apply foldl_has | intro _ _ _ | intro _ _ _ _ _ _ | intro _ _ | intro _ | apply ite_has | dsimp only | split

theorem execLaserInputLoss_keeps {pd : Nat} {input : Nat} {s : State} (hs : P s) : Out.Has P (execLaserInputLoss pd input s) := by
  unfold execLaserInputLoss
  try dsimp only
  with_reducible repeat' first | assumption | exact trivial | apply leaveUp_keeps hC | apply onPd_has | apply modPd_keeps hC | apply setPd_keeps hC | apply modPort_has hC.unit | apply Out.next_has | exact Out.fault_has | refine Out.of_next (by assumption) ?_ | apply foldl_has | intro _ _ _ | intro _ _ _ _ _ _ | intro _ _ | intro _ | apply ite_has | dsimp only | split | apply set_full hC

/-! ## Ledger -/

theorem putLedger_keeps {s : State} {seq : Nat} {e : LedgerEntry} (hs : P s) : P (putLedger s seq e) := by
  unfold putLedger
  try dsimp only
  with_reducible repeat' first | assumption | exact trivial | apply hostWrite_has hC.unit | apply ite_has | dsimp only | split | apply set_ledger hC

theorem modLedger_keeps {s : State} {seq : Nat} {f : LedgerEntry → LedgerEntry} (hs : P s) : P (modLedger s seq f) := by
  unfold modLedger
  try dsimp only
  with_reducible repeat' first | assumption | exact trivial | apply putLedger_keeps hC | apply ite_has | dsimp only | split

theorem ageLedger_keeps {s : State} {seq : Nat} (hs : P s) : P (ageLedger s seq) := by
  unfold ageLedger
  try dsimp only
  with_reducible repeat' first | assumption | exact trivial | intro _ _ _ _ _ _ | intro _ _ _ | intro _ _ | intro _ | apply ite_has | dsimp only | split | apply set_ledger hC

theorem ledgerState_keeps {s : State} {seq : Nat} {st : Nat} (hs : P s) : P (ledgerState s seq st) := by
  unfold ledgerState
  try dsimp only
  with_reducible repeat' first | assumption | exact trivial | apply modLedger_keeps hC | intro _ _ _ _ _ _ | intro _ _ _ | intro _ _ | intro _ | apply ite_has | dsimp only | split

theorem ledgerTurn_keeps {s : State} {seq : Nat} {turn : Nat} (hs : P s) : P (ledgerTurn s seq turn) := by
  unfold ledgerTurn
  try dsimp only
  with_reducible repeat' first | assumption | exact trivial | apply modLedger_keeps hC | intro _ _ _ _ _ _ | intro _ _ _ | intro _ _ | intro _ | apply ite_has | dsimp only | split

theorem fixResult_keeps {s : State} {seq : Nat} {status : Nat} {detail : List Byte} (hs : P s) : P (fixResult s seq status detail) := by
  unfold fixResult
  try dsimp only
  with_reducible repeat' first | assumption | exact trivial | apply modLedger_keeps hC | intro _ _ _ _ _ _ | intro _ _ _ | intro _ _ | intro _ | apply ite_has | dsimp only | split | apply set_cmds hC

theorem refuseField_keeps {s : State} {seq : Nat} {off : Nat} {index : Nat} (hs : P s) : P (refuseField s seq off index) := by
  unfold refuseField
  try dsimp only
  with_reducible repeat' first | assumption | exact trivial | apply fixResult_keeps hC | apply ite_has | dsimp only | split

theorem refuseState_keeps {s : State} {seq : Nat} {off : Nat} (hs : P s) : P (refuseState s seq off) := by
  unfold refuseState
  try dsimp only
  with_reducible repeat' first | assumption | exact trivial | apply fixResult_keeps hC | apply ite_has | dsimp only | split

theorem refuseResource_keeps {s : State} {seq : Nat} {index : Nat} (hs : P s) : P (refuseResource s seq index) := by
  unfold refuseResource
  try dsimp only
  with_reducible repeat' first | assumption | exact trivial | apply fixResult_keeps hC | apply ite_has | dsimp only | split

theorem refusePerm_keeps {s : State} {seq : Nat} {code : Nat} {addr : Nat} (hs : P s) : P (refusePerm s seq code addr) := by
  unfold refusePerm
  try dsimp only
  with_reducible repeat' first | assumption | exact trivial | apply fixResult_keeps hC | apply ite_has | dsimp only | split

theorem beginCmd_keeps {s : State} {seq : Nat} (hs : P s) : P (beginCmd s seq) := by
  unfold beginCmd
  try dsimp only
  with_reducible repeat' first | assumption | exact trivial | apply ite_has | dsimp only | split | apply set_cmds hC

theorem runCmd_keeps {s : State} {seq op : Nat} {sel : List Byte → Bool} {act : List Byte → State} (hs : P s)
    (ha : ∀ bs, P (act bs)) : Out.Has P (runCmd s seq op sel act) := by
  unfold runCmd
  split
  · split
    · exact ha _
    · exact hs
  · exact hs

/-! ## Works -/

theorem putWork_keeps {s : State} {seq : Nat} {w : Work} (hs : P s) : P (putWork s seq w) := by
  unfold putWork
  try dsimp only
  with_reducible repeat' first | assumption | exact trivial | apply ite_has | dsimp only | split | apply set_works hC

theorem senderClosed_keeps {s : State} {x : Nat × CoreUnit × Nat × Nat} (hs : P s) : P (senderClosed s x) := by
  unfold senderClosed
  try dsimp only
  with_reducible repeat' first | assumption | exact trivial | apply raiseFault_has hC.unit | apply ite_has | dsimp only | split

theorem refuseAll_keeps {c n : Nat} : ∀ {s : State}, P s → P (refuseAll c n s) := by
  induction n with
  | zero => exact fun hs => hs
  | succ n ih =>
    intro s hs
    unfold refuseAll
    split
    · exact hs
    · exact ih (ite_has (arriveRead_has hC.unit hs) (refuseArrival_has hC.unit hs))

theorem settleRepro_keeps {s : State} (hs : P s) : P (settleRepro s) := by
  unfold settleRepro
  try dsimp only
  with_reducible repeat' first | assumption | exact trivial | apply fixResult_keeps hC | apply foldl_has | intro _ _ _ | intro _ _ _ _ _ _ | intro _ _ | intro _ | apply ite_has | dsimp only | split | apply set_reproWait hC

theorem stopCores_keeps {s : State} {cs : List Nat} (hs : P s) : P (stopCores s cs) := by
  unfold stopCores
  try dsimp only
  with_reducible repeat' first | assumption | exact trivial | apply settleRepro_keeps hC | apply refuseAll_keeps hC | apply senderClosed_keeps hC | apply trackRow_has hC.unit | apply modCore_has hC.unit | apply foldl_has | intro _ _ _ | intro _ _ _ _ _ _ | intro _ _ | intro _ | apply ite_has | dsimp only | split

theorem zeroRows_keeps {s : State} {c : Nat} {keep : Nat → Nat → Bool} (hs : P s) : P (zeroRows s c keep) := by
  unfold zeroRows
  try dsimp only
  with_reducible repeat' first | assumption | exact trivial | exact fun w => wf_filter _ w | exact fun w => wf_memWrite _ _ w | intro _ _ _ _ _ _ | intro _ _ _ | intro _ _ | intro _ | apply ite_has | dsimp only | split | apply set_mem_full_poison_errOne_errMany_errFound hC

theorem coreDown_keeps {s : State} {c : Nat} {target : Nat} (hs : P s) : P (coreDown s c target) := by
  unfold coreDown
  try dsimp only
  with_reducible repeat' first | assumption | exact trivial | apply zeroRows_keeps hC | apply modCore_has hC.unit | intro _ _ _ _ _ _ | intro _ _ _ | intro _ _ | intro _ | apply ite_has | dsimp only | split

theorem zeroiseCore_keeps {s : State} {c : Nat} (hs : P s) : P (zeroiseCore s c) := by
  unfold zeroiseCore
  try dsimp only
  with_reducible repeat' first | assumption | exact trivial | apply zeroRows_keeps hC | apply modCore_has hC.unit | intro _ _ _ _ _ _ | intro _ _ _ | intro _ _ | intro _ | apply ite_has | dsimp only | split

theorem prepareCores_keeps {s : State} {cs : List Nat} (hs : P s) : P (prepareCores s cs) := by
  unfold prepareCores
  try dsimp only
  with_reducible repeat' first | assumption | exact trivial | apply zeroRows_keeps hC | apply modCore_has hC.unit | apply foldl_has | intro _ _ _ | intro _ _ _ _ _ _ | intro _ _ | intro _ | apply ite_has | dsimp only | split | apply set_dies hC

theorem noteSlots_keeps {s : State} {w : Work} (hs : P s) : P (noteSlots s w) := by
  unfold noteSlots
  try dsimp only
  with_reducible repeat' first | assumption | exact trivial | apply checkRead_has hC.unit | apply foldl_has | intro _ _ _ | intro _ _ _ _ _ _ | intro _ _ | intro _ | apply ite_has | dsimp only | split

theorem giveStart_keeps {s : State} {c : Nat} {r : StartReq} (hs : P s) : P (giveStart s c r) := by
  unfold giveStart
  try dsimp only
  with_reducible repeat' first | assumption | exact trivial | apply modCore_has hC.unit | intro _ _ _ _ _ _ | intro _ _ _ | intro _ _ | intro _ | apply ite_has | dsimp only | split

theorem finishWork_keeps {s : State} {seq : Nat} {w : Work} {status : Nat} {turn : Nat} {detail : List Byte} (hs : P s) : P (finishWork s seq w status turn detail) := by
  unfold finishWork
  try dsimp only
  with_reducible repeat' first | assumption | exact trivial | apply stopCores_keeps hC | apply putWork_keeps hC | apply fixResult_keeps hC | apply ledgerTurn_keeps hC | apply ite_has | dsimp only | split

theorem restartWork_keeps {s : State} {seq : Nat} {w : Work} {window : Bool} (hs : P s) : P (restartWork s seq w window) := by
  unfold restartWork
  try dsimp only
  with_reducible repeat' first | assumption | exact trivial | apply finishWork_keeps hC | apply giveStart_keeps hC | apply noteSlots_keeps hC | apply prepareCores_keeps hC | apply putWork_keeps hC | apply ledgerTurn_keeps hC | apply ledgerState_keeps hC | apply foldl_has | intro _ _ _ | intro _ _ _ _ _ _ | intro _ _ | intro _ | apply ite_has | dsimp only | split

theorem preemptWork_keeps {s : State} {seq : Nat} {w : Work} (hs : P s) : P (preemptWork s seq w) := by
  unfold preemptWork
  try dsimp only
  with_reducible repeat' first | assumption | exact trivial | apply noteSlots_keeps hC | apply prepareCores_keeps hC | apply stopCores_keeps hC | apply putWork_keeps hC | apply ledgerTurn_keeps hC | apply ledgerState_keeps hC | apply ite_has | dsimp only | split

theorem settleWork_keeps {s : State} {seq : Nat} {w : Work} (hs : P s) : P (settleWork s seq w) := by
  unfold settleWork
  try dsimp only
  with_reducible repeat' first | assumption | exact trivial | apply finishWork_keeps hC | apply putWork_keeps hC | intro _ _ _ _ _ _ | intro _ _ _ | intro _ _ | intro _ | apply ite_has | dsimp only | split

theorem endDone_keeps {s : State} {c : Nat} {e : Nat} (hs : P s) : P (endDone s c e) := by
  unfold endDone
  try dsimp only
  with_reducible repeat' first | assumption | exact trivial | apply settleWork_keeps hC | apply pushEvent_has hC.unit | apply modCore_has hC.unit | intro _ _ _ _ _ _ | intro _ _ _ | intro _ _ | intro _ | apply ite_has | dsimp only | split

theorem execEndList_keeps {core : Nat} {s : State} (hs : P s) : Out.Has P (execEndList core s) := by
  unfold execEndList
  try dsimp only
  with_reducible repeat' first | assumption | exact trivial | apply endDone_keeps hC | apply blockOn_has hC.unit | apply issueAt_has hC.unit | apply onCore_has | apply modCore_has hC.unit | apply Out.next_has | exact Out.fault_has | refine Out.of_next (by assumption) ?_ | intro _ _ _ _ _ _ | intro _ _ _ | intro _ _ | intro _ | apply ite_has | dsimp only | split

theorem execTurnDone_keeps {core : Nat} {s : State} (hs : P s) : Out.Has P (execTurnDone core s) := by
  unfold execTurnDone
  try dsimp only
  with_reducible repeat' first | assumption | exact trivial | apply putWork_keeps hC | apply writeCommit_keeps hC | apply nextEntry_has hC.unit | apply pushEvent_has hC.unit | apply onCore_has | apply Out.next_has | exact Out.fault_has | refine Out.of_next (by assumption) ?_ | intro _ _ _ _ _ _ | intro _ _ _ | intro _ _ | intro _ | apply ite_has | dsimp only | split

theorem execLayerDrainEnd_keeps {core : Nat} {s : State} (hs : P s) : Out.Has P (execLayerDrainEnd core s) := by
  unfold execLayerDrainEnd
  try dsimp only
  with_reducible repeat' first | assumption | exact trivial | apply settleRepro_keeps hC | apply completeHead_has hC.unit | apply onCore_has | apply Out.next_has | exact Out.fault_has | refine Out.of_next (by assumption) ?_ | apply ite_has | dsimp only | split

/-! ## Recovery -/

theorem recordForLife_keeps {s : State} {c : Nat} (hs : P s) : P (recordForLife s c) := by
  unfold recordForLife
  try dsimp only
  with_reducible repeat' first | assumption | exact trivial | apply ite_has | dsimp only | split | apply set_fuses hC

theorem fenceCore_keeps {s : State} {c : Nat} {skim : Bool} (hs : P s) : P (fenceCore s c skim) := by
  unfold fenceCore
  try dsimp only
  with_reducible repeat' first | assumption | exact trivial | apply recordForLife_keeps hC | apply zeroRows_keeps hC | apply setPower_keeps hC | apply modCore_has hC.unit | intro _ _ _ _ _ _ | intro _ _ _ | intro _ _ | intro _ | apply ite_has | dsimp only | split | apply set_cores_dies_partitions_partLog hC

theorem beginSpare_keeps {s : State} {r : Recovery} (hs : P s) : P (beginSpare s r) := by
  unfold beginSpare
  try dsimp only
  with_reducible repeat' first | assumption | exact trivial | apply finishWork_keeps hC | apply zeroRows_keeps hC | apply setPower_keeps hC | apply modCore_has hC.unit | intro _ _ _ _ _ _ | intro _ _ _ | intro _ _ | intro _ | apply ite_has | dsimp only | split | apply set_recoveries hC

theorem replaceCore_keeps {s : State} {c : Nat} {skim : Bool} {work : Option Nat} (hs : P s) : P (replaceCore s c skim work) := by
  unfold replaceCore
  try dsimp only
  with_reducible repeat' first | assumption | exact trivial | apply beginSpare_keeps hC | apply fenceCore_keeps hC | apply ite_has | dsimp only | split

theorem endFaulted_keeps {s : State} {k : Nat} {w : Work} {r : FaultRec} {place : Nat} (hs : P s) : P (endFaulted s k w r place) := by
  unfold endFaulted
  try dsimp only
  with_reducible repeat' first | assumption | exact trivial | apply finishWork_keeps hC | apply queueRec_has hC.unit | apply foldl_has | intro _ _ _ | intro _ _ _ _ _ _ | intro _ _ | intro _ | apply ite_has | dsimp only | split

theorem endAbandoned_keeps {s : State} {k : Nat} {w : Work} {code : Nat} (hs : P s) : P (endAbandoned s k w code) := by
  unfold endAbandoned
  try dsimp only
  with_reducible repeat' first | assumption | exact trivial | apply finishWork_keeps hC | apply ite_has | dsimp only | split

theorem endFailed_keeps {s : State} {k : Nat} {w : Work} (hs : P s) : P (endFailed s k w) := by
  unfold endFailed
  try dsimp only
  with_reducible repeat' first | assumption | exact trivial | apply finishWork_keeps hC | apply ite_has | dsimp only | split

theorem replayWork_keeps {s : State} {k : Nat} {w : Work} (hs : P s) : P (replayWork s k w) := by
  unfold replayWork
  try dsimp only
  with_reducible repeat' first | assumption | exact trivial | apply endFailed_keeps hC | apply preemptWork_keeps hC | apply restartWork_keeps hC | apply stopCores_keeps hC | apply ledgerState_keeps hC | apply ite_has | dsimp only | split

theorem hardInWork_keeps {s : State} {k : Nat} {w : Work} {c : Nat} {skim : Bool} (hs : P s) : P (hardInWork s k w c skim) := by
  unfold hardInWork
  try dsimp only
  with_reducible repeat' first | assumption | exact trivial | apply endFailed_keeps hC | apply replaceCore_keeps hC | apply stopCores_keeps hC | apply putWork_keeps hC | apply ledgerState_keeps hC | apply modCore_has hC.unit | apply foldl_has | intro _ _ _ | intro _ _ _ _ _ _ | intro _ _ | intro _ | apply ite_has | dsimp only | split

theorem actOnWork_keeps {s : State} {k : Nat} {w : Work} {c : Nat} {r : FaultRec} {cls : FaultClass} {skim : Bool} (hs : P s) : P (actOnWork s k w c r cls skim) := by
  unfold actOnWork
  try dsimp only
  with_reducible repeat' first | assumption | exact trivial | apply hardInWork_keeps hC | apply replayWork_keeps hC | apply endFaulted_keeps hC | apply ite_has | dsimp only | split

theorem actOn_keeps {s : State} {c : Nat} {r : FaultRec} {hard : Bool} {skim : Bool} (hs : P s) : P (actOn s c r hard skim) := by
  unfold actOn
  try dsimp only
  with_reducible repeat' first | assumption | exact trivial | apply actOnWork_keeps hC | apply endAbandoned_keeps hC | apply replaceCore_keeps hC | apply settleRepro_keeps hC | apply putWork_keeps hC | apply modCore_has hC.unit | intro _ _ _ _ _ _ | intro _ _ _ | intro _ _ | intro _ | apply ite_has | dsimp only | split

theorem failWorks_keeps {s : State} {lost : Work → Bool} (hs : P s) : P (failWorks s lost) := by
  unfold failWorks
  try dsimp only
  with_reducible repeat' first | assumption | exact trivial | apply endFailed_keeps hC | apply foldl_has | intro _ _ _ | intro _ _ _ _ _ _ | intro _ _ | intro _ | apply ite_has | dsimp only | split

theorem execFaultClassify_keeps {source : FaultSource} {s : State} (hs : P s) : Out.Has P (execFaultClassify source s) := by
  unfold execFaultClassify
  try dsimp only
  with_reducible repeat' first | assumption | exact trivial | apply failWorks_keeps hC | apply actOn_keeps hC | apply stopCores_keeps hC | apply onStack_has | apply onDie_has | apply onCore_has | apply modStack_has hC.unit | apply setCore_has hC.unit | apply Out.next_has | exact Out.fault_has | refine Out.of_next (by assumption) ?_ | apply foldl_has | intro _ _ _ | intro _ _ _ _ _ _ | intro _ _ | intro _ | apply ite_has | dsimp only | split

theorem freeSpare_keeps {s : State} {g : Nat} (hs : P s) : P (freeSpare s g) := by
  unfold freeSpare
  try dsimp only
  with_reducible repeat' first | assumption | exact trivial | apply modCore_has hC.unit | intro _ _ _ _ _ _ | intro _ _ _ | intro _ _ | intro _ | apply ite_has | dsimp only | split

theorem mapSpare_keeps {s : State} {r : Recovery} {g : Nat} (hs : P s) : P (mapSpare s r g) := by
  unfold mapSpare
  try dsimp only
  with_reducible repeat' first | assumption | exact trivial | apply modPower_keeps hC | apply modPart_keeps hC | apply modCore_has hC.unit | intro _ _ _ _ _ _ | intro _ _ _ | intro _ _ | intro _ | apply ite_has | dsimp only | split | apply set_cores hC

theorem resumeOn_keeps {s : State} {k : Nat} {w : Work} {r : Recovery} {g : Nat} (hs : P s) : P (resumeOn s k w r g) := by
  unfold resumeOn
  try dsimp only
  with_reducible repeat' first | assumption | exact trivial | apply preemptWork_keeps hC | apply restartWork_keeps hC | intro _ _ _ _ _ _ | intro _ _ _ | intro _ _ | intro _ | apply ite_has | dsimp only | split | apply set_dies hC

theorem execSpareSelfTestDone_keeps {core : Nat} {pass : Bool} {s : State} (hs : P s) : Out.Has P (execSpareSelfTestDone core pass s) := by
  unfold execSpareSelfTestDone
  try dsimp only
  with_reducible repeat' first | assumption | exact trivial | apply resumeOn_keeps hC | apply mapSpare_keeps hC | apply freeSpare_keeps hC | apply beginSpare_keeps hC | apply fenceCore_keeps hC | apply onCore_has | apply Out.next_has | exact Out.fault_has | refine Out.of_next (by assumption) ?_ | intro _ _ _ _ _ _ | intro _ _ _ | intro _ _ | intro _ | apply ite_has | dsimp only | split | apply set_recoveries hC

theorem execLinkRetire_keeps {link : Nat} {s : State} (hs : P s) : Out.Has P (execLinkRetire link s) := by
  unfold execLinkRetire
  dsimp only
  split
  · trivial
  split
  · exact hs
  apply Out.next_has
  with_reducible apply foldl_has
  · intro s e hs
    with_reducible repeat' first | assumption | exact trivial | apply endAbandoned_keeps hC | apply replayWork_keeps hC | apply failWorks_keeps hC | apply foldl_has hC.unit | apply Out.next_has | exact Out.fault_has | apply foldl_has | intro _ _ _ | apply ite_has | dsimp only | split | apply set_cores hC | apply set_retiredLinks_partLog hC
  · with_reducible apply failWorks_keeps hC
    exact hC.upd hs rfl id id

theorem testResult_keeps {s : State} {kind : Nat} {index : Nat} {pass : Bool} (hs : P s) : P (testResult s kind index pass) := by
  unfold testResult
  try dsimp only
  with_reducible repeat' first | assumption | exact trivial | apply fixResult_keeps hC | apply foldl_has | intro _ _ _ | intro _ _ _ _ _ _ | intro _ _ | intro _ | apply ite_has | dsimp only | split

theorem afterTest_keeps {s : State} {c : Nat} {pass : Bool} (hs : P s) : P (afterTest s c pass) := by
  unfold afterTest
  try dsimp only
  with_reducible repeat' first | assumption | exact trivial | apply fenceCore_keeps hC | apply recordForLife_keeps hC | apply zeroRows_keeps hC | apply modCore_has hC.unit | intro _ _ _ _ _ _ | intro _ _ _ | intro _ _ | intro _ | apply ite_has | dsimp only | split

theorem execCoreSelfTestDone_keeps {core : Nat} {pass : Bool} {s : State} (hs : P s) : Out.Has P (execCoreSelfTestDone core pass s) := by
  unfold execCoreSelfTestDone
  try dsimp only
  with_reducible repeat' first | assumption | exact trivial | apply afterTest_keeps hC | apply testResult_keeps hC | apply onCore_has | apply Out.next_has | exact Out.fault_has | refine Out.of_next (by assumption) ?_ | apply ite_has | dsimp only | split

theorem execDarkSpareDailyTest_keeps {core : Nat} {s : State} (hs : P s) : Out.Has P (execDarkSpareDailyTest core s) := by
  unfold execDarkSpareDailyTest
  try dsimp only
  with_reducible repeat' first | assumption | exact trivial | apply onCore_has | apply setCore_has hC.unit | apply Out.next_has | exact Out.fault_has | refine Out.of_next (by assumption) ?_ | intro _ _ _ _ _ _ | intro _ _ _ | intro _ _ | intro _ | apply ite_has | dsimp only | split

/-! ## Regulators -/

theorem retarget_keeps {s : State} {d : Nat} (hs : P s) : P (retarget s d) := by
  unfold retarget
  try dsimp only
  with_reducible repeat' first | assumption | exact trivial | apply modDie_has hC.unit | intro _ _ _ _ _ _ | intro _ _ _ | intro _ _ | intro _ | apply ite_has | dsimp only | split

theorem execPllLock_keeps {die : Nat} {s : State} (hs : P s) : Out.Has P (execPllLock die s) := by
  unfold execPllLock
  try dsimp only
  with_reducible repeat' first | assumption | exact trivial | apply onDie_has | apply modDie_has hC.unit | apply Out.next_has | exact Out.fault_has | refine Out.of_next (by assumption) ?_ | intro _ _ _ _ _ _ | intro _ _ _ | intro _ _ | intro _ | apply ite_has | dsimp only | split

theorem execVoltageReached_keeps {die : Nat} {s : State} (hs : P s) : Out.Has P (execVoltageReached die s) := by
  unfold execVoltageReached
  try dsimp only
  with_reducible repeat' first | assumption | exact trivial | apply onDie_has | apply modDie_has hC.unit | apply Out.next_has | exact Out.fault_has | refine Out.of_next (by assumption) ?_ | intro _ _ _ _ _ _ | intro _ _ _ | intro _ _ | intro _ | apply ite_has | dsimp only | split

theorem execSkimRailSet_keeps {die : Nat} {mv : Nat} {s : State} (hs : P s) : Out.Has P (execSkimRailSet die mv s) := by
  unfold execSkimRailSet
  try dsimp only
  with_reducible repeat' first | assumption | exact trivial | apply onDie_has | apply modDie_has hC.unit | apply Out.next_has | exact Out.fault_has | refine Out.of_next (by assumption) ?_ | intro _ _ _ _ _ _ | intro _ _ _ | intro _ _ | intro _ | apply ite_has | dsimp only | split

theorem execSkimRailSettled_keeps {die : Nat} {s : State} (hs : P s) : Out.Has P (execSkimRailSettled die s) := by
  unfold execSkimRailSettled
  try dsimp only
  with_reducible repeat' first | assumption | exact trivial | apply onDie_has | apply modDie_has hC.unit | apply Out.next_has | exact Out.fault_has | refine Out.of_next (by assumption) ?_ | intro _ _ _ _ _ _ | intro _ _ _ | intro _ _ | intro _ | apply ite_has | dsimp only | split

/-! ## Wake -/

theorem coreUp_keeps {s : State} {c : Nat} (hs : P s) : P (coreUp s c) := by
  unfold coreUp
  try dsimp only
  with_reducible repeat' first | assumption | exact trivial | apply coreDown_keeps hC | apply zeroRows_keeps hC | apply setPower_keeps hC | apply modCore_has hC.unit | intro _ _ _ _ _ _ | intro _ _ _ | intro _ _ | intro _ | apply ite_has | dsimp only | split

theorem releasePads_keeps {s : State} {d : Nat} (hs : P s) : P (releasePads s d) := by
  unfold releasePads
  try dsimp only
  with_reducible repeat' first | assumption | exact trivial | intro _ _ _ _ _ _ | intro _ _ _ | intro _ _ | intro _ | apply ite_has | dsimp only | split | apply set_pads hC

theorem stackUp_keeps {s : State} {d : Nat} (hs : P s) : P (stackUp s d) := by
  unfold stackUp
  try dsimp only
  with_reducible repeat' first | assumption | exact trivial | apply modStack_has hC.unit | apply foldl_has | intro _ _ _ | intro _ _ _ _ _ _ | intro _ _ | intro _ | apply ite_has | dsimp only | split

theorem dieWake_keeps {s : State} {d : Nat} (hs : P s) : P (dieWake s d) := by
  unfold dieWake
  try dsimp only
  with_reducible repeat' first | assumption | exact trivial | apply stackUp_keeps hC | apply releasePads_keeps hC | apply setPower_keeps hC | apply modDie_has hC.unit | intro _ _ _ _ _ _ | intro _ _ _ | intro _ _ | intro _ | apply ite_has | dsimp only | split

theorem photonicUp_keeps {s : State} {k : Nat} (hs : P s) : P (photonicUp s k) := by
  unfold photonicUp
  try dsimp only
  with_reducible repeat' first | assumption | exact trivial | apply setPower_keeps hC | apply modPort_has hC.unit | apply foldl_has | intro _ _ _ | intro _ _ _ _ _ _ | intro _ _ | intro _ | apply ite_has | dsimp only | split

theorem coreAwake_keeps {s : State} {c : Nat} (hs : P s) : P (coreAwake s c) := by
  unfold coreAwake
  try dsimp only
  with_reducible repeat' first | assumption | exact trivial | apply dieWake_keeps hC | apply coreUp_keeps hC | apply ite_has | dsimp only | split

/-! ## Power -/

theorem onDomain_keeps {d : Domain} {o : Out} (h : Out.Has P o) : Out.Has P (onDomain d o) := by
  unfold onDomain
  split
  · exact onCore_has h
  · exact onDie_has h
  · exact onPd_has h
  · exact h

theorem wakeEvent_keeps {s : State} {d : Domain} {src : WakeSource} (hs : P s) : P (wakeEvent s d src) := by
  unfold wakeEvent
  try dsimp only
  with_reducible repeat' first | assumption | exact trivial | apply modPower_keeps hC | intro _ _ _ _ _ _ | intro _ _ _ | intro _ _ | intro _ | apply ite_has | dsimp only | split

theorem execAccessWake_keeps {dom : Domain} {src : WakeSource} {s : State} (hs : P s) : Out.Has P (execAccessWake dom src s) := by
  unfold execAccessWake
  try dsimp only
  with_reducible repeat' first | assumption | exact trivial | apply wakeEvent_keeps hC | apply onPd_has | apply onDie_has | apply onCore_has | apply Out.next_has | exact Out.fault_has | refine Out.of_next (by assumption) ?_ | apply foldl_has | intro _ _ _ | intro _ _ _ _ _ _ | intro _ _ | intro _ | apply ite_has | dsimp only | split

theorem setVote_keeps {s : State} {d : Domain} {src : WakeSource} {v : Option Nat} (hs : P s) : P (setVote s d src v) := by
  unfold setVote
  try dsimp only
  with_reducible repeat' first | assumption | exact trivial | apply wakeEvent_keeps hC | apply modPower_keeps hC | apply setPower_keeps hC | apply foldl_has | intro _ _ _ | intro _ _ _ _ _ _ | intro _ _ | intro _ | apply ite_has | dsimp only | split

theorem setPointVote_keeps {s : State} {d : Nat} {id : Nat} {v : Option Nat} (hs : P s) : P (setPointVote s d id v) := by
  unfold setPointVote
  try dsimp only
  with_reducible repeat' first | assumption | exact trivial | apply retarget_keeps hC | apply modDie_has hC.unit | intro _ _ _ _ _ _ | intro _ _ _ | intro _ _ | intro _ | apply ite_has | dsimp only | split

theorem castVote_keeps {s : State} {seq : Nat} {bs : List Byte} {v : Option Nat} (hs : P s) : P (castVote s seq bs v) := by
  unfold castVote
  try dsimp only
  with_reducible repeat' first | assumption | exact trivial | apply setPointVote_keeps hC | apply setVote_keeps hC | apply refusePerm_keeps hC | apply fixResult_keeps hC | apply ite_has | dsimp only | split

theorem execVoteCoreState_keeps {seq : Nat} {s : State} (hs : P s) : Out.Has P (execVoteCoreState seq s) := by
  unfold execVoteCoreState
  try dsimp only
  with_reducible repeat' first | assumption | exact trivial | apply castVote_keeps hC | apply runCmd_keeps hC | apply Out.next_has | exact Out.fault_has | refine Out.of_next (by assumption) ?_ | intro _ _ _ _ _ _ | intro _ _ _ | intro _ _ | intro _ | apply ite_has | dsimp only | split

theorem execVoteDieState_keeps {seq : Nat} {s : State} (hs : P s) : Out.Has P (execVoteDieState seq s) := by
  unfold execVoteDieState
  try dsimp only
  with_reducible repeat' first | assumption | exact trivial | apply castVote_keeps hC | apply runCmd_keeps hC | apply Out.next_has | exact Out.fault_has | refine Out.of_next (by assumption) ?_ | intro _ _ _ _ _ _ | intro _ _ _ | intro _ _ | intro _ | apply ite_has | dsimp only | split

theorem execVotePhotonicState_keeps {seq : Nat} {s : State} (hs : P s) : Out.Has P (execVotePhotonicState seq s) := by
  unfold execVotePhotonicState
  try dsimp only
  with_reducible repeat' first | assumption | exact trivial | apply castVote_keeps hC | apply runCmd_keeps hC | apply Out.next_has | exact Out.fault_has | refine Out.of_next (by assumption) ?_ | intro _ _ _ _ _ _ | intro _ _ _ | intro _ _ | intro _ | apply ite_has | dsimp only | split

theorem execVoteModuleState_keeps {seq : Nat} {s : State} (hs : P s) : Out.Has P (execVoteModuleState seq s) := by
  unfold execVoteModuleState
  try dsimp only
  with_reducible repeat' first | assumption | exact trivial | apply castVote_keeps hC | apply runCmd_keeps hC | apply Out.next_has | exact Out.fault_has | refine Out.of_next (by assumption) ?_ | intro _ _ _ _ _ _ | intro _ _ _ | intro _ _ | intro _ | apply ite_has | dsimp only | split

theorem execVoteOperatingPoint_keeps {seq : Nat} {s : State} (hs : P s) : Out.Has P (execVoteOperatingPoint seq s) := by
  unfold execVoteOperatingPoint
  try dsimp only
  with_reducible repeat' first | assumption | exact trivial | apply castVote_keeps hC | apply runCmd_keeps hC | apply Out.next_has | exact Out.fault_has | refine Out.of_next (by assumption) ?_ | intro _ _ _ _ _ _ | intro _ _ _ | intro _ _ | intro _ | apply ite_has | dsimp only | split

theorem execVoteWithdraw_keeps {seq : Nat} {s : State} (hs : P s) : Out.Has P (execVoteWithdraw seq s) := by
  unfold execVoteWithdraw
  try dsimp only
  with_reducible repeat' first | assumption | exact trivial | apply castVote_keeps hC | apply runCmd_keeps hC | apply Out.next_has | exact Out.fault_has | refine Out.of_next (by assumption) ?_ | intro _ _ _ _ _ _ | intro _ _ _ | intro _ _ | intro _ | apply ite_has | dsimp only | split

theorem eachDie_keeps {s : State} {f : State → Nat → State} (hs : P s) (hf : ∀ s d, P s → P (f s d)) : P (eachDie s f) :=
  foldl_has hf hs

theorem powerAlarm_keeps {s : State} {bit : Nat} {code : Nat} {detail : Nat} (hs : P s) : P (powerAlarm s bit code detail) := by
  unfold powerAlarm
  try dsimp only
  with_reducible repeat' first | assumption | exact trivial | apply raiseAlarm_keeps hC | apply queueRec_has hC.unit | apply ite_has | dsimp only | split

theorem execInputPowerSample_keeps {watts : Nat} {avg100 : Nat} {avg1ms : Nat} {avg10ms : Nat} {s : State} (hs : P s) : Out.Has P (execInputPowerSample watts avg100 avg1ms avg10ms s) := by
  unfold execInputPowerSample
  try dsimp only
  with_reducible repeat' first | assumption | exact trivial | apply Out.next_has | exact Out.fault_has | refine Out.of_next (by assumption) ?_ | apply ite_has | dsimp only | split | apply set_meter hC

theorem capStep_keeps {s : State} (hs : P s) : P (capStep s) := by
  unfold capStep
  try dsimp only
  with_reducible repeat' first | assumption | exact trivial | apply powerAlarm_keeps hC | apply eachDie_keeps hC | apply retarget_keeps hC | apply modDie_has hC.unit | intro _ _ _ _ _ _ | intro _ _ _ | intro _ _ | intro _ | apply ite_has | dsimp only | split

theorem execPowerTransientStep_keeps {s : State} (hs : P s) : Out.Has P (execPowerTransientStep s) := by
  unfold execPowerTransientStep
  try dsimp only
  with_reducible repeat' first | assumption | exact trivial | apply capStep_keeps hC | apply Out.next_has | exact Out.fault_has | refine Out.of_next (by assumption) ?_ | apply ite_has | dsimp only | split

theorem execPowerSustainedStep_keeps {s : State} (hs : P s) : Out.Has P (execPowerSustainedStep s) := by
  unfold execPowerSustainedStep
  try dsimp only
  with_reducible repeat' first | assumption | exact trivial | apply capStep_keeps hC | apply Out.next_has | exact Out.fault_has | refine Out.of_next (by assumption) ?_ | apply ite_has | dsimp only | split

theorem execPowerCeilingRise_keeps {s : State} (hs : P s) : Out.Has P (execPowerCeilingRise s) := by
  unfold execPowerCeilingRise
  try dsimp only
  with_reducible repeat' first | assumption | exact trivial | apply eachDie_keeps hC | apply retarget_keeps hC | apply modDie_has hC.unit | apply Out.next_has | exact Out.fault_has | refine Out.of_next (by assumption) ?_ | intro _ _ _ _ _ _ | intro _ _ _ | intro _ _ | intro _ | apply ite_has | dsimp only | split

theorem throttleStep_keeps {s : State} {d : Nat} {h : Nat × Nat} (hs : P s) : P (throttleStep s d h) := by
  unfold throttleStep
  try dsimp only
  with_reducible repeat' first | assumption | exact trivial | apply powerAlarm_keeps hC | apply retarget_keeps hC | apply modDie_has hC.unit | intro _ _ _ _ _ _ | intro _ _ _ | intro _ _ | intro _ | apply ite_has | dsimp only | split

theorem readDie_keeps {s : State} {d : Nat} {ts : List Nat} (hs : P s) : P (readDie s d ts) := by
  unfold readDie
  try dsimp only
  with_reducible repeat' first | assumption | exact trivial | apply throttleStep_keeps hC | apply modDie_has hC.unit | intro _ _ _ _ _ _ | intro _ _ _ | intro _ _ | intro _ | apply ite_has | dsimp only | split

theorem readPd_keeps {s : State} {k : Nat} {ts : List Nat} (hs : P s) : P (readPd s k ts) := by
  unfold readPd
  try dsimp only
  with_reducible repeat' first | assumption | exact trivial | apply powerAlarm_keeps hC | apply modPd_keeps hC | intro _ _ _ _ _ _ | intro _ _ _ | intro _ _ | intro _ | apply ite_has | dsimp only | split

theorem readHub_keeps {s : State} {ts : List Nat} (hs : P s) : P (readHub s ts) := by
  have h1 : P { s with hubTemps := ts } := set_hubTemps hC hs
  unfold readHub
  dsimp only
  split
  · split
    · exact powerAlarm_keeps hC (hC.upd hs rfl id id)
    · exact h1
  · exact h1

theorem comparators_keeps {s : State} {temps : List (List Nat)} (hs : P s) : P (comparators s temps) := by
  unfold comparators
  try dsimp only
  with_reducible repeat' first | assumption | exact trivial | apply foldl_has | intro _ _ _ | apply ite_has | dsimp only | split | apply set_rind hC

theorem execSensorRead_keeps {temps : List (List Nat)} {s : State} (hs : P s) : Out.Has P (execSensorRead temps s) := by
  unfold execSensorRead
  try dsimp only
  with_reducible repeat' first | assumption | exact trivial | apply comparators_keeps hC | apply readHub_keeps hC | apply readPd_keeps hC | apply readDie_keeps hC | apply eachDie_keeps hC | apply Out.next_has | exact Out.fault_has | refine Out.of_next (by assumption) ?_ | apply foldl_has | intro _ _ _ | intro _ _ _ _ _ _ | intro _ _ | intro _ | apply ite_has | dsimp only | split

theorem execThrottleRepeat_keeps {die : Nat} {s : State} (hs : P s) : Out.Has P (execThrottleRepeat die s) := by
  unfold execThrottleRepeat
  try dsimp only
  with_reducible repeat' first | assumption | exact trivial | apply throttleStep_keeps hC | apply onDie_has | apply Out.next_has | exact Out.fault_has | refine Out.of_next (by assumption) ?_ | apply ite_has | dsimp only | split

theorem execThrottleRise_keeps {die : Nat} {s : State} (hs : P s) : Out.Has P (execThrottleRise die s) := by
  unfold execThrottleRise
  try dsimp only
  with_reducible repeat' first | assumption | exact trivial | apply retarget_keeps hC | apply onDie_has | apply modDie_has hC.unit | apply Out.next_has | exact Out.fault_has | refine Out.of_next (by assumption) ?_ | intro _ _ _ _ _ _ | intro _ _ _ | intro _ _ | intro _ | apply ite_has | dsimp only | split

theorem coolantStep_keeps {s : State} (hs : P s) : P (coolantStep s) := by
  unfold coolantStep
  try dsimp only
  with_reducible repeat' first | assumption | exact trivial | apply powerAlarm_keeps hC | apply eachDie_keeps hC | apply retarget_keeps hC | apply modDie_has hC.unit | intro _ _ _ _ _ _ | intro _ _ _ | intro _ _ | intro _ | apply ite_has | dsimp only | split

theorem execCoolantFault_keeps {s : State} (hs : P s) : Out.Has P (execCoolantFault s) := by
  unfold execCoolantFault
  try dsimp only
  with_reducible repeat' first | assumption | exact trivial | apply coolantStep_keeps hC | apply refreshAlert_keeps hC | apply Out.next_has | exact Out.fault_has | refine Out.of_next (by assumption) ?_ | apply ite_has | dsimp only | split | apply set_rind hC

theorem execCoolantClear_keeps {s : State} (hs : P s) : Out.Has P (execCoolantClear s) := by
  unfold execCoolantClear
  try dsimp only
  with_reducible repeat' first | assumption | exact trivial | apply eachDie_keeps hC | apply retarget_keeps hC | apply modDie_has hC.unit | apply Out.next_has | exact Out.fault_has | refine Out.of_next (by assumption) ?_ | intro _ _ _ _ _ _ | intro _ _ _ | intro _ _ | intro _ | apply ite_has | dsimp only | split | apply set_rind hC

theorem phaseStep_keeps {s : State} {d : Nat} (hs : P s) : P (phaseStep s d) := by
  unfold phaseStep
  try dsimp only
  with_reducible repeat' first | assumption | exact trivial | apply powerAlarm_keeps hC | apply modDie_has hC.unit | intro _ _ _ _ _ _ | intro _ _ _ | intro _ _ | intro _ | apply ite_has | dsimp only | split

theorem retireDiePhase_keeps {s : State} {d : Nat} (hs : P s) : P (retireDiePhase s d) := by
  unfold retireDiePhase
  try dsimp only
  with_reducible repeat' first | assumption | exact trivial | apply phaseStep_keeps hC | apply retarget_keeps hC | apply failWorks_keeps hC | apply modDie_has hC.unit | intro _ _ _ _ _ _ | intro _ _ _ | intro _ _ | intro _ | apply ite_has | dsimp only | split

theorem retirePdPhase_keeps {s : State} {k : Nat} (hs : P s) : P (retirePdPhase s k) := by
  unfold retirePdPhase
  try dsimp only
  with_reducible repeat' first | assumption | exact trivial | apply powerAlarm_keeps hC | apply leaveUp_keeps hC | apply modPd_keeps hC | apply modPort_has hC.unit | apply foldl_has | intro _ _ _ | intro _ _ _ _ _ _ | intro _ _ | intro _ | apply ite_has | dsimp only | split

theorem retireHubPhase_keeps {s : State} (hs : P s) : P (retireHubPhase s) := by
  have h1 : P { s with hubPhases := s.hubPhases - 1 } := set_hubPhases hC hs
  unfold retireHubPhase
  dsimp only
  split
  · exact failWorks_keeps hC (powerAlarm_keeps hC (hC.upd hs rfl id id))
  · exact h1

theorem retirePhase_keeps {s : State} {die : Nat} (hs : P s) : P (retirePhase s die) := by
  unfold retirePhase
  try dsimp only
  with_reducible repeat' first | assumption | exact trivial | apply retireHubPhase_keeps hC | apply retirePdPhase_keeps hC | apply retireDiePhase_keeps hC | apply ite_has | dsimp only | split

theorem onAnyDie_keeps {d : Nat} {o : Out} (h : Out.Has P o) : Out.Has P (onAnyDie d o) := by
  unfold onAnyDie
  split
  · exact h
  · trivial

theorem execPhaseFailOpen_keeps {die : Nat} {s : State} (hs : P s) : Out.Has P (execPhaseFailOpen die s) := by
  unfold execPhaseFailOpen
  try dsimp only
  with_reducible repeat' first | assumption | exact trivial | apply onAnyDie_keeps hC | apply retirePhase_keeps hC | apply Out.next_has | exact Out.fault_has | refine Out.of_next (by assumption) ?_ | apply ite_has | dsimp only | split

theorem execPhaseSenseMismatch_keeps {die : Nat} {s : State} (hs : P s) : Out.Has P (execPhaseSenseMismatch die s) := by
  unfold execPhaseSenseMismatch
  try dsimp only
  with_reducible repeat' first | assumption | exact trivial | apply onAnyDie_keeps hC | apply retirePhase_keeps hC | apply Out.next_has | exact Out.fault_has | refine Out.of_next (by assumption) ?_ | apply ite_has | dsimp only | split

theorem execPhaseStepRepeat_keeps {die : Nat} {s : State} (hs : P s) : Out.Has P (execPhaseStepRepeat die s) := by
  unfold execPhaseStepRepeat
  try dsimp only
  with_reducible repeat' first | assumption | exact trivial | apply phaseStep_keeps hC | apply onDie_has | apply Out.next_has | exact Out.fault_has | refine Out.of_next (by assumption) ?_ | apply ite_has | dsimp only | split

theorem execCurrentExceedsPhaseCapacity_keeps {die : Nat} {s : State} (hs : P s) : Out.Has P (execCurrentExceedsPhaseCapacity die s) := by
  unfold execCurrentExceedsPhaseCapacity
  try dsimp only
  with_reducible repeat' first | assumption | exact trivial | apply phaseStep_keeps hC | apply onDie_has | apply Out.next_has | exact Out.fault_has | refine Out.of_next (by assumption) ?_ | apply ite_has | dsimp only | split

/-! ## Mailbox -/

theorem enableChannel_keeps {s : State} {ch : Nat} (hs : P s) : P (enableChannel s ch) := by
  unfold enableChannel
  try dsimp only
  with_reducible repeat' first | assumption | exact trivial | apply setCh_keeps hC | apply ite_has | dsimp only | split

theorem disableChannel_keeps {s : State} {ch : Nat} (hs : P s) : P (disableChannel s ch) := by
  unfold disableChannel
  try dsimp only
  with_reducible repeat' first | assumption | exact trivial | apply modCh_keeps hC | intro _ _ _ _ _ _ | intro _ _ _ | intro _ _ | intro _ | apply ite_has | dsimp only | split

theorem execChannelEnable_keeps {ch : Nat} {host : List HostWrite} {s : State} (hs : P s) : Out.Has P (execChannelEnable ch host s) := by
  unfold execChannelEnable
  try dsimp only
  with_reducible repeat' first | assumption | exact trivial | apply enableChannel_keeps hC | apply applyHost_has hC.unit | apply onCh_has | apply Out.next_has | exact Out.fault_has | refine Out.of_next (by assumption) ?_ | apply ite_has | dsimp only | split

theorem execChannelDisable_keeps {ch : Nat} {s : State} (hs : P s) : Out.Has P (execChannelDisable ch s) := by
  unfold execChannelDisable
  try dsimp only
  with_reducible repeat' first | assumption | exact trivial | apply disableChannel_keeps hC | apply onCh_has | apply Out.next_has | exact Out.fault_has | refine Out.of_next (by assumption) ?_ | apply ite_has | dsimp only | split

theorem ringSq_keeps {s : State} {ch : Nat} {tail : Nat} (hs : P s) : P (ringSq s ch tail) := by
  unfold ringSq
  try dsimp only
  with_reducible repeat' first | assumption | exact trivial | apply setCh_keeps hC | apply ite_has | dsimp only | split

theorem ringCq_keeps {s : State} {ch : Nat} {head : Nat} (hs : P s) : P (ringCq s ch head) := by
  unfold ringCq
  try dsimp only
  with_reducible repeat' first | assumption | exact trivial | apply setCh_keeps hC | apply ite_has | dsimp only | split

theorem execSqDoorbell_keeps {ch : Nat} {tail : Word} {host : List HostWrite} {s : State} (hs : P s) : Out.Has P (execSqDoorbell ch tail host s) := by
  unfold execSqDoorbell
  try dsimp only
  with_reducible repeat' first | assumption | exact trivial | apply ringSq_keeps hC | apply applyHost_has hC.unit | apply onCh_has | apply Out.next_has | exact Out.fault_has | refine Out.of_next (by assumption) ?_ | apply ite_has | dsimp only | split

theorem execCqDoorbell_keeps {ch : Nat} {head : Word} {s : State} (hs : P s) : Out.Has P (execCqDoorbell ch head s) := by
  unfold execCqDoorbell
  try dsimp only
  with_reducible repeat' first | assumption | exact trivial | apply ringCq_keeps hC | apply onCh_has | apply Out.next_has | exact Out.fault_has | refine Out.of_next (by assumption) ?_ | apply ite_has | dsimp only | split

theorem acceptCmd_keeps {s : State} {ch : Nat} {seq : Nat} {bs : List Byte} (hs : P s) : P (acceptCmd s ch seq bs) := by
  unfold acceptCmd
  try dsimp only
  with_reducible repeat' first | assumption | exact trivial | apply refuseField_keeps hC | apply ageLedger_keeps hC | apply putLedger_keeps hC | apply modCh_keeps hC | intro _ _ _ _ _ _ | intro _ _ _ | intro _ _ | intro _ | apply ite_has | dsimp only | split | apply set_cmds hC

theorem execCommandAccept_keeps {ch : Nat} {s : State} (hs : P s) : Out.Has P (execCommandAccept ch s) := by
  unfold execCommandAccept
  try dsimp only
  with_reducible repeat' first | assumption | exact trivial | apply acceptCmd_keeps hC | apply onCh_has | apply setCh_keeps hC | apply Out.next_has | exact Out.fault_has | refine Out.of_next (by assumption) ?_ | apply ite_has | dsimp only | split

theorem execCompletionRecordWrite_keeps {ch : Nat} {s : State} (hs : P s) : Out.Has P (execCompletionRecordWrite ch s) := by
  unfold execCompletionRecordWrite
  try dsimp only
  with_reducible repeat' first | assumption | exact trivial | apply modLedger_keeps hC | apply signalVector_keeps hC | apply hostWrite_has hC.unit | apply onCh_has | apply modCh_keeps hC | apply Out.next_has | exact Out.fault_has | refine Out.of_next (by assumption) ?_ | intro _ _ _ _ _ _ | intro _ _ _ | intro _ _ | intro _ | apply ite_has | dsimp only | split | apply set_cmds hC

theorem hostClear_keeps {s : State} {a : Nat} {n : Nat} (hs : P s) : P (hostClear s a n) := by
  unfold hostClear
  try dsimp only
  with_reducible repeat' first | assumption | exact trivial | exact fun w => wf_filter _ w | exact fun w => wf_memWrite _ _ w | intro _ _ _ _ _ _ | intro _ _ _ | intro _ _ | intro _ | apply ite_has | dsimp only | split | apply set_mem hC

theorem reviveEntry_keeps {s : State} {e : LedgerEntry} (hs : P s) : P (reviveEntry s e) := by
  unfold reviveEntry
  try dsimp only
  with_reducible repeat' first | assumption | exact trivial | apply fixResult_keeps hC | apply ledgerTurn_keeps hC | apply ledgerState_keeps hC | apply ite_has | dsimp only | split | apply set_cmds hC

theorem syncCounts_keeps {s : State} (hs : P s) : P (syncCounts s) := by
  unfold syncCounts
  try dsimp only
  with_reducible repeat' first | assumption | exact trivial | apply modCh_keeps hC | apply foldl_has | intro _ _ _ | intro _ _ _ _ _ _ | intro _ _ | intro _ | apply ite_has | dsimp only | split

theorem writeArea_keeps {s : State} (hs : P s) : P (writeArea s) := by
  unfold writeArea
  try dsimp only
  with_reducible repeat' first | assumption | exact trivial | apply hostClear_keeps hC | apply hostWrite_has hC.unit | apply foldl_has | intro _ _ _ | intro _ _ _ _ _ _ | intro _ _ | intro _ | apply ite_has | dsimp only | split

theorem attachLedger_keeps {s : State} (hs : P s) : P (attachLedger s) := by
  unfold attachLedger
  try dsimp only
  with_reducible repeat' first | assumption | exact trivial | apply writeArea_keeps hC | apply syncCounts_keeps hC | apply reviveEntry_keeps hC | apply hostClear_keeps hC | apply foldl_has | intro _ _ _ | intro _ _ _ _ _ _ | intro _ _ | intro _ | apply ite_has | dsimp only | split | apply set_ledger hC | apply set_ledger_hbmLost hC | apply set_hbmLost hC

theorem execLedgerAttach_keeps {host : List HostWrite} {s : State} (hs : P s) : Out.Has P (execLedgerAttach host s) := by
  unfold execLedgerAttach
  try dsimp only
  with_reducible repeat' first | assumption | exact trivial | apply attachLedger_keeps hC | apply applyHost_has hC.unit | apply Out.next_has | exact Out.fault_has | refine Out.of_next (by assumption) ?_ | apply ite_has | dsimp only | split

theorem writeEvqCtrl_keeps {s : State} {v : Word} (hs : P s) : P (writeEvqCtrl s v) := by
  unfold writeEvqCtrl
  try dsimp only
  with_reducible repeat' first | assumption | exact trivial | apply ite_has | dsimp only | split | apply set_evq hC

theorem execEvqEnable_keeps {value : Word} {s : State} (hs : P s) : Out.Has P (execEvqEnable value s) := by
  unfold execEvqEnable
  try dsimp only
  with_reducible repeat' first | assumption | exact trivial | apply writeEvqCtrl_keeps hC | apply Out.next_has | exact Out.fault_has | refine Out.of_next (by assumption) ?_ | apply ite_has | dsimp only | split

theorem execEvqDisable_keeps {s : State} (hs : P s) : Out.Has P (execEvqDisable s) := by
  unfold execEvqDisable
  try dsimp only
  with_reducible repeat' first | assumption | exact trivial | apply Out.next_has | exact Out.fault_has | refine Out.of_next (by assumption) ?_ | apply ite_has | dsimp only | split | apply set_evq hC

theorem writeEvqHead_keeps {s : State} {head : Nat} (hs : P s) : P (writeEvqHead s head) := by
  unfold writeEvqHead
  try dsimp only
  with_reducible repeat' first | assumption | exact trivial | apply ite_has | dsimp only | split | apply set_evq hC

theorem execEvqDoorbell_keeps {head : Word} {s : State} (hs : P s) : Out.Has P (execEvqDoorbell head s) := by
  unfold execEvqDoorbell
  try dsimp only
  with_reducible repeat' first | assumption | exact trivial | apply writeEvqHead_keeps hC | apply Out.next_has | exact Out.fault_has | refine Out.of_next (by assumption) ?_ | apply ite_has | dsimp only | split

theorem takeRecord_keeps {s : State} (hs : P s) : ∀ r t, takeRecord s = some (r, t) → P t := by
  intro r t e
  unfold takeRecord at e
  split at e
  · cases e; exact set_evq hC hs
  · dsimp only at e
    obtain ⟨x, -, e⟩ := Option.map_eq_some_iff.mp e
    cases e
    exact modCore_has hC.unit hs

theorem execEventRecordWrite_keeps {s : State} (hs : P s) : Out.Has P (execEventRecordWrite s) := by
  unfold execEventRecordWrite
  split
  · exact hs
  · rename_i r place part s1 e
    have h1 : P s1 := by
      split at e
      · exact takeRecord_keeps hC hs _ _ e
      · cases e
    dsimp only
    split
    · exact raiseAlarm_keeps hC (set_evq hC h1)
    · exact signalVector_keeps hC (set_evq hC (hostWrite_has hC.unit h1))

/-! ## Registers -/

theorem writeAlarmEnable_keeps {s : State} {v : Word} (hs : P s) : P (writeAlarmEnable s v) := by
  unfold writeAlarmEnable
  try dsimp only
  with_reducible repeat' first | assumption | exact trivial | apply refreshWake_keeps hC | apply signalVector_keeps hC | apply ite_has | dsimp only | split | apply set_alarms hC

theorem refuseAssayWrite_keeps {s : State} (hs : P s) : P (refuseAssayWrite s) := set_stamp hC (fun h => h) hs

theorem writePdSelect_keeps {s : State} {v : Word} (hs : P s) : P (writePdSelect s v) := by
  unfold writePdSelect
  try dsimp only
  with_reducible repeat' first | assumption | exact trivial | apply ite_has | dsimp only | split | apply set_pdSelect hC

theorem channelWrite_keeps {s : State} {ch : Nat} {off : Nat} {v : Word} (hs : P s) : P (channelWrite s ch off v) := by
  unfold channelWrite
  try dsimp only
  with_reducible repeat' first | assumption | exact trivial | apply ringCq_keeps hC | apply ringSq_keeps hC | apply disableChannel_keeps hC | apply enableChannel_keeps hC | apply setCh_keeps hC | apply ite_has | dsimp only | split

theorem writeMsix_keeps {s : State} {k : Nat} {v : Word} (hs : P s) : P (writeMsix s k v) := by
  unfold writeMsix
  try dsimp only
  with_reducible repeat' first | assumption | exact trivial | apply signalVector_keeps hC | apply setPending_keeps hC | apply ite_has | dsimp only | split | apply set_msix hC

theorem writeLedgerCtrl_keeps {s : State} {v : Word} (hs : P s) : P (writeLedgerCtrl s v) := by
  unfold writeLedgerCtrl
  try dsimp only
  with_reducible repeat' first | assumption | exact trivial | apply attachLedger_keeps hC | apply ite_has | dsimp only | split | apply set_ledger hC

theorem queueWrite_keeps {s : State} {off : Nat} {v : Word} (hs : P s) : P (queueWrite s off v) := by
  unfold queueWrite
  try dsimp only
  with_reducible repeat' first | assumption | exact trivial | apply writeLedgerCtrl_keeps hC | apply writeEvqHead_keeps hC | apply writeEvqCtrl_keeps hC | apply ite_has | dsimp only | split | apply set_ledger hC | apply set_evq hC

theorem statusWrite_keeps {s : State} {off : Nat} {v : Word} (hs : P s) : P (statusWrite s off v) := by
  unfold statusWrite
  try dsimp only
  with_reducible repeat' first | assumption | exact trivial | apply writePdSelect_keeps hC | apply writeAlarmEnable_keeps hC | apply auxPwrClear_keeps hC | apply clearAlarms_keeps hC | apply modDie_has hC.unit | intro _ _ _ _ _ _ | intro _ _ _ | intro _ _ | intro _ | apply ite_has | dsimp only | split

theorem bar0Write_keeps {s : State} {off : Nat} {v : Word} (hs : P s) : P (bar0Write s off v) := by
  unfold bar0Write
  try dsimp only
  with_reducible repeat' first | assumption | exact trivial | apply statusWrite_keeps hC | apply queueWrite_keeps hC | apply writeMsix_keeps hC | apply channelWrite_keeps hC | apply refuseAssayWrite_keeps hC | apply ite_has | dsimp only | split

theorem execAlarmEnableWrite_keeps {value : Word} {s : State} (hs : P s) : Out.Has P (execAlarmEnableWrite value s) := by
  unfold execAlarmEnableWrite
  try dsimp only
  with_reducible repeat' first | assumption | exact trivial | apply writeAlarmEnable_keeps hC | apply Out.next_has | exact Out.fault_has | refine Out.of_next (by assumption) ?_ | apply ite_has | dsimp only | split

theorem execAssayStatusWrite_keeps {offset : Nat} {_value : Word} {s : State} (hs : P s) : Out.Has P (execAssayStatusWrite offset _value s) := by
  unfold execAssayStatusWrite
  try dsimp only
  with_reducible repeat' first | assumption | exact trivial | apply refuseAssayWrite_keeps hC | apply Out.next_has | exact Out.fault_has | refine Out.of_next (by assumption) ?_ | apply ite_has | dsimp only | split

theorem execRegisterWrite_keeps {offset : Nat} {value : Word} {s : State} (hs : P s) : Out.Has P (execRegisterWrite offset value s) := by
  unfold execRegisterWrite
  try dsimp only
  with_reducible repeat' first | assumption | exact trivial | apply bar0Write_keeps hC | apply Out.next_has | exact Out.fault_has | refine Out.of_next (by assumption) ?_ | apply ite_has | dsimp only | split

theorem windowRead_keeps {s : State} {ps : List (Nat × Nat)} (hs : P s) : P (windowRead s ps).2.1 := by
  unfold windowRead
  generalize h0 : (([], s, false) : List Byte × State × Bool) = x
  have h1 : P x.2.1 := by rw [← h0]; exact hs
  clear h0
  induction ps generalizing x with
  | nil => exact h1
  | cons a t ih => exact ih _ (checkRead_has hC.unit h1)

theorem execBar2Read_keeps {offset len : Nat} {s : State} (hs : P s) : Out.Has P (execBar2Read offset len s) := by
  unfold execBar2Read
  split
  · exact hs
  split
  · exact set_bar2 hC hs
  split
  · exact set_bar2 hC hs
  · rename_i ps e
    split
    · exact hs
    split
    · rename_i e2
      exact set_bar2 hC (by have h := windowRead_keeps hC (ps := ps) hs; rw [e2] at h; exact h)
    · rename_i e2
      exact raiseAlarm_keeps hC (set_bar2 hC (by have h := windowRead_keeps hC (ps := ps) hs; rw [e2] at h; exact h))

theorem windowWrite_keeps {s : State} {a : Nat} {data : List Byte} (hs : P s) : P (windowWrite s a data) := by
  unfold windowWrite
  try dsimp only
  with_reducible repeat' first | assumption | exact trivial | apply raiseAlarm_keeps hC | apply putRow_has hC.unit | apply queueRec_has hC.unit | refine fst_of (by assumption) ?_ | apply ite_has | dsimp only | split

theorem execBar2Write_keeps {offset : Nat} {data : List Byte} {s : State} (hs : P s) :
    Out.Has P (execBar2Write offset data s) := by
  unfold execBar2Write
  split
  · exact hs
  split
  · exact raiseAlarm_keeps hC hs
  split
  · exact hs
  · exact Out.next_has (foldl_fst (fun x p h => windowWrite_keeps hC h) hs)

theorem execLinkReachesL0_keeps {s : State} (hs : P s) : Out.Has P (execLinkReachesL0 s) := by
  unfold execLinkReachesL0
  try dsimp only
  with_reducible repeat' first | assumption | exact trivial | apply refreshWake_keeps hC | apply Out.next_has | exact Out.fault_has | refine Out.of_next (by assumption) ?_ | apply ite_has | dsimp only | split | apply set_l0 hC

/-! ## Reset -/

theorem dropLegacy_keeps {s : State} (hs : P s) : P (dropLegacy s) := by
  unfold dropLegacy
  try dsimp only
  with_reducible repeat' first | assumption | exact trivial | apply stopCores_keeps hC | apply foldl_has | intro _ _ _ | intro _ _ _ _ _ _ | intro _ _ | intro _ | apply ite_has | dsimp only | split | apply set_works_cmds_reproWait hC

theorem endpointReset_keeps {s : State} (hs : P s) : P (endpointReset s) := by
  unfold endpointReset
  try dsimp only
  with_reducible repeat' first | assumption | exact trivial | apply dropLegacy_keeps hC | apply refreshWake_keeps hC | apply ite_has | dsimp only | split | apply set_ledger_channels_evq_msix_endpointUp_l0_bar2 hC

theorem systemReset_keeps {s : State} {lost : Bool} (hs : P s) : P (systemReset s lost) := by
  unfold systemReset
  dsimp only
  apply refreshWake_keeps hC
  exact hC.upd (endpointReset_keeps hC hs) rfl (fun _ => stampOk_none rfl) (fun w => wf_filter _ w)

theorem rindReset_keeps {s : State} {strap : BitVec 2} (hs : P s) : P (rindReset s strap) :=
  hC.upd hs rfl (fun _ => stampOk_none rfl) id

theorem fullReset_keeps {s : State} {strap : BitVec 2} (hs : P s) : P (fullReset s strap) := by
  unfold fullReset
  try dsimp only
  with_reducible repeat' first | assumption | exact trivial | apply rindReset_keeps hC | apply systemReset_keeps hC | apply ite_has | dsimp only | split

theorem execAonRst_keeps {smbAddr : BitVec 2} {s : State} (hs : P s) : Out.Has P (execAonRst smbAddr s) := by
  unfold execAonRst
  try dsimp only
  with_reducible repeat' first | assumption | exact trivial | apply fullReset_keeps hC | apply Out.next_has | exact Out.fault_has | refine Out.of_next (by assumption) ?_ | apply ite_has | dsimp only | split

theorem execSysRst_keeps {s : State} (hs : P s) : Out.Has P (execSysRst s) := by
  unfold execSysRst
  try dsimp only
  with_reducible repeat' first | assumption | exact trivial | apply systemReset_keeps hC | apply Out.next_has | exact Out.fault_has | refine Out.of_next (by assumption) ?_ | apply ite_has | dsimp only | split

theorem execVaonLoss_keeps {s : State} (hs : P s) : Out.Has P (execVaonLoss s) := by
  unfold execVaonLoss
  try dsimp only
  with_reducible repeat' first | assumption | exact trivial | exact fun w => wf_filter _ w | exact fun w => wf_memWrite _ _ w | apply fullReset_keeps hC | apply Out.next_has | exact Out.fault_has | refine Out.of_next (by assumption) ?_ | intro _ _ _ _ _ _ | intro _ _ _ | intro _ _ | intro _ | apply ite_has | dsimp only | split | apply set_mem_poison_errOne_errMany_works_m3 hC

theorem execVaonRise_keeps {smbAddr : BitVec 2} {s : State} (hs : P s) : Out.Has P (execVaonRise smbAddr s) := by
  unfold execVaonRise
  try dsimp only
  with_reducible repeat' first | assumption | exact trivial | apply fullReset_keeps hC | apply Out.next_has | exact Out.fault_has | refine Out.of_next (by assumption) ?_ | apply ite_has | dsimp only | split | apply set_m3 hC

theorem holdHubPads_keeps {s : State} (hs : P s) : P (holdHubPads s) := by
  unfold holdHubPads
  try dsimp only
  with_reducible repeat' first | assumption | exact trivial | apply ite_has | dsimp only | split | apply set_pads hC

theorem inM2_keeps {s : State} {lost : Bool} (hs : P s) : P (inM2 s lost) := by
  unfold inM2
  try dsimp only
  with_reducible repeat' first | assumption | exact trivial | apply holdHubPads_keeps hC | apply systemReset_keeps hC | apply ite_has | dsimp only | split | apply set_endpointUp_modulePd hC

theorem leaveM2_keeps {s : State} (hs : P s) : P (leaveM2 s) := by
  unfold leaveM2
  try dsimp only
  with_reducible repeat' first | assumption | exact trivial | apply ite_has | dsimp only | split | apply set_endpointUp_smbus_modulePd hC

theorem execDomainEntryBegin_keeps {dom : Domain} {s : State} (hs : P s) : Out.Has P (execDomainEntryBegin dom s) := by
  unfold execDomainEntryBegin
  try dsimp only
  with_reducible repeat' first | assumption | exact trivial | apply onDomain_keeps hC | apply setPower_keeps hC | apply Out.next_has | exact Out.fault_has | refine Out.of_next (by assumption) ?_ | apply ite_has | dsimp only | split

theorem passPoint_keeps {s : State} {dom : Domain} (hs : P s) : P (passPoint s dom) := by
  unfold passPoint
  try dsimp only
  with_reducible repeat' first | assumption | exact trivial | apply holdHubPads_keeps hC | apply modStack_has hC.unit | apply foldl_has | intro _ _ _ | intro _ _ _ _ _ _ | intro _ _ | intro _ | apply ite_has | dsimp only | split | apply set_pads hC

theorem finishEntry_keeps {s : State} {dom : Domain} {e : Entry} (hs : P s) : P (finishEntry s dom e) := by
  unfold finishEntry
  try dsimp only
  with_reducible repeat' first | assumption | exact trivial | apply inM2_keeps hC | apply coreDown_keeps hC | apply leaveUp_keeps hC | apply modPower_keeps hC | apply foldl_has | intro _ _ _ | intro _ _ _ _ _ _ | intro _ _ | intro _ | apply ite_has | dsimp only | split

theorem execEntryComplete_keeps {dom : Domain} {s : State} (hs : P s) : Out.Has P (execEntryComplete dom s) := by
  unfold execEntryComplete
  try dsimp only
  with_reducible repeat' first | assumption | exact trivial | apply finishEntry_keeps hC | apply passPoint_keeps hC | apply onDomain_keeps hC | apply setPower_keeps hC | apply Out.next_has | exact Out.fault_has | refine Out.of_next (by assumption) ?_ | apply ite_has | dsimp only | split

theorem execWakeComplete_keeps {dom : Domain} {s : State} (hs : P s) : Out.Has P (execWakeComplete dom s) := by
  unfold execWakeComplete
  try dsimp only
  with_reducible repeat' first | assumption | exact trivial | apply leaveM2_keeps hC | apply onDomain_keeps hC | apply photonicUp_keeps hC | apply dieWake_keeps hC | apply coreUp_keeps hC | apply Out.next_has | exact Out.fault_has | refine Out.of_next (by assumption) ?_ | apply ite_has | dsimp only | split

theorem onPad_keeps {p : Pad} {o : Out} (h : Out.Has P o) : Out.Has P (onPad p o) := by
  unfold onPad
  split
  · exact onDie_has h
  · exact onDie_has (onDie_has h)
  · exact h
  · exact h
  · exact h

theorem execPadRelease_keeps {pad : Pad} {s : State} (hs : P s) : Out.Has P (execPadRelease pad s) := by
  unfold execPadRelease
  try dsimp only
  with_reducible repeat' first | assumption | exact trivial | apply onPad_keeps hC | apply Out.next_has | exact Out.fault_has | refine Out.of_next (by assumption) ?_ | intro _ _ _ _ _ _ | intro _ _ _ | intro _ _ | intro _ | apply ite_has | dsimp only | split | apply set_pads hC

theorem execThermTrip_keeps {die : Nat} {sensor : Nat} {s : State} (hs : P s) : Out.Has P (execThermTrip die sensor s) := by
  unfold execThermTrip
  try dsimp only
  with_reducible repeat' first | assumption | exact trivial | apply inM2_keeps hC | apply onAnyDie_keeps hC | apply refreshAlert_keeps hC | apply Out.next_has | exact Out.fault_has | refine Out.of_next (by assumption) ?_ | apply ite_has | dsimp only | split | apply set_rind_restarted hC

theorem execSupplyFault_keeps {supply : Nat} {s : State} (hs : P s) : Out.Has P (execSupplyFault supply s) := by
  unfold execSupplyFault
  try dsimp only
  with_reducible repeat' first | assumption | exact trivial | apply inM2_keeps hC | apply refreshAlert_keeps hC | apply Out.next_has | exact Out.fault_has | refine Out.of_next (by assumption) ?_ | apply ite_has | dsimp only | split | apply set_rind_restarted hC

theorem execRindAlarm_keeps {s : State} (hs : P s) : Out.Has P (execRindAlarm s) := by
  unfold execRindAlarm
  try dsimp only
  with_reducible repeat' first | assumption | exact trivial | apply wakeEvent_keeps hC | apply Out.next_has | exact Out.fault_has | refine Out.of_next (by assumption) ?_ | apply ite_has | dsimp only | split | apply set_rind hC

theorem execSmbusAddressMatch_keeps {address : BitVec 7} {s : State} (hs : P s) : Out.Has P (execSmbusAddressMatch address s) := by
  unfold execSmbusAddressMatch
  try dsimp only
  with_reducible repeat' first | assumption | exact trivial | apply wakeEvent_keeps hC | apply Out.next_has | exact Out.fault_has | refine Out.of_next (by assumption) ?_ | apply ite_has | dsimp only | split | apply set_smbus hC

theorem execPerstAssert_keeps {s : State} (hs : P s) : Out.Has P (execPerstAssert s) := by
  unfold execPerstAssert
  try dsimp only
  with_reducible repeat' first | assumption | exact trivial | apply endpointReset_keeps hC | apply Out.next_has | exact Out.fault_has | refine Out.of_next (by assumption) ?_ | apply ite_has | dsimp only | split | apply set_perstN hC

theorem execHostLinkLoss_keeps {s : State} (hs : P s) : Out.Has P (execHostLinkLoss s) := by
  unfold execHostLinkLoss
  try dsimp only
  with_reducible repeat' first | assumption | exact trivial | apply endpointReset_keeps hC | apply Out.next_has | exact Out.fault_has | refine Out.of_next (by assumption) ?_ | apply ite_has | dsimp only | split | apply set_endpointUp hC

theorem execPerstDeassert_keeps {legacyStrap : Bool} {s : State} (hs : P s) : Out.Has P (execPerstDeassert legacyStrap s) := by
  unfold execPerstDeassert
  try dsimp only
  with_reducible repeat' first | assumption | exact trivial | apply dropLegacy_keeps hC | apply wakeEvent_keeps hC | apply Out.next_has | exact Out.fault_has | refine Out.of_next (by assumption) ?_ | apply ite_has | dsimp only | split | apply set_endpointUp_perstN_legacy_boot hC

/-! ## Smbus -/

theorem smbTalk_keeps {s : State} {f : State → State} (hs : P s) (hf : ∀ s, P s → P (f s)) : Out.Has P (smbTalk s f) := by
  unfold smbTalk
  split
  · exact hs
  split
  · exact Out.next_has (hf _ (ite_has (wakeEvent_keeps hC hs) hs))
  · exact Out.next_has (wakeEvent_keeps hC (set_smbus hC hs))

theorem smbReply_keeps {s : State} {bs : List Byte} (hs : P s) : P (smbReply s bs) := by
  unfold smbReply
  try dsimp only
  with_reducible repeat' first | assumption | exact trivial | apply ite_has | dsimp only | split | apply set_smbus hC

theorem smbNack_keeps {s : State} (hs : P s) : P (smbNack s) := by
  unfold smbNack
  try dsimp only
  with_reducible repeat' first | assumption | exact trivial | apply ite_has | dsimp only | split | apply set_smbus hC

theorem execSmbIdentRead_keeps {s : State} (hs : P s) : Out.Has P (execSmbIdentRead s) := by
  unfold execSmbIdentRead
  try dsimp only
  with_reducible repeat' first | assumption | exact trivial | apply smbReply_keeps hC | apply smbTalk_keeps hC | apply Out.next_has | exact Out.fault_has | refine Out.of_next (by assumption) ?_ | intro _ _ _ _ _ _ | intro _ _ _ | intro _ _ | intro _ | apply ite_has | dsimp only | split

theorem execSmbStateRead_keeps {s : State} (hs : P s) : Out.Has P (execSmbStateRead s) := by
  unfold execSmbStateRead
  try dsimp only
  with_reducible repeat' first | assumption | exact trivial | apply smbReply_keeps hC | apply smbTalk_keeps hC | apply Out.next_has | exact Out.fault_has | refine Out.of_next (by assumption) ?_ | intro _ _ _ _ _ _ | intro _ _ _ | intro _ _ | intro _ | apply ite_has | dsimp only | split

theorem execSmbLatchRead_keeps {s : State} (hs : P s) : Out.Has P (execSmbLatchRead s) := by
  unfold execSmbLatchRead
  try dsimp only
  with_reducible repeat' first | assumption | exact trivial | apply smbReply_keeps hC | apply smbTalk_keeps hC | apply Out.next_has | exact Out.fault_has | refine Out.of_next (by assumption) ?_ | intro _ _ _ _ _ _ | intro _ _ _ | intro _ _ | intro _ | apply ite_has | dsimp only | split

theorem execSmbLatchWrite_keeps {pecOk : Bool} {value : Byte} {s : State} (hs : P s) : Out.Has P (execSmbLatchWrite pecOk value s) := by
  unfold execSmbLatchWrite
  try dsimp only
  with_reducible repeat' first | assumption | exact trivial | apply smbNack_keeps hC | apply smbTalk_keeps hC | apply Out.next_has | exact Out.fault_has | refine Out.of_next (by assumption) ?_ | intro _ _ _ _ _ _ | intro _ _ _ | intro _ _ | intro _ | apply ite_has | dsimp only | split | apply set_smbus_rind hC

theorem execSmbTempRead_keeps {s : State} (hs : P s) : Out.Has P (execSmbTempRead s) := by
  unfold execSmbTempRead
  try dsimp only
  with_reducible repeat' first | assumption | exact trivial | apply smbReply_keeps hC | apply smbTalk_keeps hC | apply Out.next_has | exact Out.fault_has | refine Out.of_next (by assumption) ?_ | intro _ _ _ _ _ _ | intro _ _ _ | intro _ _ | intro _ | apply ite_has | dsimp only | split

theorem execSmbPowerRead_keeps {s : State} (hs : P s) : Out.Has P (execSmbPowerRead s) := by
  unfold execSmbPowerRead
  try dsimp only
  with_reducible repeat' first | assumption | exact trivial | apply smbReply_keeps hC | apply smbTalk_keeps hC | apply Out.next_has | exact Out.fault_has | refine Out.of_next (by assumption) ?_ | intro _ _ _ _ _ _ | intro _ _ _ | intro _ _ | intro _ | apply ite_has | dsimp only | split

theorem execSmbAlarmRead_keeps {s : State} (hs : P s) : Out.Has P (execSmbAlarmRead s) := by
  unfold execSmbAlarmRead
  try dsimp only
  with_reducible repeat' first | assumption | exact trivial | apply smbReply_keeps hC | apply smbTalk_keeps hC | apply Out.next_has | exact Out.fault_has | refine Out.of_next (by assumption) ?_ | intro _ _ _ _ _ _ | intro _ _ _ | intro _ _ | intro _ | apply ite_has | dsimp only | split

theorem execSmbAlertEnRead_keeps {s : State} (hs : P s) : Out.Has P (execSmbAlertEnRead s) := by
  unfold execSmbAlertEnRead
  try dsimp only
  with_reducible repeat' first | assumption | exact trivial | apply smbReply_keeps hC | apply smbTalk_keeps hC | apply Out.next_has | exact Out.fault_has | refine Out.of_next (by assumption) ?_ | intro _ _ _ _ _ _ | intro _ _ _ | intro _ _ | intro _ | apply ite_has | dsimp only | split

theorem execSmbAlertEnWrite_keeps {pecOk : Bool} {value : Half} {s : State} (hs : P s) : Out.Has P (execSmbAlertEnWrite pecOk value s) := by
  unfold execSmbAlertEnWrite
  try dsimp only
  with_reducible repeat' first | assumption | exact trivial | apply smbNack_keeps hC | apply smbTalk_keeps hC | apply refreshAlert_keeps hC | apply Out.next_has | exact Out.fault_has | refine Out.of_next (by assumption) ?_ | intro _ _ _ _ _ _ | intro _ _ _ | intro _ _ | intro _ | apply ite_has | dsimp only | split | apply set_smbus hC

theorem issueNonce_keeps {s : State} (hs : P s) : P (issueNonce s) := by
  unfold issueNonce
  try dsimp only
  with_reducible repeat' first | assumption | exact trivial | apply smbReply_keeps hC | apply takeFree_has hC.unit | refine snd_of (by assumption) ?_ | apply ite_has | dsimp only | split | apply set_assay hC

theorem execSmbNonceRead_keeps {s : State} (hs : P s) : Out.Has P (execSmbNonceRead s) := by
  unfold execSmbNonceRead
  try dsimp only
  with_reducible repeat' first | assumption | exact trivial | apply issueNonce_keeps hC | apply smbNack_keeps hC | apply smbTalk_keeps hC | apply Out.next_has | exact Out.fault_has | refine Out.of_next (by assumption) ?_ | intro _ _ _ _ _ _ | intro _ _ _ | intro _ _ | intro _ | apply ite_has | dsimp only | split

theorem execSmbusAlertResponse_keeps {s : State} (hs : P s) : Out.Has P (execSmbusAlertResponse s) := by
  unfold execSmbusAlertResponse
  split
  · exact smbNack_keeps hC hs
  · exact smbTalk_keeps hC hs fun s h => set_smbus hC (smbReply_keeps hC h)

theorem execSmbusTimeout_keeps {s : State} (hs : P s) : Out.Has P (execSmbusTimeout s) := by
  unfold execSmbusTimeout
  try dsimp only
  with_reducible repeat' first | assumption | exact trivial | apply Out.next_has | exact Out.fault_has | refine Out.of_next (by assumption) ?_ | apply ite_has | dsimp only | split | apply set_smbus hC

/-! ## LinkCommands -/

theorem execSetModuleId_keeps {seq : Nat} {s : State} (hs : P s) : Out.Has P (execSetModuleId seq s) := by
  unfold execSetModuleId
  try dsimp only
  with_reducible repeat' first | assumption | exact trivial | apply runCmd_keeps hC | apply fixResult_keeps hC | apply Out.next_has | exact Out.fault_has | refine Out.of_next (by assumption) ?_ | intro _ _ _ _ _ _ | intro _ _ _ | intro _ _ | intro _ | apply ite_has | dsimp only | split | apply set_moduleId hC

theorem writeRoute_keeps {s : State} {id : Nat} {e : Word} (hs : P s) : P (writeRoute s id e) := by
  unfold writeRoute
  try dsimp only
  with_reducible repeat' first | assumption | exact trivial | intro _ _ _ _ _ _ | intro _ _ _ | intro _ _ | intro _ | apply ite_has | dsimp only | split | apply set_dies_routes hC

theorem execSetRoutes_keeps {seq : Nat} {s : State} (hs : P s) : Out.Has P (execSetRoutes seq s) := by
  unfold execSetRoutes
  try dsimp only
  with_reducible repeat' first | assumption | exact trivial | apply writeRoute_keeps hC | apply runCmd_keeps hC | apply refuseField_keeps hC | apply fixResult_keeps hC | apply retryForwards_keeps hC | apply Out.next_has | exact Out.fault_has | refine Out.of_next (by assumption) ?_ | apply foldl_has | intro _ _ _ | intro _ _ _ _ _ _ | intro _ _ | intro _ | apply ite_has | dsimp only | split

theorem onFreePort_keeps {s act : State} {bs : List Byte} (hs : P s) (ha : P act) : P (onFreePort s bs act) := ite_has hs ha

theorem execPortDisable_keeps {seq : Nat} {s : State} (hs : P s) : Out.Has P (execPortDisable seq s) := by
  unfold execPortDisable
  try dsimp only
  with_reducible repeat' first | assumption | exact trivial | apply onFreePort_keeps hC | apply runCmd_keeps hC | apply fixResult_keeps hC | apply leaveUp_keeps hC | apply modPort_has hC.unit | apply Out.next_has | exact Out.fault_has | refine Out.of_next (by assumption) ?_ | intro _ _ _ _ _ _ | intro _ _ _ | intro _ _ | intro _ | apply ite_has | dsimp only | split

theorem execPortEnable_keeps {seq : Nat} {s : State} (hs : P s) : Out.Has P (execPortEnable seq s) := by
  unfold execPortEnable
  try dsimp only
  with_reducible repeat' first | assumption | exact trivial | apply onFreePort_keeps hC | apply runCmd_keeps hC | apply fixResult_keeps hC | apply modPort_has hC.unit | apply Out.next_has | exact Out.fault_has | refine Out.of_next (by assumption) ?_ | intro _ _ _ _ _ _ | intro _ _ _ | intro _ _ | intro _ | apply ite_has | dsimp only | split

theorem execForwardingOff_keeps {seq : Nat} {s : State} (hs : P s) : Out.Has P (execForwardingOff seq s) := by
  unfold execForwardingOff
  try dsimp only
  with_reducible repeat' first | assumption | exact trivial | apply onFreePort_keeps hC | apply runCmd_keeps hC | apply fixResult_keeps hC | apply modPort_has hC.unit | apply Out.next_has | exact Out.fault_has | refine Out.of_next (by assumption) ?_ | intro _ _ _ _ _ _ | intro _ _ _ | intro _ _ | intro _ | apply ite_has | dsimp only | split

theorem execForwardingOn_keeps {seq : Nat} {s : State} (hs : P s) : Out.Has P (execForwardingOn seq s) := by
  unfold execForwardingOn
  try dsimp only
  with_reducible repeat' first | assumption | exact trivial | apply onFreePort_keeps hC | apply runCmd_keeps hC | apply fixResult_keeps hC | apply retryForwards_keeps hC | apply modPort_has hC.unit | apply Out.next_has | exact Out.fault_has | refine Out.of_next (by assumption) ?_ | intro _ _ _ _ _ _ | intro _ _ _ | intro _ _ | intro _ | apply ite_has | dsimp only | split

theorem execPreferLeader_keeps {seq : Nat} {s : State} (hs : P s) : Out.Has P (execPreferLeader seq s) := by
  unfold execPreferLeader
  try dsimp only
  with_reducible repeat' first | assumption | exact trivial | apply onFreePort_keeps hC | apply runCmd_keeps hC | apply fixResult_keeps hC | apply modPort_has hC.unit | apply Out.next_has | exact Out.fault_has | refine Out.of_next (by assumption) ?_ | intro _ _ _ _ _ _ | intro _ _ _ | intro _ _ | intro _ | apply ite_has | dsimp only | split

theorem execPreferFollower_keeps {seq : Nat} {s : State} (hs : P s) : Out.Has P (execPreferFollower seq s) := by
  unfold execPreferFollower
  try dsimp only
  with_reducible repeat' first | assumption | exact trivial | apply onFreePort_keeps hC | apply runCmd_keeps hC | apply fixResult_keeps hC | apply modPort_has hC.unit | apply Out.next_has | exact Out.fault_has | refine Out.of_next (by assumption) ?_ | intro _ _ _ _ _ _ | intro _ _ _ | intro _ _ | intro _ | apply ite_has | dsimp only | split

theorem execEncryptionOff_keeps {seq : Nat} {s : State} (hs : P s) : Out.Has P (execEncryptionOff seq s) := by
  unfold execEncryptionOff
  try dsimp only
  with_reducible repeat' first | assumption | exact trivial | apply onFreePort_keeps hC | apply runCmd_keeps hC | apply fixResult_keeps hC | apply modPort_has hC.unit | apply Out.next_has | exact Out.fault_has | refine Out.of_next (by assumption) ?_ | intro _ _ _ _ _ _ | intro _ _ _ | intro _ _ | intro _ | apply ite_has | dsimp only | split

theorem execEncryptionOn_keeps {seq : Nat} {s : State} (hs : P s) : Out.Has P (execEncryptionOn seq s) := by
  unfold execEncryptionOn
  try dsimp only
  with_reducible repeat' first | assumption | exact trivial | apply onFreePort_keeps hC | apply runCmd_keeps hC | apply refuseState_keeps hC | apply fixResult_keeps hC | apply modPort_has hC.unit | apply Out.next_has | exact Out.fault_has | refine Out.of_next (by assumption) ?_ | intro _ _ _ _ _ _ | intro _ _ _ | intro _ _ | intro _ | apply ite_has | dsimp only | split

theorem execInstallKey_keeps {seq : Nat} {s : State} (hs : P s) : Out.Has P (execInstallKey seq s) := by
  unfold execInstallKey
  try dsimp only
  with_reducible repeat' first | assumption | exact trivial | apply onFreePort_keeps hC | apply runCmd_keeps hC | apply refusePerm_keeps hC | apply refuseState_keeps hC | apply refuseField_keeps hC | apply fixResult_keeps hC | apply modPort_has hC.unit | apply Out.next_has | exact Out.fault_has | refine Out.of_next (by assumption) ?_ | intro _ _ _ _ _ _ | intro _ _ _ | intro _ _ | intro _ | apply ite_has | dsimp only | split

theorem execLaserRelease_keeps {seq : Nat} {s : State} (hs : P s) : Out.Has P (execLaserRelease seq s) := by
  unfold execLaserRelease
  try dsimp only
  with_reducible repeat' first | assumption | exact trivial | apply runCmd_keeps hC | apply refuseState_keeps hC | apply fixResult_keeps hC | apply switchInputs_keeps hC | apply modPd_keeps hC | apply Out.next_has | exact Out.fault_has | refine Out.of_next (by assumption) ?_ | intro _ _ _ _ _ _ | intro _ _ _ | intro _ _ | intro _ | apply ite_has | dsimp only | split | apply set_full hC

theorem execLaserRestore_keeps {seq : Nat} {s : State} (hs : P s) : Out.Has P (execLaserRestore seq s) := by
  unfold execLaserRestore
  try dsimp only
  with_reducible repeat' first | assumption | exact trivial | apply runCmd_keeps hC | apply refuseState_keeps hC | apply fixResult_keeps hC | apply switchInputs_keeps hC | apply takeFree_has hC.unit | apply modPd_keeps hC | apply Out.next_has | exact Out.fault_has | refine Out.of_next (by assumption) ?_ | refine snd_of (by assumption) ?_ | intro _ _ _ _ _ _ | intro _ _ _ | intro _ _ | intro _ | apply ite_has | dsimp only | split | apply set_full hC

theorem execSetReproducible_keeps {seq : Nat} {s : State} (hs : P s) : Out.Has P (execSetReproducible seq s) := by
  unfold execSetReproducible
  try dsimp only
  with_reducible repeat' first | assumption | exact trivial | apply runCmd_keeps hC | apply beginCmd_keeps hC | apply fixResult_keeps hC | apply Out.next_has | exact Out.fault_has | refine Out.of_next (by assumption) ?_ | intro _ _ _ _ _ _ | intro _ _ _ | intro _ _ | intro _ | apply ite_has | dsimp only | split | apply set_reproducible hC | apply set_reproWait hC

/-! ## Stamp -/

theorem grantStamp_keeps {s : State} {m : Mp} {prev : Option Mp} (hs : P s) : P (grantStamp s m prev) := by
  unfold grantStamp
  extract_lets t p t1 s1
  have h1 : P s1 := set_stamp hC (fun _ => by cases m <;> simp [StampOk, setMp, mpCode, t1]) hs
  split
  · exact raiseAlarm_keeps hC h1
  · exact h1

theorem holdOne_keeps {s : State} {m : Mp} (hm : s.stamp.holder ≠ mpCode m) (hs : P s) : P (holdOne s m) :=
  set_stamp hC (fun h => by
    obtain ⟨h0, h1, h2⟩ := h
    cases m <;> simp_all [StampOk, setMp, mpCode]) hs

theorem execHeartbeat_keeps {mp : Mp} {s : State} (hs : P s) : Out.Has P (execHeartbeat mp s) := by
  unfold execHeartbeat
  dsimp only
  split
  · exact Out.next_has (set_stamp hC (fun h => by cases mp <;> exact h) hs)
  · exact hs

theorem execHeartbeatLapse_keeps {mp : Mp} {s : State} (hs : P s) : Out.Has P (execHeartbeatLapse mp s) :=
  Out.next_has (set_stamp hC (fun h => by cases mp <;> exact h) hs)

theorem execStampClaim_keeps {mp : Mp} {epoch : Word} {s : State} (hs : P s) : Out.Has P (execStampClaim mp epoch s) := by
  unfold execStampClaim
  dsimp only
  split
  · exact hs
  · exact Out.next_has (set_stamp hC (fun h => by cases mp <;> exact h) hs)

theorem dropClaims_keeps {s : State} (hs : P s) : P (dropClaims s) := set_stamp hC (fun h => h) hs

theorem settleClaims_keeps {s : State} {prev : Option Mp} (hs : P s) : P (settleClaims s prev) := by
  unfold settleClaims
  split
  · refine holdOne_keeps hC ?_ (grantStamp_keeps hC hs)
    rw [grantStamp_holder]
    generalize winner _ _ _ = w
    cases w <;> decide
  · exact grantStamp_keeps hC hs
  · exact grantStamp_keeps hC hs
  · exact hs

theorem afterLapse_keeps {s : State} {h : Mp} (hs : P s) : P (afterLapse s h) := by
  unfold afterLapse
  extract_lets o s1
  have h1 : P { holdOne s h with stamp := { (holdOne s h).stamp with holder := 0 } } :=
    hC.upd hs rfl (fun _ => stampOk_none rfl) id
  split
  · refine set_stamp hC (fun _ => ?_) h1
    cases h
    · exact ⟨(by decide : 1 ≤ 2), fun _ => rfl, fun e => absurd e (by decide : ¬ (1 = 2))⟩
    · exact ⟨(by decide : 2 ≤ 2), fun e => absurd e (by decide : ¬ (2 = 1)), fun _ => rfl⟩
  split
  · exact grantStamp_keeps hC h1
  split
  · exact grantStamp_keeps hC h1
  · exact grantStamp_keeps hC (holdOne_keeps hC (by cases h <;> simp [mpCode, otherMp]) h1)

theorem execAssayCycle_keeps {s : State} (hs : P s) : Out.Has P (execAssayCycle s) := by
  unfold execAssayCycle
  split
  · exact hs
  split
  · exact dropClaims_keeps hC (ite_has hs (settleClaims_keeps hC hs))
  · rename_i h e
    split
    · exact dropClaims_keeps hC (afterLapse_keeps hC hs)
    split
    · exact hs
    split
    · refine dropClaims_keeps hC (holdOne_keeps hC ?_ hs)
      unfold holderMp at e
      split at e
      · cases e; simp_all [mpCode, otherMp]
      split at e
      · cases e; simp_all [mpCode, otherMp]
      · cases e
    · refine dropClaims_keeps hC (holdOne_keeps hC ?_ (grantStamp_keeps hC hs))
      rw [grantStamp_holder (s := s)]
      cases h <;> decide

theorem execStandbyRelease_keeps {mp : Mp} {s : State} (hs : P s) : Out.Has P (execStandbyRelease mp s) := by
  unfold execStandbyRelease
  dsimp only
  split
  · refine Out.next_has (set_stamp hC (fun h => ?_) hs)
    cases mp <;> exact ⟨h.1, by simp_all [StampOk, setMp], by simp_all [StampOk, setMp]⟩
  · exact hs

theorem execRestartStandby_keeps {seq : Nat} {s : State} (hs : P s) : Out.Has P (execRestartStandby seq s) := by
  unfold execRestartStandby
  refine runCmd_keeps hC hs fun bs => ?_
  split
  · exact refuseState_keeps hC hs
  · rename_i m e
    dsimp only
    split
    · refine fixResult_keeps hC (set_stamp hC (fun h => ?_) hs)
      cases m <;> exact ⟨h.1, by simp_all [StampOk, setMp], by simp_all [StampOk, setMp]⟩
    · exact refuseState_keeps hC hs

theorem applyHubWrite_keeps {s : State} {x0 : HubWrite} (hs : P s) : P (applyHubWrite s x0) := by
  unfold applyHubWrite
  try dsimp only
  with_reducible repeat' first | assumption | exact trivial | apply writeRoute_keeps hC | apply setVote_keeps hC | apply modCore_has hC.unit | intro _ _ _ _ _ _ | intro _ _ _ | intro _ _ | intro _ | apply ite_has | dsimp only | split

theorem onHubWrite_keeps {w : HubWrite} {o : Out} (h : Out.Has P o) : Out.Has P (onHubWrite w o) := by
  unfold onHubWrite
  split
  · exact h
  · exact onCore_has h
  · exact onDomain_keeps hC h

theorem execHubControlWrite_keeps {epoch : Word} {write : HubWrite} {s : State} (hs : P s) :
    Out.Has P (execHubControlWrite epoch write s) := by
  unfold execHubControlWrite
  apply onHubWrite_keeps hC
  split
  · exact hs
  split
  · exact Out.next_has (set_stamp hC (fun h => h) hs)
  · exact Out.next_has (applyHubWrite_keeps hC hs)

theorem assayApply_keeps {s : State} {r : AssayReq} (hs : P s) : OptHas P (assayApply s r) := by
  unfold assayApply
  split
  · split
    · exact opt_some (set_assay hC hs)
    · exact opt_none
  · split
    · exact opt_some (set_assay hC hs)
    · exact opt_none
  · split
    · exact opt_some (set_fuses hC hs)
    · exact opt_none
  · exact opt_none
  · exact opt_none

theorem askAssay_keeps {s : State} {r : AssayReq} (hs : P s) : P (askAssay s r).1 := by
  unfold askAssay
  split
  · rename_i t e
    exact set_assay hC (assayApply_keeps hC hs t e)
  · exact set_assay hC hs

theorem execAssayRequest_keeps {request : AssayReq} {s : State} (hs : P s) : Out.Has P (execAssayRequest request s) := by
  unfold execAssayRequest
  try dsimp only
  with_reducible repeat' first | assumption | exact trivial | apply askAssay_keeps hC | apply Out.next_has | exact Out.fault_has | refine Out.of_next (by assumption) ?_ | refine fst_of (by assumption) ?_ | apply ite_has | dsimp only | split

theorem requestLimit_keeps {seq : Nat} {s : State} {r : AssayReq} (hs : P s) : P (requestLimit seq s r) := by
  unfold requestLimit
  try dsimp only
  with_reducible repeat' first | assumption | exact trivial | apply askAssay_keeps hC | apply refusePerm_keeps hC | apply fixResult_keeps hC | refine fst_of (by assumption) ?_ | apply ite_has | dsimp only | split

theorem execRequestPowerLimit_keeps {seq : Nat} {s : State} (hs : P s) : Out.Has P (execRequestPowerLimit seq s) := by
  unfold execRequestPowerLimit
  try dsimp only
  with_reducible repeat' first | assumption | exact trivial | apply requestLimit_keeps hC | apply runCmd_keeps hC | apply Out.next_has | exact Out.fault_has | refine Out.of_next (by assumption) ?_ | intro _ _ _ _ _ _ | intro _ _ _ | intro _ _ | intro _ | apply ite_has | dsimp only | split

theorem execRequestThrottlePoint_keeps {seq : Nat} {s : State} (hs : P s) : Out.Has P (execRequestThrottlePoint seq s) := by
  unfold execRequestThrottlePoint
  try dsimp only
  with_reducible repeat' first | assumption | exact trivial | apply requestLimit_keeps hC | apply runCmd_keeps hC | apply Out.next_has | exact Out.fault_has | refine Out.of_next (by assumption) ?_ | intro _ _ _ _ _ _ | intro _ _ _ | intro _ _ | intro _ | apply ite_has | dsimp only | split

/-! ## Boot -/

theorem bootFails_keeps {s : State} {stage : Nat} (hs : P s) : P (bootFails s stage) :=
  hC.upd hs rfl (fun _ => stampOk_none rfl) id

theorem execBootBegin_keeps {bootSrc selfTest fuseCheck flashAnswers : Bool} {s : State} (hs : P s) :
    Out.Has P (execBootBegin bootSrc selfTest fuseCheck flashAnswers s) := by
  unfold execBootBegin
  dsimp only
  split
  · exact hs
  split
  · exact Out.next_has (bootFails_keeps hC (set_boot hC hs))
  split
  · exact Out.next_has (bootFails_keeps hC (set_boot hC hs))
  split
  · exact Out.next_has (bootFails_keeps hC (hC.upd hs rfl id id))
  · exact Out.next_has (hC.upd hs rfl id id)

theorem giveUpSlot_keeps {s : State} (hs : P s) : P (giveUpSlot s) := by
  unfold giveUpSlot
  try dsimp only
  with_reducible repeat' first | assumption | exact trivial | apply bootFails_keeps hC | apply ite_has | dsimp only | split | apply set_boot hC

theorem execAssayImageRead_keeps {image : List Byte} {s : State} (hs : P s) : Out.Has P (execAssayImageRead image s) := by
  unfold execAssayImageRead
  try dsimp only
  with_reducible repeat' first | assumption | exact trivial | apply giveUpSlot_keeps hC | apply Out.next_has | exact Out.fault_has | refine Out.of_next (by assumption) ?_ | apply ite_has | dsimp only | split | apply set_boot hC

theorem startProcessors_keeps {s : State} (hs : P s) : P (startProcessors s) := by
  unfold startProcessors
  dsimp only
  split
  · exact set_stamp hC (fun h => ⟨h.1, fun _ => rfl, fun _ => rfl⟩) hs
  · exact grantStamp_keeps hC (set_stamp hC (fun h => ⟨h.1, fun _ => rfl, fun _ => rfl⟩) hs)

theorem execManagementImageRead_keeps {image : List Byte} {s : State} (hs : P s) : Out.Has P (execManagementImageRead image s) := by
  unfold execManagementImageRead
  try dsimp only
  with_reducible repeat' first | assumption | exact trivial | apply startProcessors_keeps hC | apply giveUpSlot_keeps hC | apply Out.next_has | exact Out.fault_has | refine Out.of_next (by assumption) ?_ | apply ite_has | dsimp only | split | apply set_boot hC

theorem setPhases_keeps {s : State} {phases : List Nat} (hs : P s) : P (setPhases s phases) := by
  unfold setPhases
  extract_lets s1 s2
  have h1 : P s1 := eachDie_keeps hC hs fun s d h => ite_has h (modDie_has hC.unit h)
  have h2 : P s2 := foldl_has (fun s k h => modPd_keeps hC h) h1
  exact eachDie_keeps hC (set_hubPhases hC h2) fun s d h => retarget_keeps hC h

theorem reportRestart_keeps {s : State} (hs : P s) : P (reportRestart s) := by
  unfold reportRestart
  try dsimp only
  with_reducible repeat' first | assumption | exact trivial | apply raiseAlarm_keeps hC | apply queueRec_has hC.unit | apply foldl_has | intro _ _ _ | intro _ _ _ _ _ _ | intro _ _ | intro _ | apply ite_has | dsimp only | split | apply set_restarted hC

theorem execFirmwareReady_keeps {phases : List Nat} {s : State} (hs : P s) : Out.Has P (execFirmwareReady phases s) := by
  unfold execFirmwareReady
  try dsimp only
  with_reducible repeat' first | assumption | exact trivial | apply reportRestart_keeps hC | apply setPhases_keeps hC | apply coolantStep_keeps hC | apply hardRepair_keeps hC | apply Out.next_has | exact Out.fault_has | refine Out.of_next (by assumption) ?_ | intro _ _ _ _ _ _ | intro _ _ _ | intro _ _ | intro _ | apply ite_has | dsimp only | split | apply set_hbmStacks_boot_pads hC

theorem execBootTimeout_keeps {s : State} (hs : P s) : Out.Has P (execBootTimeout s) := by
  unfold execBootTimeout
  try dsimp only
  with_reducible repeat' first | assumption | exact trivial | apply bootFails_keeps hC | apply Out.next_has | exact Out.fault_has | refine Out.of_next (by assumption) ?_ | apply ite_has | dsimp only | split

theorem openDebug_keeps {s : State} (hs : P s) : P (openDebug s) := by
  unfold openDebug
  try dsimp only
  with_reducible repeat' first | assumption | exact trivial | apply leaveUp_keeps hC | apply modPort_has hC.unit | apply foldl_has | intro _ _ _ | intro _ _ _ _ _ _ | intro _ _ | intro _ | apply ite_has | dsimp only | split | apply set_boot_rind_pads hC

theorem execDebugUnlock_keeps {token : List Byte} {s : State} (hs : P s) : Out.Has P (execDebugUnlock token s) := by
  unfold execDebugUnlock
  try dsimp only
  with_reducible repeat' first | assumption | exact trivial | apply openDebug_keeps hC | apply Out.next_has | exact Out.fault_has | refine Out.of_next (by assumption) ?_ | apply ite_has | dsimp only | split | apply set_assay hC

/-! ## Clock -/

theorem timeTick_keeps {s : State} (hs : P s) : P (timeTick s) := by
  unfold timeTick
  try dsimp only
  with_reducible repeat' first | assumption | exact trivial | apply ite_has | dsimp only | split | apply set_refCount_acc40_rind hC

theorem idleTick_keeps {s : State} (hs : P s) : P (idleTick s) := by
  unfold idleTick
  try dsimp only
  with_reducible repeat' first | assumption | exact trivial | apply timeTick_keeps hC | apply serveDies_keeps hC | apply ite_has | dsimp only | split

/-! ## Partitions -/

theorem applyRecords_keeps {bad : Nat → Bool} {f : State → Nat → Option State}
    (hf : ∀ s r, P s → OptHas P (f s r)) {l : List Nat} :
    ∀ {i : Nat} {s t : State}, P s → applyRecords bad f i l s = .done t → P t := by
  induction l with
  | nil => intro i s t hs e; cases e; exact hs
  | cons a rest ih =>
    intro i s t hs e
    unfold applyRecords at e
    split at e
    · cases e
    split at e
    · exact ih (hf _ _ hs _ (by assumption)) e
    · cases e

theorem refuseList_keeps {s : State} {seq : Nat} {field : Bool} {i : Nat} (hs : P s) : P (refuseList s seq field i) := by
  unfold refuseList
  try dsimp only
  with_reducible repeat' first | assumption | exact trivial | apply refuseResource_keeps hC | apply refuseField_keeps hC | apply ite_has | dsimp only | split

theorem renameHoops_keeps {s : State} {part : Nat} {place : Nat} {g : Option Nat} (hs : P s) : P (renameHoops s part place g) := by
  unfold renameHoops
  try dsimp only
  with_reducible repeat' first | assumption | exact trivial | intro _ _ _ _ _ _ | intro _ _ _ | intro _ _ | intro _ | apply ite_has | dsimp only | split | apply set_cores hC

theorem enterPlace_keeps {s : State} {part : Nat} {place : Nat} {g : Nat} {retain : Half} (hs : P s) : P (enterPlace s part place g retain) := by
  unfold enterPlace
  try dsimp only
  with_reducible repeat' first | assumption | exact trivial | apply renameHoops_keeps hC | apply modPart_keeps hC | apply modCore_has hC.unit | intro _ _ _ _ _ _ | intro _ _ _ | intro _ _ | intro _ | apply ite_has | dsimp only | split

theorem placeCore_keeps {s : State} {part : Nat} {place : Nat} {g : Nat} {retain : Half} (hs : P s) : P (placeCore s part place g retain) := by
  unfold placeCore
  try dsimp only
  with_reducible repeat' first | assumption | exact trivial | apply enterPlace_keeps hC | apply coreAwake_keeps hC | apply modPower_keeps hC | intro _ _ _ _ _ _ | intro _ _ _ | intro _ _ | intro _ | apply ite_has | dsimp only | split

theorem moveCore_keeps {s : State} {part : Nat} {place : Nat} {g : Nat} {retain : Half} (hs : P s) : P (moveCore s part place g retain) := by
  unfold moveCore
  try dsimp only
  with_reducible repeat' first | assumption | exact trivial | apply placeCore_keeps hC | apply enterPlace_keeps hC | apply setVote_keeps hC | apply ite_has | dsimp only | split

theorem clearMarked_keeps {s : State} {g : Nat} (hs : P s) : P (clearMarked s g) := by
  unfold clearMarked
  try dsimp only
  with_reducible repeat' first | assumption | exact trivial | apply zeroiseCore_keeps hC | intro _ _ _ _ _ _ | intro _ _ _ | intro _ _ | intro _ | apply ite_has | dsimp only | split

theorem bindRecord_keeps {part : Nat} {all : List Nat} {s : State} {r : Nat} (hs : P s) : OptHas P (bindRecord part all s r) := by
  unfold bindRecord
  with_reducible repeat' first | exact opt_none | apply opt_some | assumption | apply placeCore_keeps hC | apply clearMarked_keeps hC | apply modPort_has hC.unit | apply modCore_has hC.unit | apply setPart_keeps hC | dsimp only | split

theorem execCreatePartition_keeps {seq : Nat} {s : State} (hs : P s) : Out.Has P (execCreatePartition seq s) := by
  unfold execCreatePartition
  try dsimp only
  with_reducible repeat' first | assumption | exact trivial | apply runCmd_keeps hC | apply refuseState_keeps hC | apply fixResult_keeps hC | apply setPart_keeps hC | apply Out.next_has | exact Out.fault_has | refine Out.of_next (by assumption) ?_ | intro _ _ _ _ _ _ | intro _ _ _ | intro _ _ | intro _ | apply ite_has | dsimp only | split

theorem execDestroyPartition_keeps {seq : Nat} {s : State} (hs : P s) : Out.Has P (execDestroyPartition seq s) := by
  unfold execDestroyPartition
  try dsimp only
  with_reducible repeat' first | assumption | exact trivial | apply runCmd_keeps hC | apply refuseState_keeps hC | apply fixResult_keeps hC | apply Out.next_has | exact Out.fault_has | refine Out.of_next (by assumption) ?_ | intro _ _ _ _ _ _ | intro _ _ _ | intro _ _ | intro _ | apply ite_has | dsimp only | split | apply set_partitions hC

theorem queuePages_keeps {s : State} {pages : List Nat} (hs : P s) : P (queuePages s pages) := by
  unfold queuePages
  try dsimp only
  with_reducible repeat' first | assumption | exact trivial | apply modStack_has hC.unit | apply foldl_has | intro _ _ _ | intro _ _ _ _ _ _ | intro _ _ | intro _ | apply ite_has | dsimp only | split

theorem execBindResources_keeps {seq : Nat} {s : State} (hs : P s) : Out.Has P (execBindResources seq s) := by
  unfold execBindResources
  apply runCmd_keeps hC hs
  intro bs
  dsimp only
  split
  · exact refuseState_keeps hC hs
  split
  · exact hs
  split
  · exact queuePages_keeps hC hs
  split
  · exact fixResult_keeps hC (applyRecords_keeps hC (fun s r h => bindRecord_keeps hC h) hs (by assumption))
  · exact refuseList_keeps hC hs

theorem takeRecord1_keeps {part : Nat} {recv : Option Nat} {all : List Nat} {s : State} {r : Nat} (hs : P s) :
    OptHas P (takeRecord1 part recv all s r) := by
  unfold takeRecord1
  split
  · exact opt_none
  extract_lets give free
  have hg : ∀ s f, P s → P (give s f) := by
    intro s f h
    unfold give
    split
    · exact modPart_keeps hC h
    · exact h
  generalize recKind r = k
  clear_value give free
  split
  all_goals with_reducible repeat' first | exact opt_none | apply opt_some | assumption | dsimp only | apply hg | apply setPart_keeps hC | apply modPart_keeps hC | split

theorem preemptOrEnd_keeps {s : State} {k : Nat} {w : Work} (hs : P s) : P (preemptOrEnd s k w) := by
  unfold preemptOrEnd
  try dsimp only
  with_reducible repeat' first | assumption | exact trivial | apply endFailed_keeps hC | apply preemptWork_keeps hC | apply ite_has | dsimp only | split

theorem preemptAll_keeps {s : State} {gs : List Nat} (hs : P s) : P (preemptAll s gs) := by
  unfold preemptAll
  try dsimp only
  with_reducible repeat' first | assumption | exact trivial | apply preemptOrEnd_keeps hC | apply foldl_has | intro _ _ _ | intro _ _ _ _ _ _ | intro _ _ | intro _ | apply ite_has | dsimp only | split

theorem beginRelease_keeps {s : State} {part : Nat} {recs : List Nat} (hs : P s) : P (beginRelease s part recs) := by
  unfold beginRelease
  try dsimp only
  with_reducible repeat' first | assumption | exact trivial | apply preemptAll_keeps hC | apply coreUp_keeps hC | apply stopCores_keeps hC | apply startFence_keeps hC | apply modPower_keeps hC | apply foldl_has | intro _ _ _ | intro _ _ _ _ _ _ | intro _ _ | intro _ | apply ite_has | dsimp only | split

theorem runRelease_keeps {s : State} {seq : Nat} {bs : List Byte} (hs : P s) : P (runRelease s seq bs) := by
  unfold runRelease
  extract_lets part recv recs
  split
  · exact refuseState_keeps hC hs
  split
  · exact refuseState_keeps hC hs
  split
  · exact hs
  split
  · exact refuseList_keeps hC hs
  split
  · exact refuseState_keeps hC hs
  have h1 := beginRelease_keeps hC (part := part) (recs := recs) hs
  split
  · exact set_cmds hC h1
  · exact h1

theorem execReleaseResources_keeps {seq : Nat} {s : State} (hs : P s) : Out.Has P (execReleaseResources seq s) := by
  unfold execReleaseResources
  try dsimp only
  with_reducible repeat' first | assumption | exact trivial | apply runRelease_keeps hC | apply runCmd_keeps hC | apply Out.next_has | exact Out.fault_has | refine Out.of_next (by assumption) ?_ | intro _ _ _ _ _ _ | intro _ _ _ | intro _ _ | intro _ | apply ite_has | dsimp only | split

theorem execMoveResources_keeps {seq : Nat} {s : State} (hs : P s) : Out.Has P (execMoveResources seq s) := by
  unfold execMoveResources
  try dsimp only
  with_reducible repeat' first | assumption | exact trivial | apply runRelease_keeps hC | apply runCmd_keeps hC | apply Out.next_has | exact Out.fault_has | refine Out.of_next (by assumption) ?_ | intro _ _ _ _ _ _ | intro _ _ _ | intro _ _ | intro _ | apply ite_has | dsimp only | split

theorem freeCore_keeps {part : Nat} {recv : Option Nat} {s : State} {x : Nat × Nat} (hs : P s) : P (freeCore part recv s x) := by
  unfold freeCore
  try dsimp only
  with_reducible repeat' first | assumption | exact trivial | apply moveCore_keeps hC | apply renameHoops_keeps hC | apply zeroRows_keeps hC | apply modPower_keeps hC | apply modCore_has hC.unit | intro _ _ _ _ _ _ | intro _ _ _ | intro _ _ | intro _ | apply ite_has | dsimp only | split

theorem endRelease_keeps {s : State} {seq : Nat} {bs : List Byte} {recs : List Nat} (hs : P s) :
    P (endRelease s seq bs recs) := by
  unfold endRelease
  extract_lets part recv cs pages ports empty s1 s2 s3 s4 s5
  have h1 : P s1 := foldl_has (fun s r h => (takeRecord1_keeps hC h).getD h) hs
  have h2 : P s2 := hC.upd h1 rfl id id
  have h3 : P s3 := foldl_has (fun s x h => freeCore_keeps hC h) h2
  have h4 : P s4 := foldl_has (fun s x h => modStack_has hC.unit h) h3
  have h5 : P s5 := foldl_has (fun s x h => modPort_has hC.unit h) h4
  split
  · exact fixResult_keeps hC h5
  · exact fixResult_keeps hC h5

theorem execReleaseDrainEnd_keeps {seq : Nat} {s : State} (hs : P s) : Out.Has P (execReleaseDrainEnd seq s) := by
  unfold execReleaseDrainEnd
  try dsimp only
  with_reducible repeat' first | assumption | exact trivial | apply endRelease_keeps hC | apply Out.next_has | exact Out.fault_has | refine Out.of_next (by assumption) ?_ | apply ite_has | dsimp only | split

theorem execQueryPartition_keeps {seq : Nat} {s : State} (hs : P s) : Out.Has P (execQueryPartition seq s) := by
  unfold execQueryPartition
  try dsimp only
  with_reducible repeat' first | assumption | exact trivial | apply runCmd_keeps hC | apply refuseState_keeps hC | apply fixResult_keeps hC | apply hostWrite_has hC.unit | apply Out.next_has | exact Out.fault_has | refine Out.of_next (by assumption) ?_ | intro _ _ _ _ _ _ | intro _ _ _ | intro _ _ | intro _ | apply ite_has | dsimp only | split

theorem gatePart_keeps {s : State} {p : Partition} {n : Nat} (hs : P s) : P (gatePart s p n) := by
  unfold gatePart
  try dsimp only
  with_reducible repeat' first | assumption | exact trivial | apply modCore_has hC.unit | apply foldl_has | intro _ _ _ | intro _ _ _ _ _ _ | intro _ _ | intro _ | apply ite_has | dsimp only | split

theorem execPartitionPowerSample_keeps {watts : List Nat} {s : State} (hs : P s) : Out.Has P (execPartitionPowerSample watts s) := by
  unfold execPartitionPowerSample
  try dsimp only
  with_reducible repeat' first | assumption | exact trivial | apply gatePart_keeps hC | apply Out.next_has | exact Out.fault_has | refine Out.of_next (by assumption) ?_ | apply foldl_has | intro _ _ _ | intro _ _ _ _ _ _ | intro _ _ | intro _ | apply ite_has | dsimp only | split | apply set_partitions hC

theorem execPowerGating_keeps {s : State} (hs : P s) : Out.Has P (execPowerGating s) := by
  unfold execPowerGating
  try dsimp only
  with_reducible repeat' first | assumption | exact trivial | apply gatePart_keeps hC | apply Out.next_has | exact Out.fault_has | refine Out.of_next (by assumption) ?_ | apply foldl_has | intro _ _ _ | intro _ _ _ _ _ _ | intro _ _ | intro _ | apply ite_has | dsimp only | split

/-! ## WorkCommands -/

theorem execStartWork_keeps {seq : Nat} {s : State} (hs : P s) : Out.Has P (execStartWork seq s) := by
  unfold execStartWork
  try dsimp only
  with_reducible repeat' first | assumption | exact trivial | apply giveStart_keeps hC | apply putWork_keeps hC | apply runCmd_keeps hC | apply beginCmd_keeps hC | apply refuseState_keeps hC | apply refuseField_keeps hC | apply ledgerState_keeps hC | apply Out.next_has | exact Out.fault_has | refine Out.of_next (by assumption) ?_ | apply foldl_has | intro _ _ _ | intro _ _ _ _ _ _ | intro _ _ | intro _ | apply ite_has | dsimp only | split

theorem execPreemptWork_keeps {seq : Nat} {s : State} (hs : P s) : Out.Has P (execPreemptWork seq s) := by
  unfold execPreemptWork
  try dsimp only
  with_reducible repeat' first | assumption | exact trivial | apply preemptWork_keeps hC | apply runCmd_keeps hC | apply refuseState_keeps hC | apply fixResult_keeps hC | apply Out.next_has | exact Out.fault_has | refine Out.of_next (by assumption) ?_ | intro _ _ _ _ _ _ | intro _ _ _ | intro _ _ | intro _ | apply ite_has | dsimp only | split

theorem writeSlot_keeps {s : State} {part : Nat} {a : Nat} {bs : List Byte} (hs : P s) : P (writeSlot s part a bs) := by
  unfold writeSlot
  try dsimp only
  with_reducible repeat' first | assumption | exact trivial | apply putRow_has hC.unit | refine fst_of (by assumption) ?_ | apply ite_has | dsimp only | split

theorem resignSlots_keeps {s : State} {old : Nat} {new : Nat} {turn : Nat} {w : Work} (hs : P s) : P (resignSlots s old new turn w) := by
  unfold resignSlots
  try dsimp only
  with_reducible repeat' first | assumption | exact trivial | apply writeSlot_keeps hC | apply foldl_has | intro _ _ _ | intro _ _ _ _ _ _ | intro _ _ | intro _ | apply ite_has | dsimp only | split

theorem resumeAnew_keeps {s : State} {seq : Nat} {k : Nat} {w : Work} (hs : P s) : P (resumeAnew s seq k w) := by
  unfold resumeAnew
  try dsimp only
  with_reducible repeat' first | assumption | exact trivial | apply resignSlots_keeps hC | apply restartWork_keeps hC | apply finishWork_keeps hC | apply noteSlots_keeps hC | apply beginCmd_keeps hC | apply ledgerState_keeps hC | intro _ _ _ _ _ _ | intro _ _ _ | intro _ _ | intro _ | apply ite_has | dsimp only | split

theorem execResumeWork_keeps {seq : Nat} {s : State} (hs : P s) : Out.Has P (execResumeWork seq s) := by
  unfold execResumeWork
  try dsimp only
  with_reducible repeat' first | assumption | exact trivial | apply resumeAnew_keeps hC | apply restartWork_keeps hC | apply runCmd_keeps hC | apply refuseState_keeps hC | apply fixResult_keeps hC | apply Out.next_has | exact Out.fault_has | refine Out.of_next (by assumption) ?_ | intro _ _ _ _ _ _ | intro _ _ _ | intro _ _ | intro _ | apply ite_has | dsimp only | split

theorem execDiscardWork_keeps {seq : Nat} {s : State} (hs : P s) : Out.Has P (execDiscardWork seq s) := by
  unfold execDiscardWork
  try dsimp only
  with_reducible repeat' first | assumption | exact trivial | apply finishWork_keeps hC | apply runCmd_keeps hC | apply refuseState_keeps hC | apply fixResult_keeps hC | apply ledgerState_keeps hC | apply Out.next_has | exact Out.fault_has | refine Out.of_next (by assumption) ?_ | intro _ _ _ _ _ _ | intro _ _ _ | intro _ _ | intro _ | apply ite_has | dsimp only | split

theorem execOpenWindow_keeps {seq : Nat} {s : State} (hs : P s) : Out.Has P (execOpenWindow seq s) := by
  unfold execOpenWindow
  try dsimp only
  with_reducible repeat' first | assumption | exact trivial | apply runCmd_keeps hC | apply refuseState_keeps hC | apply fixResult_keeps hC | apply Out.next_has | exact Out.fault_has | refine Out.of_next (by assumption) ?_ | apply foldl_has | intro _ _ _ | intro _ _ _ _ _ _ | intro _ _ | intro _ | apply ite_has | dsimp only | split | apply set_windows hC

theorem execCloseWindow_keeps {seq : Nat} {s : State} (hs : P s) : Out.Has P (execCloseWindow seq s) := by
  unfold execCloseWindow
  try dsimp only
  with_reducible repeat' first | assumption | exact trivial | apply runCmd_keeps hC | apply fixResult_keeps hC | apply Out.next_has | exact Out.fault_has | refine Out.of_next (by assumption) ?_ | apply foldl_has | intro _ _ _ | intro _ _ _ _ _ _ | intro _ _ | intro _ | apply ite_has | dsimp only | split | apply set_windows hC

theorem readParts_keeps {seq part : Nat} {l : List (Nat × Nat)} : ∀ {dst : Nat} {s : State}, P s →
    P (readParts seq part l dst s) := by
  induction l with
  | nil => exact fun hs => fixResult_keeps hC hs
  | cons a rest ih =>
    intro dst s hs
    unfold readParts
    dsimp only
    with_reducible repeat' first | assumption | apply ih | exact trivial | apply fixResult_keeps hC | apply refusePerm_keeps hC | apply checkRead_has hC.unit | apply hostWrite_has hC.unit | apply ite_has | dsimp only | split

theorem execReadRows_keeps {seq : Nat} {s : State} (hs : P s) : Out.Has P (execReadRows seq s) := by
  unfold execReadRows
  try dsimp only
  with_reducible repeat' first | assumption | exact trivial | apply readParts_keeps hC | apply runCmd_keeps hC | apply refuseState_keeps hC | apply Out.next_has | exact Out.fault_has | refine Out.of_next (by assumption) ?_ | intro _ _ _ _ _ _ | intro _ _ _ | intro _ _ | intro _ | apply ite_has | dsimp only | split

theorem writeParts_keeps {seq part tag : Nat} {l : List (Nat × Nat)} : ∀ {data : List Byte} {s : State}, P s →
    P (writeParts seq part tag l data s) := by
  induction l with
  | nil => exact fun hs => fixResult_keeps hC hs
  | cons a rest ih =>
    intro data s hs
    unfold writeParts
    with_reducible repeat' first | assumption | apply ih | exact trivial | apply fixResult_keeps hC | apply refusePerm_keeps hC | apply putRow_has hC.unit | apply setTag_has hC.unit | refine fst_of (by assumption) ?_ | apply ite_has | dsimp only | split

theorem execWriteRows_keeps {seq : Nat} {s : State} (hs : P s) : Out.Has P (execWriteRows seq s) := by
  unfold execWriteRows
  try dsimp only
  with_reducible repeat' first | assumption | exact trivial | apply writeParts_keeps hC | apply runCmd_keeps hC | apply refuseState_keeps hC | apply Out.next_has | exact Out.fault_has | refine Out.of_next (by assumption) ?_ | intro _ _ _ _ _ _ | intro _ _ _ | intro _ _ | intro _ | apply ite_has | dsimp only | split

/-! ## Query -/

theorem execIdentify_keeps {seq : Nat} {s : State} (hs : P s) : Out.Has P (execIdentify seq s) := by
  unfold execIdentify
  try dsimp only
  with_reducible repeat' first | assumption | exact trivial | apply runCmd_keeps hC | apply fixResult_keeps hC | apply Out.next_has | exact Out.fault_has | refine Out.of_next (by assumption) ?_ | intro _ _ _ _ _ _ | intro _ _ _ | intro _ _ | intro _ | apply ite_has | dsimp only | split

theorem execQueryLedger_keeps {seq : Nat} {s : State} (hs : P s) : Out.Has P (execQueryLedger seq s) := by
  unfold execQueryLedger
  try dsimp only
  with_reducible repeat' first | assumption | exact trivial | apply runCmd_keeps hC | apply fixResult_keeps hC | apply hostWrite_has hC.unit | apply Out.next_has | exact Out.fault_has | refine Out.of_next (by assumption) ?_ | intro _ _ _ _ _ _ | intro _ _ _ | intro _ _ | intro _ | apply ite_has | dsimp only | split

theorem execQueryCores_keeps {seq : Nat} {s : State} (hs : P s) : Out.Has P (execQueryCores seq s) := by
  unfold execQueryCores
  try dsimp only
  with_reducible repeat' first | assumption | exact trivial | apply runCmd_keeps hC | apply fixResult_keeps hC | apply hostWrite_has hC.unit | apply Out.next_has | exact Out.fault_has | refine Out.of_next (by assumption) ?_ | intro _ _ _ _ _ _ | intro _ _ _ | intro _ _ | intro _ | apply ite_has | dsimp only | split

theorem execReadFault_keeps {seq : Nat} {s : State} (hs : P s) : Out.Has P (execReadFault seq s) := by
  unfold execReadFault
  try dsimp only
  with_reducible repeat' first | assumption | exact trivial | apply runCmd_keeps hC | apply refuseState_keeps hC | apply fixResult_keeps hC | apply hostWrite_has hC.unit | apply Out.next_has | exact Out.fault_has | refine Out.of_next (by assumption) ?_ | intro _ _ _ _ _ _ | intro _ _ _ | intro _ _ | intro _ | apply ite_has | dsimp only | split

theorem execReadStatus_keeps {seq : Nat} {s : State} (hs : P s) : Out.Has P (execReadStatus seq s) := by
  unfold execReadStatus
  try dsimp only
  with_reducible repeat' first | assumption | exact trivial | apply runCmd_keeps hC | apply fixResult_keeps hC | apply hostWrite_has hC.unit | apply Out.next_has | exact Out.fault_has | refine Out.of_next (by assumption) ?_ | intro _ _ _ _ _ _ | intro _ _ _ | intro _ _ | intro _ | apply ite_has | dsimp only | split

theorem clearStatus_keeps {s : State} {kind : Nat} {index : Nat} {flags : Nat} {counts : Nat} (hs : P s) : P (clearStatus s kind index flags counts) := by
  unfold clearStatus
  try dsimp only
  with_reducible repeat' first | assumption | exact trivial | apply modPort_has hC.unit | apply modCore_has hC.unit | intro _ _ _ _ _ _ | intro _ _ _ | intro _ _ | intro _ | apply ite_has | dsimp only | split

theorem execClearStatus_keeps {seq : Nat} {s : State} (hs : P s) : Out.Has P (execClearStatus seq s) := by
  unfold execClearStatus
  try dsimp only
  with_reducible repeat' first | assumption | exact trivial | apply clearStatus_keeps hC | apply runCmd_keeps hC | apply fixResult_keeps hC | apply Out.next_has | exact Out.fault_has | refine Out.of_next (by assumption) ?_ | intro _ _ _ _ _ _ | intro _ _ _ | intro _ _ | intro _ | apply ite_has | dsimp only | split

theorem execRunTestCore_keeps {seq : Nat} {s : State} (hs : P s) : Out.Has P (execRunTestCore seq s) := by
  unfold execRunTestCore
  try dsimp only
  with_reducible repeat' first | assumption | exact trivial | apply runCmd_keeps hC | apply beginCmd_keeps hC | apply refuseState_keeps hC | apply modCore_has hC.unit | apply Out.next_has | exact Out.fault_has | refine Out.of_next (by assumption) ?_ | intro _ _ _ _ _ _ | intro _ _ _ | intro _ _ | intro _ | apply ite_has | dsimp only | split

theorem runTest_keeps {seq : Nat} {s : State} {bs : List Byte} {uses : Work → Bool} (hs : P s) : P (runTest seq s bs uses) := by
  unfold runTest
  try dsimp only
  with_reducible repeat' first | assumption | exact trivial | apply preemptOrEnd_keeps hC | apply refuseState_keeps hC | apply fixResult_keeps hC | apply takeFree_has hC.unit | refine snd_of (by assumption) ?_ | apply foldl_has | intro _ _ _ | intro _ _ _ _ _ _ | intro _ _ | intro _ | apply ite_has | dsimp only | split

theorem execRunTestLink_keeps {seq : Nat} {s : State} (hs : P s) : Out.Has P (execRunTestLink seq s) := by
  unfold execRunTestLink
  try dsimp only
  with_reducible repeat' first | assumption | exact trivial | apply runTest_keeps hC | apply runCmd_keeps hC | apply Out.next_has | exact Out.fault_has | refine Out.of_next (by assumption) ?_ | intro _ _ _ _ _ _ | intro _ _ _ | intro _ _ | intro _ | apply ite_has | dsimp only | split

theorem execRunTestStack_keeps {seq : Nat} {s : State} (hs : P s) : Out.Has P (execRunTestStack seq s) := by
  unfold execRunTestStack
  try dsimp only
  with_reducible repeat' first | assumption | exact trivial | apply runTest_keeps hC | apply runCmd_keeps hC | apply Out.next_has | exact Out.fault_has | refine Out.of_next (by assumption) ?_ | intro _ _ _ _ _ _ | intro _ _ _ | intro _ _ | intro _ | apply ite_has | dsimp only | split

/-! ## Spdm -/

theorem spdmSend_keeps {s : State} {request : List Byte} {answer : List Byte} (hs : P s) : P (spdmSend s request answer) := by
  unfold spdmSend
  try dsimp only
  with_reducible repeat' first | assumption | exact trivial | apply ite_has | dsimp only | split | apply set_smbus_spdm hC

theorem spdmFail_keeps {s : State} {why : Nat} (hs : P s) : P (spdmFail s why) := by
  unfold spdmFail
  try dsimp only
  with_reducible repeat' first | assumption | exact trivial | apply ite_has | dsimp only | split | apply set_smbus hC

theorem spdmTake_keeps {s : State} {request : List Byte} {code len : Nat} {ready : Spdm → Bool} {f : State → State} (hs : P s)
    (hf : ∀ s, P s → P (f s)) : Out.Has P (spdmTake s request code len ready f) := by
  unfold spdmTake
  refine smbTalk_keeps hC hs fun s h => ?_
  split
  · exact smbNack_keeps hC h
  split
  · exact spdmFail_keeps hC h
  split
  · exact spdmFail_keeps hC h
  · exact hf _ h

theorem execSpdmGetVersion_keeps {request : List Byte} {s : State} (hs : P s) : Out.Has P (execSpdmGetVersion request s) := by
  unfold execSpdmGetVersion
  try dsimp only
  with_reducible repeat' first | assumption | exact trivial | apply spdmTake_keeps hC | apply spdmSend_keeps hC | apply Out.next_has | exact Out.fault_has | refine Out.of_next (by assumption) ?_ | intro _ _ _ _ _ _ | intro _ _ _ | intro _ _ | intro _ | apply ite_has | dsimp only | split | apply set_spdm hC

theorem execSpdmGetCapabilities_keeps {request : List Byte} {s : State} (hs : P s) : Out.Has P (execSpdmGetCapabilities request s) := by
  unfold execSpdmGetCapabilities
  try dsimp only
  with_reducible repeat' first | assumption | exact trivial | apply spdmTake_keeps hC | apply spdmSend_keeps hC | apply takeFree_has hC.unit | apply Out.next_has | exact Out.fault_has | refine Out.of_next (by assumption) ?_ | refine snd_of (by assumption) ?_ | intro _ _ _ _ _ _ | intro _ _ _ | intro _ _ | intro _ | apply ite_has | dsimp only | split | apply set_spdm hC

theorem execSpdmNegotiateAlgorithms_keeps {request : List Byte} {s : State} (hs : P s) : Out.Has P (execSpdmNegotiateAlgorithms request s) := by
  unfold execSpdmNegotiateAlgorithms
  try dsimp only
  with_reducible repeat' first | assumption | exact trivial | apply spdmTake_keeps hC | apply spdmSend_keeps hC | apply Out.next_has | exact Out.fault_has | refine Out.of_next (by assumption) ?_ | intro _ _ _ _ _ _ | intro _ _ _ | intro _ _ | intro _ | apply ite_has | dsimp only | split | apply set_spdm hC

theorem execSpdmGetDigests_keeps {request : List Byte} {s : State} (hs : P s) : Out.Has P (execSpdmGetDigests request s) := by
  unfold execSpdmGetDigests
  try dsimp only
  with_reducible repeat' first | assumption | exact trivial | apply spdmTake_keeps hC | apply spdmSend_keeps hC | apply Out.next_has | exact Out.fault_has | refine Out.of_next (by assumption) ?_ | intro _ _ _ _ _ _ | intro _ _ _ | intro _ _ | intro _ | apply ite_has | dsimp only | split

theorem execSpdmGetCertificate_keeps {request : List Byte} {s : State} (hs : P s) : Out.Has P (execSpdmGetCertificate request s) := by
  unfold execSpdmGetCertificate
  try dsimp only
  with_reducible repeat' first | assumption | exact trivial | apply spdmTake_keeps hC | apply spdmFail_keeps hC | apply spdmSend_keeps hC | apply Out.next_has | exact Out.fault_has | refine Out.of_next (by assumption) ?_ | intro _ _ _ _ _ _ | intro _ _ _ | intro _ _ | intro _ | apply ite_has | dsimp only | split

theorem execSpdmChallenge_keeps {request : List Byte} {s : State} (hs : P s) : Out.Has P (execSpdmChallenge request s) := by
  unfold execSpdmChallenge
  try dsimp only
  with_reducible repeat' first | assumption | exact trivial | apply spdmTake_keeps hC | apply spdmFail_keeps hC | apply spdmSend_keeps hC | apply takeFree_has hC.unit | apply Out.next_has | exact Out.fault_has | refine Out.of_next (by assumption) ?_ | refine snd_of (by assumption) ?_ | intro _ _ _ _ _ _ | intro _ _ _ | intro _ _ | intro _ | apply ite_has | dsimp only | split

theorem execSpdmGetMeasurements_keeps {request : List Byte} {s : State} (hs : P s) : Out.Has P (execSpdmGetMeasurements request s) := by
  unfold execSpdmGetMeasurements
  try dsimp only
  with_reducible repeat' first | assumption | exact trivial | apply spdmTake_keeps hC | apply spdmFail_keeps hC | apply spdmSend_keeps hC | apply takeFree_has hC.unit | apply Out.next_has | exact Out.fault_has | refine Out.of_next (by assumption) ?_ | refine snd_of (by assumption) ?_ | intro _ _ _ _ _ _ | intro _ _ _ | intro _ _ | intro _ | apply ite_has | dsimp only | split

end

end Sys2Proof.Machine
end

