-- ==== Sys2Proof/Laws/State.lean ====
section
/-! SUPPORT. The updates of the state: tables read back what was put, each update leaves every other field, and each part of the
module is read back from its own update. -/

namespace Sys2Proof.Machine

/- One theorem after another: hundreds of small ones at once would each ask for a thread. -/
set_option Elab.async false

/-! ## Tables -/

@[simp] theorem tget?_tput_same {α : Type} (t : Tbl α) (k : Nat) (v : α) : tget? (tput t k v) k = some v := by
  induction t with
  | nil => simp [tput, tget?]
  | cons e t ih =>
    obtain ⟨j, w⟩ := e
    unfold tput
    split
    · simp [tget?]
    · split
      · simp [tget?]
      · rename_i h1 h2
        have hne : (j == k) = false := by simpa using fun h : j = k => h2 h.symm
        simpa [tget?, List.find?, hne] using ih

theorem tget?_tput_ne {α : Type} (t : Tbl α) {j k : Nat} (v : α) (h : j ≠ k) : tget? (tput t k v) j = tget? t j := by
  induction t with
  | nil => simp [tput, tget?, Ne.symm h]
  | cons e t ih =>
    obtain ⟨i, w⟩ := e
    have hk : (k == j) = false := by simpa using Ne.symm h
    unfold tput
    split
    · simp [tget?, List.find?, hk]
    · split
      · rename_i h1 h2
        subst h2
        simp [tget?, List.find?, hk]
      · by_cases hi : (i == j) = true
        · simp [tget?, List.find?, hi]
        · simpa [tget?, List.find?, hi] using ih

theorem tget_eq {α : Type} (t : Tbl α) (k : Nat) (d : α) : tget t k d = (tget? t k).getD d := by
  unfold tget tget?
  split <;> rfl

@[simp] theorem tget_tput_same {α : Type} (t : Tbl α) (k : Nat) (v d : α) : tget (tput t k v) k d = v := by simp [tget_eq]

theorem tget_tput_ne {α : Type} (t : Tbl α) {j k : Nat} (v d : α) (h : j ≠ k) : tget (tput t k v) j d = tget t j d := by
  simp [tget_eq, tget?_tput_ne t v h]

@[simp] theorem tget?_tdel_same {α : Type} (t : Tbl α) (k : Nat) : tget? (tdel t k) k = none := by
  have h : (tdel t k).find? (fun e => e.1 == k) = none := by simp [tdel, List.find?_eq_none]
  simp [tget?, h]

theorem tget?_tdel_ne {α : Type} (t : Tbl α) {j k : Nat} (h : j ≠ k) : tget? (tdel t k) j = tget? t j := by
  have e : (tdel t k).find? (fun e => e.1 == j) = t.find? (fun e => e.1 == j) := by
    unfold tdel
    rw [List.find?_filter]
    congr 1
    funext x
    by_cases hx : x.1 = j
    · simp [hx, h]
    · simp [hx]
  simp [tget?, e]

/-! ## Parts of the module -/

@[simp] theorem getCore_setCore (s : State) (k : Nat) (x : Core) : getCore (setCore s k x) k = x := tget_tput_same _ _ _ _
theorem getCore_setCore_ne (s : State) {j k : Nat} (x : Core) (h : j ≠ k) : getCore (setCore s k x) j = getCore s j := tget_tput_ne _ _ _ h
@[simp] theorem getCore_modCore (s : State) (k : Nat) (f : Core → Core) : getCore (modCore s k f) k = f (getCore s k) := tget_tput_same _ _ _ _
theorem getCore_modCore_ne (s : State) {j k : Nat} (f : Core → Core) (h : j ≠ k) : getCore (modCore s k f) j = getCore s j := tget_tput_ne _ _ _ h
@[simp] theorem getDie_setDie (s : State) (k : Nat) (x : Die) : getDie (setDie s k x) k = x := tget_tput_same _ _ _ _
theorem getDie_setDie_ne (s : State) {j k : Nat} (x : Die) (h : j ≠ k) : getDie (setDie s k x) j = getDie s j := tget_tput_ne _ _ _ h
@[simp] theorem getDie_modDie (s : State) (k : Nat) (f : Die → Die) : getDie (modDie s k f) k = f (getDie s k) := tget_tput_same _ _ _ _
theorem getDie_modDie_ne (s : State) {j k : Nat} (f : Die → Die) (h : j ≠ k) : getDie (modDie s k f) j = getDie s j := tget_tput_ne _ _ _ h
@[simp] theorem getStack_setStack (s : State) (k : Nat) (x : Stack) : getStack (setStack s k x) k = x := tget_tput_same _ _ _ _
theorem getStack_setStack_ne (s : State) {j k : Nat} (x : Stack) (h : j ≠ k) : getStack (setStack s k x) j = getStack s j := tget_tput_ne _ _ _ h
@[simp] theorem getStack_modStack (s : State) (k : Nat) (f : Stack → Stack) : getStack (modStack s k f) k = f (getStack s k) := tget_tput_same _ _ _ _
theorem getStack_modStack_ne (s : State) {j k : Nat} (f : Stack → Stack) (h : j ≠ k) : getStack (modStack s k f) j = getStack s j := tget_tput_ne _ _ _ h
@[simp] theorem getPort_setPort (s : State) (k : Nat) (x : Port) : getPort (setPort s k x) k = x := tget_tput_same _ _ _ _
theorem getPort_setPort_ne (s : State) {j k : Nat} (x : Port) (h : j ≠ k) : getPort (setPort s k x) j = getPort s j := tget_tput_ne _ _ _ h
@[simp] theorem getPort_modPort (s : State) (k : Nat) (f : Port → Port) : getPort (modPort s k f) k = f (getPort s k) := tget_tput_same _ _ _ _
theorem getPort_modPort_ne (s : State) {j k : Nat} (f : Port → Port) (h : j ≠ k) : getPort (modPort s k f) j = getPort s j := tget_tput_ne _ _ _ h
@[simp] theorem getPd_setPd (s : State) (k : Nat) (x : Photonic) : getPd (setPd s k x) k = x := tget_tput_same _ _ _ _
theorem getPd_setPd_ne (s : State) {j k : Nat} (x : Photonic) (h : j ≠ k) : getPd (setPd s k x) j = getPd s j := tget_tput_ne _ _ _ h
@[simp] theorem getPd_modPd (s : State) (k : Nat) (f : Photonic → Photonic) : getPd (modPd s k f) k = f (getPd s k) := tget_tput_same _ _ _ _
theorem getPd_modPd_ne (s : State) {j k : Nat} (f : Photonic → Photonic) (h : j ≠ k) : getPd (modPd s k f) j = getPd s j := tget_tput_ne _ _ _ h
@[simp] theorem getCh_setCh (s : State) (k : Nat) (x : Channel) : getCh (setCh s k x) k = x := tget_tput_same _ _ _ _
theorem getCh_setCh_ne (s : State) {j k : Nat} (x : Channel) (h : j ≠ k) : getCh (setCh s k x) j = getCh s j := tget_tput_ne _ _ _ h
@[simp] theorem getCh_modCh (s : State) (k : Nat) (f : Channel → Channel) : getCh (modCh s k f) k = f (getCh s k) := tget_tput_same _ _ _ _
theorem getCh_modCh_ne (s : State) {j k : Nat} (f : Channel → Channel) (h : j ≠ k) : getCh (modCh s k f) j = getCh s j := tget_tput_ne _ _ _ h
@[simp] theorem getPart_setPart (s : State) (k : Nat) (x : Partition) : getPart (setPart s k x) k = some x := tget?_tput_same _ _ _
theorem getPart_setPart_ne (s : State) {j k : Nat} (x : Partition) (h : j ≠ k) : getPart (setPart s k x) j = getPart s j :=
  tget?_tput_ne _ _ h

/-! ## What `setCore` leaves -/

@[simp] theorem setCore_pending (s : State) (k : Nat) (x : Core) : (setCore s k x).pending = s.pending := rfl
@[simp] theorem setCore_freeCtr (s : State) (k : Nat) (x : Core) : (setCore s k x).freeCtr = s.freeCtr := rfl
@[simp] theorem setCore_refCount (s : State) (k : Nat) (x : Core) : (setCore s k x).refCount = s.refCount := rfl
@[simp] theorem setCore_acc40 (s : State) (k : Nat) (x : Core) : (setCore s k x).acc40 = s.acc40 := rfl
@[simp] theorem setCore_mem (s : State) (k : Nat) (x : Core) : (setCore s k x).mem = s.mem := rfl
@[simp] theorem setCore_full (s : State) (k : Nat) (x : Core) : (setCore s k x).full = s.full := rfl
@[simp] theorem setCore_poison (s : State) (k : Nat) (x : Core) : (setCore s k x).poison = s.poison := rfl
@[simp] theorem setCore_errOne (s : State) (k : Nat) (x : Core) : (setCore s k x).errOne = s.errOne := rfl
@[simp] theorem setCore_errMany (s : State) (k : Nat) (x : Core) : (setCore s k x).errMany = s.errMany := rfl
@[simp] theorem setCore_errFound (s : State) (k : Nat) (x : Core) : (setCore s k x).errFound = s.errFound := rfl
@[simp] theorem setCore_scrubNext (s : State) (k : Nat) (x : Core) : (setCore s k x).scrubNext = s.scrubNext := rfl
@[simp] theorem setCore_ceHistory (s : State) (k : Nat) (x : Core) : (setCore s k x).ceHistory = s.ceHistory := rfl
@[simp] theorem setCore_poisonLog (s : State) (k : Nat) (x : Core) : (setCore s k x).poisonLog = s.poisonLog := rfl
@[simp] theorem setCore_spares (s : State) (k : Nat) (x : Core) : (setCore s k x).spares = s.spares := rfl
@[simp] theorem setCore_fuses (s : State) (k : Nat) (x : Core) : (setCore s k x).fuses = s.fuses := rfl
@[simp] theorem setCore_dies (s : State) (k : Nat) (x : Core) : (setCore s k x).dies = s.dies := rfl
@[simp] theorem setCore_hbmStacks (s : State) (k : Nat) (x : Core) : (setCore s k x).hbmStacks = s.hbmStacks := rfl
@[simp] theorem setCore_ports (s : State) (k : Nat) (x : Core) : (setCore s k x).ports = s.ports := rfl
@[simp] theorem setCore_photonics (s : State) (k : Nat) (x : Core) : (setCore s k x).photonics = s.photonics := rfl
@[simp] theorem setCore_hubPhases (s : State) (k : Nat) (x : Core) : (setCore s k x).hubPhases = s.hubPhases := rfl
@[simp] theorem setCore_hubThrottled (s : State) (k : Nat) (x : Core) : (setCore s k x).hubThrottled = s.hubThrottled := rfl
@[simp] theorem setCore_hubPhaseLost (s : State) (k : Nat) (x : Core) : (setCore s k x).hubPhaseLost = s.hubPhaseLost := rfl
@[simp] theorem setCore_hubThrottleCount (s : State) (k : Nat) (x : Core) : (setCore s k x).hubThrottleCount = s.hubThrottleCount := rfl
@[simp] theorem setCore_hubPhaseLostCount (s : State) (k : Nat) (x : Core) : (setCore s k x).hubPhaseLostCount = s.hubPhaseLostCount := rfl
@[simp] theorem setCore_hubTemps (s : State) (k : Nat) (x : Core) : (setCore s k x).hubTemps = s.hubTemps := rfl
@[simp] theorem setCore_retiredLinks (s : State) (k : Nat) (x : Core) : (setCore s k x).retiredLinks = s.retiredLinks := rfl
@[simp] theorem setCore_moduleId (s : State) (k : Nat) (x : Core) : (setCore s k x).moduleId = s.moduleId := rfl
@[simp] theorem setCore_routes (s : State) (k : Nat) (x : Core) : (setCore s k x).routes = s.routes := rfl
@[simp] theorem setCore_rxTracks (s : State) (k : Nat) (x : Core) : (setCore s k x).rxTracks = s.rxTracks := rfl
@[simp] theorem setCore_forwards (s : State) (k : Nat) (x : Core) : (setCore s k x).forwards = s.forwards := rfl
@[simp] theorem setCore_partitions (s : State) (k : Nat) (x : Core) : (setCore s k x).partitions = s.partitions := rfl
@[simp] theorem setCore_windows (s : State) (k : Nat) (x : Core) : (setCore s k x).windows = s.windows := rfl
@[simp] theorem setCore_works (s : State) (k : Nat) (x : Core) : (setCore s k x).works = s.works := rfl
@[simp] theorem setCore_recoveries (s : State) (k : Nat) (x : Core) : (setCore s k x).recoveries = s.recoveries := rfl
@[simp] theorem setCore_partLog (s : State) (k : Nat) (x : Core) : (setCore s k x).partLog = s.partLog := rfl
@[simp] theorem setCore_cmds (s : State) (k : Nat) (x : Core) : (setCore s k x).cmds = s.cmds := rfl
@[simp] theorem setCore_ledger (s : State) (k : Nat) (x : Core) : (setCore s k x).ledger = s.ledger := rfl
@[simp] theorem setCore_hbmLost (s : State) (k : Nat) (x : Core) : (setCore s k x).hbmLost = s.hbmLost := rfl
@[simp] theorem setCore_channels (s : State) (k : Nat) (x : Core) : (setCore s k x).channels = s.channels := rfl
@[simp] theorem setCore_evq (s : State) (k : Nat) (x : Core) : (setCore s k x).evq = s.evq := rfl
@[simp] theorem setCore_alarms (s : State) (k : Nat) (x : Core) : (setCore s k x).alarms = s.alarms := rfl
@[simp] theorem setCore_msix (s : State) (k : Nat) (x : Core) : (setCore s k x).msix = s.msix := rfl
@[simp] theorem setCore_endpointUp (s : State) (k : Nat) (x : Core) : (setCore s k x).endpointUp = s.endpointUp := rfl
@[simp] theorem setCore_perstN (s : State) (k : Nat) (x : Core) : (setCore s k x).perstN = s.perstN := rfl
@[simp] theorem setCore_legacy (s : State) (k : Nat) (x : Core) : (setCore s k x).legacy = s.legacy := rfl
@[simp] theorem setCore_l0 (s : State) (k : Nat) (x : Core) : (setCore s k x).l0 = s.l0 := rfl
@[simp] theorem setCore_bar2 (s : State) (k : Nat) (x : Core) : (setCore s k x).bar2 = s.bar2 := rfl
@[simp] theorem setCore_pdSelect (s : State) (k : Nat) (x : Core) : (setCore s k x).pdSelect = s.pdSelect := rfl
@[simp] theorem setCore_reproducible (s : State) (k : Nat) (x : Core) : (setCore s k x).reproducible = s.reproducible := rfl
@[simp] theorem setCore_reproWait (s : State) (k : Nat) (x : Core) : (setCore s k x).reproWait = s.reproWait := rfl
@[simp] theorem setCore_stamp (s : State) (k : Nat) (x : Core) : (setCore s k x).stamp = s.stamp := rfl
@[simp] theorem setCore_assay (s : State) (k : Nat) (x : Core) : (setCore s k x).assay = s.assay := rfl
@[simp] theorem setCore_boot (s : State) (k : Nat) (x : Core) : (setCore s k x).boot = s.boot := rfl
@[simp] theorem setCore_smbus (s : State) (k : Nat) (x : Core) : (setCore s k x).smbus = s.smbus := rfl
@[simp] theorem setCore_spdm (s : State) (k : Nat) (x : Core) : (setCore s k x).spdm = s.spdm := rfl
@[simp] theorem setCore_rind (s : State) (k : Nat) (x : Core) : (setCore s k x).rind = s.rind := rfl
@[simp] theorem setCore_corePd (s : State) (k : Nat) (x : Core) : (setCore s k x).corePd = s.corePd := rfl
@[simp] theorem setCore_diePd (s : State) (k : Nat) (x : Core) : (setCore s k x).diePd = s.diePd := rfl
@[simp] theorem setCore_photonicPd (s : State) (k : Nat) (x : Core) : (setCore s k x).photonicPd = s.photonicPd := rfl
@[simp] theorem setCore_modulePd (s : State) (k : Nat) (x : Core) : (setCore s k x).modulePd = s.modulePd := rfl
@[simp] theorem setCore_pads (s : State) (k : Nat) (x : Core) : (setCore s k x).pads = s.pads := rfl
@[simp] theorem setCore_meter (s : State) (k : Nat) (x : Core) : (setCore s k x).meter = s.meter := rfl
@[simp] theorem setCore_m3 (s : State) (k : Nat) (x : Core) : (setCore s k x).m3 = s.m3 := rfl
@[simp] theorem setCore_restarted (s : State) (k : Nat) (x : Core) : (setCore s k x).restarted = s.restarted := rfl

/-! ## What `setDie` leaves -/

@[simp] theorem setDie_pending (s : State) (k : Nat) (x : Die) : (setDie s k x).pending = s.pending := rfl
@[simp] theorem setDie_freeCtr (s : State) (k : Nat) (x : Die) : (setDie s k x).freeCtr = s.freeCtr := rfl
@[simp] theorem setDie_refCount (s : State) (k : Nat) (x : Die) : (setDie s k x).refCount = s.refCount := rfl
@[simp] theorem setDie_acc40 (s : State) (k : Nat) (x : Die) : (setDie s k x).acc40 = s.acc40 := rfl
@[simp] theorem setDie_mem (s : State) (k : Nat) (x : Die) : (setDie s k x).mem = s.mem := rfl
@[simp] theorem setDie_full (s : State) (k : Nat) (x : Die) : (setDie s k x).full = s.full := rfl
@[simp] theorem setDie_poison (s : State) (k : Nat) (x : Die) : (setDie s k x).poison = s.poison := rfl
@[simp] theorem setDie_errOne (s : State) (k : Nat) (x : Die) : (setDie s k x).errOne = s.errOne := rfl
@[simp] theorem setDie_errMany (s : State) (k : Nat) (x : Die) : (setDie s k x).errMany = s.errMany := rfl
@[simp] theorem setDie_errFound (s : State) (k : Nat) (x : Die) : (setDie s k x).errFound = s.errFound := rfl
@[simp] theorem setDie_scrubNext (s : State) (k : Nat) (x : Die) : (setDie s k x).scrubNext = s.scrubNext := rfl
@[simp] theorem setDie_ceHistory (s : State) (k : Nat) (x : Die) : (setDie s k x).ceHistory = s.ceHistory := rfl
@[simp] theorem setDie_poisonLog (s : State) (k : Nat) (x : Die) : (setDie s k x).poisonLog = s.poisonLog := rfl
@[simp] theorem setDie_spares (s : State) (k : Nat) (x : Die) : (setDie s k x).spares = s.spares := rfl
@[simp] theorem setDie_fuses (s : State) (k : Nat) (x : Die) : (setDie s k x).fuses = s.fuses := rfl
@[simp] theorem setDie_cores (s : State) (k : Nat) (x : Die) : (setDie s k x).cores = s.cores := rfl
@[simp] theorem setDie_hbmStacks (s : State) (k : Nat) (x : Die) : (setDie s k x).hbmStacks = s.hbmStacks := rfl
@[simp] theorem setDie_ports (s : State) (k : Nat) (x : Die) : (setDie s k x).ports = s.ports := rfl
@[simp] theorem setDie_photonics (s : State) (k : Nat) (x : Die) : (setDie s k x).photonics = s.photonics := rfl
@[simp] theorem setDie_hubPhases (s : State) (k : Nat) (x : Die) : (setDie s k x).hubPhases = s.hubPhases := rfl
@[simp] theorem setDie_hubThrottled (s : State) (k : Nat) (x : Die) : (setDie s k x).hubThrottled = s.hubThrottled := rfl
@[simp] theorem setDie_hubPhaseLost (s : State) (k : Nat) (x : Die) : (setDie s k x).hubPhaseLost = s.hubPhaseLost := rfl
@[simp] theorem setDie_hubThrottleCount (s : State) (k : Nat) (x : Die) : (setDie s k x).hubThrottleCount = s.hubThrottleCount := rfl
@[simp] theorem setDie_hubPhaseLostCount (s : State) (k : Nat) (x : Die) : (setDie s k x).hubPhaseLostCount = s.hubPhaseLostCount := rfl
@[simp] theorem setDie_hubTemps (s : State) (k : Nat) (x : Die) : (setDie s k x).hubTemps = s.hubTemps := rfl
@[simp] theorem setDie_retiredLinks (s : State) (k : Nat) (x : Die) : (setDie s k x).retiredLinks = s.retiredLinks := rfl
@[simp] theorem setDie_moduleId (s : State) (k : Nat) (x : Die) : (setDie s k x).moduleId = s.moduleId := rfl
@[simp] theorem setDie_routes (s : State) (k : Nat) (x : Die) : (setDie s k x).routes = s.routes := rfl
@[simp] theorem setDie_rxTracks (s : State) (k : Nat) (x : Die) : (setDie s k x).rxTracks = s.rxTracks := rfl
@[simp] theorem setDie_forwards (s : State) (k : Nat) (x : Die) : (setDie s k x).forwards = s.forwards := rfl
@[simp] theorem setDie_partitions (s : State) (k : Nat) (x : Die) : (setDie s k x).partitions = s.partitions := rfl
@[simp] theorem setDie_windows (s : State) (k : Nat) (x : Die) : (setDie s k x).windows = s.windows := rfl
@[simp] theorem setDie_works (s : State) (k : Nat) (x : Die) : (setDie s k x).works = s.works := rfl
@[simp] theorem setDie_recoveries (s : State) (k : Nat) (x : Die) : (setDie s k x).recoveries = s.recoveries := rfl
@[simp] theorem setDie_partLog (s : State) (k : Nat) (x : Die) : (setDie s k x).partLog = s.partLog := rfl
@[simp] theorem setDie_cmds (s : State) (k : Nat) (x : Die) : (setDie s k x).cmds = s.cmds := rfl
@[simp] theorem setDie_ledger (s : State) (k : Nat) (x : Die) : (setDie s k x).ledger = s.ledger := rfl
@[simp] theorem setDie_hbmLost (s : State) (k : Nat) (x : Die) : (setDie s k x).hbmLost = s.hbmLost := rfl
@[simp] theorem setDie_channels (s : State) (k : Nat) (x : Die) : (setDie s k x).channels = s.channels := rfl
@[simp] theorem setDie_evq (s : State) (k : Nat) (x : Die) : (setDie s k x).evq = s.evq := rfl
@[simp] theorem setDie_alarms (s : State) (k : Nat) (x : Die) : (setDie s k x).alarms = s.alarms := rfl
@[simp] theorem setDie_msix (s : State) (k : Nat) (x : Die) : (setDie s k x).msix = s.msix := rfl
@[simp] theorem setDie_endpointUp (s : State) (k : Nat) (x : Die) : (setDie s k x).endpointUp = s.endpointUp := rfl
@[simp] theorem setDie_perstN (s : State) (k : Nat) (x : Die) : (setDie s k x).perstN = s.perstN := rfl
@[simp] theorem setDie_legacy (s : State) (k : Nat) (x : Die) : (setDie s k x).legacy = s.legacy := rfl
@[simp] theorem setDie_l0 (s : State) (k : Nat) (x : Die) : (setDie s k x).l0 = s.l0 := rfl
@[simp] theorem setDie_bar2 (s : State) (k : Nat) (x : Die) : (setDie s k x).bar2 = s.bar2 := rfl
@[simp] theorem setDie_pdSelect (s : State) (k : Nat) (x : Die) : (setDie s k x).pdSelect = s.pdSelect := rfl
@[simp] theorem setDie_reproducible (s : State) (k : Nat) (x : Die) : (setDie s k x).reproducible = s.reproducible := rfl
@[simp] theorem setDie_reproWait (s : State) (k : Nat) (x : Die) : (setDie s k x).reproWait = s.reproWait := rfl
@[simp] theorem setDie_stamp (s : State) (k : Nat) (x : Die) : (setDie s k x).stamp = s.stamp := rfl
@[simp] theorem setDie_assay (s : State) (k : Nat) (x : Die) : (setDie s k x).assay = s.assay := rfl
@[simp] theorem setDie_boot (s : State) (k : Nat) (x : Die) : (setDie s k x).boot = s.boot := rfl
@[simp] theorem setDie_smbus (s : State) (k : Nat) (x : Die) : (setDie s k x).smbus = s.smbus := rfl
@[simp] theorem setDie_spdm (s : State) (k : Nat) (x : Die) : (setDie s k x).spdm = s.spdm := rfl
@[simp] theorem setDie_rind (s : State) (k : Nat) (x : Die) : (setDie s k x).rind = s.rind := rfl
@[simp] theorem setDie_corePd (s : State) (k : Nat) (x : Die) : (setDie s k x).corePd = s.corePd := rfl
@[simp] theorem setDie_diePd (s : State) (k : Nat) (x : Die) : (setDie s k x).diePd = s.diePd := rfl
@[simp] theorem setDie_photonicPd (s : State) (k : Nat) (x : Die) : (setDie s k x).photonicPd = s.photonicPd := rfl
@[simp] theorem setDie_modulePd (s : State) (k : Nat) (x : Die) : (setDie s k x).modulePd = s.modulePd := rfl
@[simp] theorem setDie_pads (s : State) (k : Nat) (x : Die) : (setDie s k x).pads = s.pads := rfl
@[simp] theorem setDie_meter (s : State) (k : Nat) (x : Die) : (setDie s k x).meter = s.meter := rfl
@[simp] theorem setDie_m3 (s : State) (k : Nat) (x : Die) : (setDie s k x).m3 = s.m3 := rfl
@[simp] theorem setDie_restarted (s : State) (k : Nat) (x : Die) : (setDie s k x).restarted = s.restarted := rfl

/-! ## What `setStack` leaves -/

@[simp] theorem setStack_pending (s : State) (k : Nat) (x : Stack) : (setStack s k x).pending = s.pending := rfl
@[simp] theorem setStack_freeCtr (s : State) (k : Nat) (x : Stack) : (setStack s k x).freeCtr = s.freeCtr := rfl
@[simp] theorem setStack_refCount (s : State) (k : Nat) (x : Stack) : (setStack s k x).refCount = s.refCount := rfl
@[simp] theorem setStack_acc40 (s : State) (k : Nat) (x : Stack) : (setStack s k x).acc40 = s.acc40 := rfl
@[simp] theorem setStack_mem (s : State) (k : Nat) (x : Stack) : (setStack s k x).mem = s.mem := rfl
@[simp] theorem setStack_full (s : State) (k : Nat) (x : Stack) : (setStack s k x).full = s.full := rfl
@[simp] theorem setStack_poison (s : State) (k : Nat) (x : Stack) : (setStack s k x).poison = s.poison := rfl
@[simp] theorem setStack_errOne (s : State) (k : Nat) (x : Stack) : (setStack s k x).errOne = s.errOne := rfl
@[simp] theorem setStack_errMany (s : State) (k : Nat) (x : Stack) : (setStack s k x).errMany = s.errMany := rfl
@[simp] theorem setStack_errFound (s : State) (k : Nat) (x : Stack) : (setStack s k x).errFound = s.errFound := rfl
@[simp] theorem setStack_scrubNext (s : State) (k : Nat) (x : Stack) : (setStack s k x).scrubNext = s.scrubNext := rfl
@[simp] theorem setStack_ceHistory (s : State) (k : Nat) (x : Stack) : (setStack s k x).ceHistory = s.ceHistory := rfl
@[simp] theorem setStack_poisonLog (s : State) (k : Nat) (x : Stack) : (setStack s k x).poisonLog = s.poisonLog := rfl
@[simp] theorem setStack_spares (s : State) (k : Nat) (x : Stack) : (setStack s k x).spares = s.spares := rfl
@[simp] theorem setStack_fuses (s : State) (k : Nat) (x : Stack) : (setStack s k x).fuses = s.fuses := rfl
@[simp] theorem setStack_cores (s : State) (k : Nat) (x : Stack) : (setStack s k x).cores = s.cores := rfl
@[simp] theorem setStack_dies (s : State) (k : Nat) (x : Stack) : (setStack s k x).dies = s.dies := rfl
@[simp] theorem setStack_ports (s : State) (k : Nat) (x : Stack) : (setStack s k x).ports = s.ports := rfl
@[simp] theorem setStack_photonics (s : State) (k : Nat) (x : Stack) : (setStack s k x).photonics = s.photonics := rfl
@[simp] theorem setStack_hubPhases (s : State) (k : Nat) (x : Stack) : (setStack s k x).hubPhases = s.hubPhases := rfl
@[simp] theorem setStack_hubThrottled (s : State) (k : Nat) (x : Stack) : (setStack s k x).hubThrottled = s.hubThrottled := rfl
@[simp] theorem setStack_hubPhaseLost (s : State) (k : Nat) (x : Stack) : (setStack s k x).hubPhaseLost = s.hubPhaseLost := rfl
@[simp] theorem setStack_hubThrottleCount (s : State) (k : Nat) (x : Stack) : (setStack s k x).hubThrottleCount = s.hubThrottleCount := rfl
@[simp] theorem setStack_hubPhaseLostCount (s : State) (k : Nat) (x : Stack) : (setStack s k x).hubPhaseLostCount = s.hubPhaseLostCount := rfl
@[simp] theorem setStack_hubTemps (s : State) (k : Nat) (x : Stack) : (setStack s k x).hubTemps = s.hubTemps := rfl
@[simp] theorem setStack_retiredLinks (s : State) (k : Nat) (x : Stack) : (setStack s k x).retiredLinks = s.retiredLinks := rfl
@[simp] theorem setStack_moduleId (s : State) (k : Nat) (x : Stack) : (setStack s k x).moduleId = s.moduleId := rfl
@[simp] theorem setStack_routes (s : State) (k : Nat) (x : Stack) : (setStack s k x).routes = s.routes := rfl
@[simp] theorem setStack_rxTracks (s : State) (k : Nat) (x : Stack) : (setStack s k x).rxTracks = s.rxTracks := rfl
@[simp] theorem setStack_forwards (s : State) (k : Nat) (x : Stack) : (setStack s k x).forwards = s.forwards := rfl
@[simp] theorem setStack_partitions (s : State) (k : Nat) (x : Stack) : (setStack s k x).partitions = s.partitions := rfl
@[simp] theorem setStack_windows (s : State) (k : Nat) (x : Stack) : (setStack s k x).windows = s.windows := rfl
@[simp] theorem setStack_works (s : State) (k : Nat) (x : Stack) : (setStack s k x).works = s.works := rfl
@[simp] theorem setStack_recoveries (s : State) (k : Nat) (x : Stack) : (setStack s k x).recoveries = s.recoveries := rfl
@[simp] theorem setStack_partLog (s : State) (k : Nat) (x : Stack) : (setStack s k x).partLog = s.partLog := rfl
@[simp] theorem setStack_cmds (s : State) (k : Nat) (x : Stack) : (setStack s k x).cmds = s.cmds := rfl
@[simp] theorem setStack_ledger (s : State) (k : Nat) (x : Stack) : (setStack s k x).ledger = s.ledger := rfl
@[simp] theorem setStack_hbmLost (s : State) (k : Nat) (x : Stack) : (setStack s k x).hbmLost = s.hbmLost := rfl
@[simp] theorem setStack_channels (s : State) (k : Nat) (x : Stack) : (setStack s k x).channels = s.channels := rfl
@[simp] theorem setStack_evq (s : State) (k : Nat) (x : Stack) : (setStack s k x).evq = s.evq := rfl
@[simp] theorem setStack_alarms (s : State) (k : Nat) (x : Stack) : (setStack s k x).alarms = s.alarms := rfl
@[simp] theorem setStack_msix (s : State) (k : Nat) (x : Stack) : (setStack s k x).msix = s.msix := rfl
@[simp] theorem setStack_endpointUp (s : State) (k : Nat) (x : Stack) : (setStack s k x).endpointUp = s.endpointUp := rfl
@[simp] theorem setStack_perstN (s : State) (k : Nat) (x : Stack) : (setStack s k x).perstN = s.perstN := rfl
@[simp] theorem setStack_legacy (s : State) (k : Nat) (x : Stack) : (setStack s k x).legacy = s.legacy := rfl
@[simp] theorem setStack_l0 (s : State) (k : Nat) (x : Stack) : (setStack s k x).l0 = s.l0 := rfl
@[simp] theorem setStack_bar2 (s : State) (k : Nat) (x : Stack) : (setStack s k x).bar2 = s.bar2 := rfl
@[simp] theorem setStack_pdSelect (s : State) (k : Nat) (x : Stack) : (setStack s k x).pdSelect = s.pdSelect := rfl
@[simp] theorem setStack_reproducible (s : State) (k : Nat) (x : Stack) : (setStack s k x).reproducible = s.reproducible := rfl
@[simp] theorem setStack_reproWait (s : State) (k : Nat) (x : Stack) : (setStack s k x).reproWait = s.reproWait := rfl
@[simp] theorem setStack_stamp (s : State) (k : Nat) (x : Stack) : (setStack s k x).stamp = s.stamp := rfl
@[simp] theorem setStack_assay (s : State) (k : Nat) (x : Stack) : (setStack s k x).assay = s.assay := rfl
@[simp] theorem setStack_boot (s : State) (k : Nat) (x : Stack) : (setStack s k x).boot = s.boot := rfl
@[simp] theorem setStack_smbus (s : State) (k : Nat) (x : Stack) : (setStack s k x).smbus = s.smbus := rfl
@[simp] theorem setStack_spdm (s : State) (k : Nat) (x : Stack) : (setStack s k x).spdm = s.spdm := rfl
@[simp] theorem setStack_rind (s : State) (k : Nat) (x : Stack) : (setStack s k x).rind = s.rind := rfl
@[simp] theorem setStack_corePd (s : State) (k : Nat) (x : Stack) : (setStack s k x).corePd = s.corePd := rfl
@[simp] theorem setStack_diePd (s : State) (k : Nat) (x : Stack) : (setStack s k x).diePd = s.diePd := rfl
@[simp] theorem setStack_photonicPd (s : State) (k : Nat) (x : Stack) : (setStack s k x).photonicPd = s.photonicPd := rfl
@[simp] theorem setStack_modulePd (s : State) (k : Nat) (x : Stack) : (setStack s k x).modulePd = s.modulePd := rfl
@[simp] theorem setStack_pads (s : State) (k : Nat) (x : Stack) : (setStack s k x).pads = s.pads := rfl
@[simp] theorem setStack_meter (s : State) (k : Nat) (x : Stack) : (setStack s k x).meter = s.meter := rfl
@[simp] theorem setStack_m3 (s : State) (k : Nat) (x : Stack) : (setStack s k x).m3 = s.m3 := rfl
@[simp] theorem setStack_restarted (s : State) (k : Nat) (x : Stack) : (setStack s k x).restarted = s.restarted := rfl

/-! ## What `setPort` leaves -/

@[simp] theorem setPort_pending (s : State) (k : Nat) (x : Port) : (setPort s k x).pending = s.pending := rfl
@[simp] theorem setPort_freeCtr (s : State) (k : Nat) (x : Port) : (setPort s k x).freeCtr = s.freeCtr := rfl
@[simp] theorem setPort_refCount (s : State) (k : Nat) (x : Port) : (setPort s k x).refCount = s.refCount := rfl
@[simp] theorem setPort_acc40 (s : State) (k : Nat) (x : Port) : (setPort s k x).acc40 = s.acc40 := rfl
@[simp] theorem setPort_mem (s : State) (k : Nat) (x : Port) : (setPort s k x).mem = s.mem := rfl
@[simp] theorem setPort_full (s : State) (k : Nat) (x : Port) : (setPort s k x).full = s.full := rfl
@[simp] theorem setPort_poison (s : State) (k : Nat) (x : Port) : (setPort s k x).poison = s.poison := rfl
@[simp] theorem setPort_errOne (s : State) (k : Nat) (x : Port) : (setPort s k x).errOne = s.errOne := rfl
@[simp] theorem setPort_errMany (s : State) (k : Nat) (x : Port) : (setPort s k x).errMany = s.errMany := rfl
@[simp] theorem setPort_errFound (s : State) (k : Nat) (x : Port) : (setPort s k x).errFound = s.errFound := rfl
@[simp] theorem setPort_scrubNext (s : State) (k : Nat) (x : Port) : (setPort s k x).scrubNext = s.scrubNext := rfl
@[simp] theorem setPort_ceHistory (s : State) (k : Nat) (x : Port) : (setPort s k x).ceHistory = s.ceHistory := rfl
@[simp] theorem setPort_poisonLog (s : State) (k : Nat) (x : Port) : (setPort s k x).poisonLog = s.poisonLog := rfl
@[simp] theorem setPort_spares (s : State) (k : Nat) (x : Port) : (setPort s k x).spares = s.spares := rfl
@[simp] theorem setPort_fuses (s : State) (k : Nat) (x : Port) : (setPort s k x).fuses = s.fuses := rfl
@[simp] theorem setPort_cores (s : State) (k : Nat) (x : Port) : (setPort s k x).cores = s.cores := rfl
@[simp] theorem setPort_dies (s : State) (k : Nat) (x : Port) : (setPort s k x).dies = s.dies := rfl
@[simp] theorem setPort_hbmStacks (s : State) (k : Nat) (x : Port) : (setPort s k x).hbmStacks = s.hbmStacks := rfl
@[simp] theorem setPort_photonics (s : State) (k : Nat) (x : Port) : (setPort s k x).photonics = s.photonics := rfl
@[simp] theorem setPort_hubPhases (s : State) (k : Nat) (x : Port) : (setPort s k x).hubPhases = s.hubPhases := rfl
@[simp] theorem setPort_hubThrottled (s : State) (k : Nat) (x : Port) : (setPort s k x).hubThrottled = s.hubThrottled := rfl
@[simp] theorem setPort_hubPhaseLost (s : State) (k : Nat) (x : Port) : (setPort s k x).hubPhaseLost = s.hubPhaseLost := rfl
@[simp] theorem setPort_hubThrottleCount (s : State) (k : Nat) (x : Port) : (setPort s k x).hubThrottleCount = s.hubThrottleCount := rfl
@[simp] theorem setPort_hubPhaseLostCount (s : State) (k : Nat) (x : Port) : (setPort s k x).hubPhaseLostCount = s.hubPhaseLostCount := rfl
@[simp] theorem setPort_hubTemps (s : State) (k : Nat) (x : Port) : (setPort s k x).hubTemps = s.hubTemps := rfl
@[simp] theorem setPort_retiredLinks (s : State) (k : Nat) (x : Port) : (setPort s k x).retiredLinks = s.retiredLinks := rfl
@[simp] theorem setPort_moduleId (s : State) (k : Nat) (x : Port) : (setPort s k x).moduleId = s.moduleId := rfl
@[simp] theorem setPort_routes (s : State) (k : Nat) (x : Port) : (setPort s k x).routes = s.routes := rfl
@[simp] theorem setPort_rxTracks (s : State) (k : Nat) (x : Port) : (setPort s k x).rxTracks = s.rxTracks := rfl
@[simp] theorem setPort_forwards (s : State) (k : Nat) (x : Port) : (setPort s k x).forwards = s.forwards := rfl
@[simp] theorem setPort_partitions (s : State) (k : Nat) (x : Port) : (setPort s k x).partitions = s.partitions := rfl
@[simp] theorem setPort_windows (s : State) (k : Nat) (x : Port) : (setPort s k x).windows = s.windows := rfl
@[simp] theorem setPort_works (s : State) (k : Nat) (x : Port) : (setPort s k x).works = s.works := rfl
@[simp] theorem setPort_recoveries (s : State) (k : Nat) (x : Port) : (setPort s k x).recoveries = s.recoveries := rfl
@[simp] theorem setPort_partLog (s : State) (k : Nat) (x : Port) : (setPort s k x).partLog = s.partLog := rfl
@[simp] theorem setPort_cmds (s : State) (k : Nat) (x : Port) : (setPort s k x).cmds = s.cmds := rfl
@[simp] theorem setPort_ledger (s : State) (k : Nat) (x : Port) : (setPort s k x).ledger = s.ledger := rfl
@[simp] theorem setPort_hbmLost (s : State) (k : Nat) (x : Port) : (setPort s k x).hbmLost = s.hbmLost := rfl
@[simp] theorem setPort_channels (s : State) (k : Nat) (x : Port) : (setPort s k x).channels = s.channels := rfl
@[simp] theorem setPort_evq (s : State) (k : Nat) (x : Port) : (setPort s k x).evq = s.evq := rfl
@[simp] theorem setPort_alarms (s : State) (k : Nat) (x : Port) : (setPort s k x).alarms = s.alarms := rfl
@[simp] theorem setPort_msix (s : State) (k : Nat) (x : Port) : (setPort s k x).msix = s.msix := rfl
@[simp] theorem setPort_endpointUp (s : State) (k : Nat) (x : Port) : (setPort s k x).endpointUp = s.endpointUp := rfl
@[simp] theorem setPort_perstN (s : State) (k : Nat) (x : Port) : (setPort s k x).perstN = s.perstN := rfl
@[simp] theorem setPort_legacy (s : State) (k : Nat) (x : Port) : (setPort s k x).legacy = s.legacy := rfl
@[simp] theorem setPort_l0 (s : State) (k : Nat) (x : Port) : (setPort s k x).l0 = s.l0 := rfl
@[simp] theorem setPort_bar2 (s : State) (k : Nat) (x : Port) : (setPort s k x).bar2 = s.bar2 := rfl
@[simp] theorem setPort_pdSelect (s : State) (k : Nat) (x : Port) : (setPort s k x).pdSelect = s.pdSelect := rfl
@[simp] theorem setPort_reproducible (s : State) (k : Nat) (x : Port) : (setPort s k x).reproducible = s.reproducible := rfl
@[simp] theorem setPort_reproWait (s : State) (k : Nat) (x : Port) : (setPort s k x).reproWait = s.reproWait := rfl
@[simp] theorem setPort_stamp (s : State) (k : Nat) (x : Port) : (setPort s k x).stamp = s.stamp := rfl
@[simp] theorem setPort_assay (s : State) (k : Nat) (x : Port) : (setPort s k x).assay = s.assay := rfl
@[simp] theorem setPort_boot (s : State) (k : Nat) (x : Port) : (setPort s k x).boot = s.boot := rfl
@[simp] theorem setPort_smbus (s : State) (k : Nat) (x : Port) : (setPort s k x).smbus = s.smbus := rfl
@[simp] theorem setPort_spdm (s : State) (k : Nat) (x : Port) : (setPort s k x).spdm = s.spdm := rfl
@[simp] theorem setPort_rind (s : State) (k : Nat) (x : Port) : (setPort s k x).rind = s.rind := rfl
@[simp] theorem setPort_corePd (s : State) (k : Nat) (x : Port) : (setPort s k x).corePd = s.corePd := rfl
@[simp] theorem setPort_diePd (s : State) (k : Nat) (x : Port) : (setPort s k x).diePd = s.diePd := rfl
@[simp] theorem setPort_photonicPd (s : State) (k : Nat) (x : Port) : (setPort s k x).photonicPd = s.photonicPd := rfl
@[simp] theorem setPort_modulePd (s : State) (k : Nat) (x : Port) : (setPort s k x).modulePd = s.modulePd := rfl
@[simp] theorem setPort_pads (s : State) (k : Nat) (x : Port) : (setPort s k x).pads = s.pads := rfl
@[simp] theorem setPort_meter (s : State) (k : Nat) (x : Port) : (setPort s k x).meter = s.meter := rfl
@[simp] theorem setPort_m3 (s : State) (k : Nat) (x : Port) : (setPort s k x).m3 = s.m3 := rfl
@[simp] theorem setPort_restarted (s : State) (k : Nat) (x : Port) : (setPort s k x).restarted = s.restarted := rfl

/-! ## What `setPd` leaves -/

@[simp] theorem setPd_pending (s : State) (k : Nat) (x : Photonic) : (setPd s k x).pending = s.pending := rfl
@[simp] theorem setPd_freeCtr (s : State) (k : Nat) (x : Photonic) : (setPd s k x).freeCtr = s.freeCtr := rfl
@[simp] theorem setPd_refCount (s : State) (k : Nat) (x : Photonic) : (setPd s k x).refCount = s.refCount := rfl
@[simp] theorem setPd_acc40 (s : State) (k : Nat) (x : Photonic) : (setPd s k x).acc40 = s.acc40 := rfl
@[simp] theorem setPd_mem (s : State) (k : Nat) (x : Photonic) : (setPd s k x).mem = s.mem := rfl
@[simp] theorem setPd_full (s : State) (k : Nat) (x : Photonic) : (setPd s k x).full = s.full := rfl
@[simp] theorem setPd_poison (s : State) (k : Nat) (x : Photonic) : (setPd s k x).poison = s.poison := rfl
@[simp] theorem setPd_errOne (s : State) (k : Nat) (x : Photonic) : (setPd s k x).errOne = s.errOne := rfl
@[simp] theorem setPd_errMany (s : State) (k : Nat) (x : Photonic) : (setPd s k x).errMany = s.errMany := rfl
@[simp] theorem setPd_errFound (s : State) (k : Nat) (x : Photonic) : (setPd s k x).errFound = s.errFound := rfl
@[simp] theorem setPd_scrubNext (s : State) (k : Nat) (x : Photonic) : (setPd s k x).scrubNext = s.scrubNext := rfl
@[simp] theorem setPd_ceHistory (s : State) (k : Nat) (x : Photonic) : (setPd s k x).ceHistory = s.ceHistory := rfl
@[simp] theorem setPd_poisonLog (s : State) (k : Nat) (x : Photonic) : (setPd s k x).poisonLog = s.poisonLog := rfl
@[simp] theorem setPd_spares (s : State) (k : Nat) (x : Photonic) : (setPd s k x).spares = s.spares := rfl
@[simp] theorem setPd_fuses (s : State) (k : Nat) (x : Photonic) : (setPd s k x).fuses = s.fuses := rfl
@[simp] theorem setPd_cores (s : State) (k : Nat) (x : Photonic) : (setPd s k x).cores = s.cores := rfl
@[simp] theorem setPd_dies (s : State) (k : Nat) (x : Photonic) : (setPd s k x).dies = s.dies := rfl
@[simp] theorem setPd_hbmStacks (s : State) (k : Nat) (x : Photonic) : (setPd s k x).hbmStacks = s.hbmStacks := rfl
@[simp] theorem setPd_ports (s : State) (k : Nat) (x : Photonic) : (setPd s k x).ports = s.ports := rfl
@[simp] theorem setPd_hubPhases (s : State) (k : Nat) (x : Photonic) : (setPd s k x).hubPhases = s.hubPhases := rfl
@[simp] theorem setPd_hubThrottled (s : State) (k : Nat) (x : Photonic) : (setPd s k x).hubThrottled = s.hubThrottled := rfl
@[simp] theorem setPd_hubPhaseLost (s : State) (k : Nat) (x : Photonic) : (setPd s k x).hubPhaseLost = s.hubPhaseLost := rfl
@[simp] theorem setPd_hubThrottleCount (s : State) (k : Nat) (x : Photonic) : (setPd s k x).hubThrottleCount = s.hubThrottleCount := rfl
@[simp] theorem setPd_hubPhaseLostCount (s : State) (k : Nat) (x : Photonic) : (setPd s k x).hubPhaseLostCount = s.hubPhaseLostCount := rfl
@[simp] theorem setPd_hubTemps (s : State) (k : Nat) (x : Photonic) : (setPd s k x).hubTemps = s.hubTemps := rfl
@[simp] theorem setPd_retiredLinks (s : State) (k : Nat) (x : Photonic) : (setPd s k x).retiredLinks = s.retiredLinks := rfl
@[simp] theorem setPd_moduleId (s : State) (k : Nat) (x : Photonic) : (setPd s k x).moduleId = s.moduleId := rfl
@[simp] theorem setPd_routes (s : State) (k : Nat) (x : Photonic) : (setPd s k x).routes = s.routes := rfl
@[simp] theorem setPd_rxTracks (s : State) (k : Nat) (x : Photonic) : (setPd s k x).rxTracks = s.rxTracks := rfl
@[simp] theorem setPd_forwards (s : State) (k : Nat) (x : Photonic) : (setPd s k x).forwards = s.forwards := rfl
@[simp] theorem setPd_partitions (s : State) (k : Nat) (x : Photonic) : (setPd s k x).partitions = s.partitions := rfl
@[simp] theorem setPd_windows (s : State) (k : Nat) (x : Photonic) : (setPd s k x).windows = s.windows := rfl
@[simp] theorem setPd_works (s : State) (k : Nat) (x : Photonic) : (setPd s k x).works = s.works := rfl
@[simp] theorem setPd_recoveries (s : State) (k : Nat) (x : Photonic) : (setPd s k x).recoveries = s.recoveries := rfl
@[simp] theorem setPd_partLog (s : State) (k : Nat) (x : Photonic) : (setPd s k x).partLog = s.partLog := rfl
@[simp] theorem setPd_cmds (s : State) (k : Nat) (x : Photonic) : (setPd s k x).cmds = s.cmds := rfl
@[simp] theorem setPd_ledger (s : State) (k : Nat) (x : Photonic) : (setPd s k x).ledger = s.ledger := rfl
@[simp] theorem setPd_hbmLost (s : State) (k : Nat) (x : Photonic) : (setPd s k x).hbmLost = s.hbmLost := rfl
@[simp] theorem setPd_channels (s : State) (k : Nat) (x : Photonic) : (setPd s k x).channels = s.channels := rfl
@[simp] theorem setPd_evq (s : State) (k : Nat) (x : Photonic) : (setPd s k x).evq = s.evq := rfl
@[simp] theorem setPd_alarms (s : State) (k : Nat) (x : Photonic) : (setPd s k x).alarms = s.alarms := rfl
@[simp] theorem setPd_msix (s : State) (k : Nat) (x : Photonic) : (setPd s k x).msix = s.msix := rfl
@[simp] theorem setPd_endpointUp (s : State) (k : Nat) (x : Photonic) : (setPd s k x).endpointUp = s.endpointUp := rfl
@[simp] theorem setPd_perstN (s : State) (k : Nat) (x : Photonic) : (setPd s k x).perstN = s.perstN := rfl
@[simp] theorem setPd_legacy (s : State) (k : Nat) (x : Photonic) : (setPd s k x).legacy = s.legacy := rfl
@[simp] theorem setPd_l0 (s : State) (k : Nat) (x : Photonic) : (setPd s k x).l0 = s.l0 := rfl
@[simp] theorem setPd_bar2 (s : State) (k : Nat) (x : Photonic) : (setPd s k x).bar2 = s.bar2 := rfl
@[simp] theorem setPd_pdSelect (s : State) (k : Nat) (x : Photonic) : (setPd s k x).pdSelect = s.pdSelect := rfl
@[simp] theorem setPd_reproducible (s : State) (k : Nat) (x : Photonic) : (setPd s k x).reproducible = s.reproducible := rfl
@[simp] theorem setPd_reproWait (s : State) (k : Nat) (x : Photonic) : (setPd s k x).reproWait = s.reproWait := rfl
@[simp] theorem setPd_stamp (s : State) (k : Nat) (x : Photonic) : (setPd s k x).stamp = s.stamp := rfl
@[simp] theorem setPd_assay (s : State) (k : Nat) (x : Photonic) : (setPd s k x).assay = s.assay := rfl
@[simp] theorem setPd_boot (s : State) (k : Nat) (x : Photonic) : (setPd s k x).boot = s.boot := rfl
@[simp] theorem setPd_smbus (s : State) (k : Nat) (x : Photonic) : (setPd s k x).smbus = s.smbus := rfl
@[simp] theorem setPd_spdm (s : State) (k : Nat) (x : Photonic) : (setPd s k x).spdm = s.spdm := rfl
@[simp] theorem setPd_rind (s : State) (k : Nat) (x : Photonic) : (setPd s k x).rind = s.rind := rfl
@[simp] theorem setPd_corePd (s : State) (k : Nat) (x : Photonic) : (setPd s k x).corePd = s.corePd := rfl
@[simp] theorem setPd_diePd (s : State) (k : Nat) (x : Photonic) : (setPd s k x).diePd = s.diePd := rfl
@[simp] theorem setPd_photonicPd (s : State) (k : Nat) (x : Photonic) : (setPd s k x).photonicPd = s.photonicPd := rfl
@[simp] theorem setPd_modulePd (s : State) (k : Nat) (x : Photonic) : (setPd s k x).modulePd = s.modulePd := rfl
@[simp] theorem setPd_pads (s : State) (k : Nat) (x : Photonic) : (setPd s k x).pads = s.pads := rfl
@[simp] theorem setPd_meter (s : State) (k : Nat) (x : Photonic) : (setPd s k x).meter = s.meter := rfl
@[simp] theorem setPd_m3 (s : State) (k : Nat) (x : Photonic) : (setPd s k x).m3 = s.m3 := rfl
@[simp] theorem setPd_restarted (s : State) (k : Nat) (x : Photonic) : (setPd s k x).restarted = s.restarted := rfl

/-! ## What `setCh` leaves -/

@[simp] theorem setCh_pending (s : State) (k : Nat) (x : Channel) : (setCh s k x).pending = s.pending := rfl
@[simp] theorem setCh_freeCtr (s : State) (k : Nat) (x : Channel) : (setCh s k x).freeCtr = s.freeCtr := rfl
@[simp] theorem setCh_refCount (s : State) (k : Nat) (x : Channel) : (setCh s k x).refCount = s.refCount := rfl
@[simp] theorem setCh_acc40 (s : State) (k : Nat) (x : Channel) : (setCh s k x).acc40 = s.acc40 := rfl
@[simp] theorem setCh_mem (s : State) (k : Nat) (x : Channel) : (setCh s k x).mem = s.mem := rfl
@[simp] theorem setCh_full (s : State) (k : Nat) (x : Channel) : (setCh s k x).full = s.full := rfl
@[simp] theorem setCh_poison (s : State) (k : Nat) (x : Channel) : (setCh s k x).poison = s.poison := rfl
@[simp] theorem setCh_errOne (s : State) (k : Nat) (x : Channel) : (setCh s k x).errOne = s.errOne := rfl
@[simp] theorem setCh_errMany (s : State) (k : Nat) (x : Channel) : (setCh s k x).errMany = s.errMany := rfl
@[simp] theorem setCh_errFound (s : State) (k : Nat) (x : Channel) : (setCh s k x).errFound = s.errFound := rfl
@[simp] theorem setCh_scrubNext (s : State) (k : Nat) (x : Channel) : (setCh s k x).scrubNext = s.scrubNext := rfl
@[simp] theorem setCh_ceHistory (s : State) (k : Nat) (x : Channel) : (setCh s k x).ceHistory = s.ceHistory := rfl
@[simp] theorem setCh_poisonLog (s : State) (k : Nat) (x : Channel) : (setCh s k x).poisonLog = s.poisonLog := rfl
@[simp] theorem setCh_spares (s : State) (k : Nat) (x : Channel) : (setCh s k x).spares = s.spares := rfl
@[simp] theorem setCh_fuses (s : State) (k : Nat) (x : Channel) : (setCh s k x).fuses = s.fuses := rfl
@[simp] theorem setCh_cores (s : State) (k : Nat) (x : Channel) : (setCh s k x).cores = s.cores := rfl
@[simp] theorem setCh_dies (s : State) (k : Nat) (x : Channel) : (setCh s k x).dies = s.dies := rfl
@[simp] theorem setCh_hbmStacks (s : State) (k : Nat) (x : Channel) : (setCh s k x).hbmStacks = s.hbmStacks := rfl
@[simp] theorem setCh_ports (s : State) (k : Nat) (x : Channel) : (setCh s k x).ports = s.ports := rfl
@[simp] theorem setCh_photonics (s : State) (k : Nat) (x : Channel) : (setCh s k x).photonics = s.photonics := rfl
@[simp] theorem setCh_hubPhases (s : State) (k : Nat) (x : Channel) : (setCh s k x).hubPhases = s.hubPhases := rfl
@[simp] theorem setCh_hubThrottled (s : State) (k : Nat) (x : Channel) : (setCh s k x).hubThrottled = s.hubThrottled := rfl
@[simp] theorem setCh_hubPhaseLost (s : State) (k : Nat) (x : Channel) : (setCh s k x).hubPhaseLost = s.hubPhaseLost := rfl
@[simp] theorem setCh_hubThrottleCount (s : State) (k : Nat) (x : Channel) : (setCh s k x).hubThrottleCount = s.hubThrottleCount := rfl
@[simp] theorem setCh_hubPhaseLostCount (s : State) (k : Nat) (x : Channel) : (setCh s k x).hubPhaseLostCount = s.hubPhaseLostCount := rfl
@[simp] theorem setCh_hubTemps (s : State) (k : Nat) (x : Channel) : (setCh s k x).hubTemps = s.hubTemps := rfl
@[simp] theorem setCh_retiredLinks (s : State) (k : Nat) (x : Channel) : (setCh s k x).retiredLinks = s.retiredLinks := rfl
@[simp] theorem setCh_moduleId (s : State) (k : Nat) (x : Channel) : (setCh s k x).moduleId = s.moduleId := rfl
@[simp] theorem setCh_routes (s : State) (k : Nat) (x : Channel) : (setCh s k x).routes = s.routes := rfl
@[simp] theorem setCh_rxTracks (s : State) (k : Nat) (x : Channel) : (setCh s k x).rxTracks = s.rxTracks := rfl
@[simp] theorem setCh_forwards (s : State) (k : Nat) (x : Channel) : (setCh s k x).forwards = s.forwards := rfl
@[simp] theorem setCh_partitions (s : State) (k : Nat) (x : Channel) : (setCh s k x).partitions = s.partitions := rfl
@[simp] theorem setCh_windows (s : State) (k : Nat) (x : Channel) : (setCh s k x).windows = s.windows := rfl
@[simp] theorem setCh_works (s : State) (k : Nat) (x : Channel) : (setCh s k x).works = s.works := rfl
@[simp] theorem setCh_recoveries (s : State) (k : Nat) (x : Channel) : (setCh s k x).recoveries = s.recoveries := rfl
@[simp] theorem setCh_partLog (s : State) (k : Nat) (x : Channel) : (setCh s k x).partLog = s.partLog := rfl
@[simp] theorem setCh_cmds (s : State) (k : Nat) (x : Channel) : (setCh s k x).cmds = s.cmds := rfl
@[simp] theorem setCh_ledger (s : State) (k : Nat) (x : Channel) : (setCh s k x).ledger = s.ledger := rfl
@[simp] theorem setCh_hbmLost (s : State) (k : Nat) (x : Channel) : (setCh s k x).hbmLost = s.hbmLost := rfl
@[simp] theorem setCh_evq (s : State) (k : Nat) (x : Channel) : (setCh s k x).evq = s.evq := rfl
@[simp] theorem setCh_alarms (s : State) (k : Nat) (x : Channel) : (setCh s k x).alarms = s.alarms := rfl
@[simp] theorem setCh_msix (s : State) (k : Nat) (x : Channel) : (setCh s k x).msix = s.msix := rfl
@[simp] theorem setCh_endpointUp (s : State) (k : Nat) (x : Channel) : (setCh s k x).endpointUp = s.endpointUp := rfl
@[simp] theorem setCh_perstN (s : State) (k : Nat) (x : Channel) : (setCh s k x).perstN = s.perstN := rfl
@[simp] theorem setCh_legacy (s : State) (k : Nat) (x : Channel) : (setCh s k x).legacy = s.legacy := rfl
@[simp] theorem setCh_l0 (s : State) (k : Nat) (x : Channel) : (setCh s k x).l0 = s.l0 := rfl
@[simp] theorem setCh_bar2 (s : State) (k : Nat) (x : Channel) : (setCh s k x).bar2 = s.bar2 := rfl
@[simp] theorem setCh_pdSelect (s : State) (k : Nat) (x : Channel) : (setCh s k x).pdSelect = s.pdSelect := rfl
@[simp] theorem setCh_reproducible (s : State) (k : Nat) (x : Channel) : (setCh s k x).reproducible = s.reproducible := rfl
@[simp] theorem setCh_reproWait (s : State) (k : Nat) (x : Channel) : (setCh s k x).reproWait = s.reproWait := rfl
@[simp] theorem setCh_stamp (s : State) (k : Nat) (x : Channel) : (setCh s k x).stamp = s.stamp := rfl
@[simp] theorem setCh_assay (s : State) (k : Nat) (x : Channel) : (setCh s k x).assay = s.assay := rfl
@[simp] theorem setCh_boot (s : State) (k : Nat) (x : Channel) : (setCh s k x).boot = s.boot := rfl
@[simp] theorem setCh_smbus (s : State) (k : Nat) (x : Channel) : (setCh s k x).smbus = s.smbus := rfl
@[simp] theorem setCh_spdm (s : State) (k : Nat) (x : Channel) : (setCh s k x).spdm = s.spdm := rfl
@[simp] theorem setCh_rind (s : State) (k : Nat) (x : Channel) : (setCh s k x).rind = s.rind := rfl
@[simp] theorem setCh_corePd (s : State) (k : Nat) (x : Channel) : (setCh s k x).corePd = s.corePd := rfl
@[simp] theorem setCh_diePd (s : State) (k : Nat) (x : Channel) : (setCh s k x).diePd = s.diePd := rfl
@[simp] theorem setCh_photonicPd (s : State) (k : Nat) (x : Channel) : (setCh s k x).photonicPd = s.photonicPd := rfl
@[simp] theorem setCh_modulePd (s : State) (k : Nat) (x : Channel) : (setCh s k x).modulePd = s.modulePd := rfl
@[simp] theorem setCh_pads (s : State) (k : Nat) (x : Channel) : (setCh s k x).pads = s.pads := rfl
@[simp] theorem setCh_meter (s : State) (k : Nat) (x : Channel) : (setCh s k x).meter = s.meter := rfl
@[simp] theorem setCh_m3 (s : State) (k : Nat) (x : Channel) : (setCh s k x).m3 = s.m3 := rfl
@[simp] theorem setCh_restarted (s : State) (k : Nat) (x : Channel) : (setCh s k x).restarted = s.restarted := rfl

/-! ## What `setPart` leaves -/

@[simp] theorem setPart_pending (s : State) (k : Nat) (x : Partition) : (setPart s k x).pending = s.pending := rfl
@[simp] theorem setPart_freeCtr (s : State) (k : Nat) (x : Partition) : (setPart s k x).freeCtr = s.freeCtr := rfl
@[simp] theorem setPart_refCount (s : State) (k : Nat) (x : Partition) : (setPart s k x).refCount = s.refCount := rfl
@[simp] theorem setPart_acc40 (s : State) (k : Nat) (x : Partition) : (setPart s k x).acc40 = s.acc40 := rfl
@[simp] theorem setPart_mem (s : State) (k : Nat) (x : Partition) : (setPart s k x).mem = s.mem := rfl
@[simp] theorem setPart_full (s : State) (k : Nat) (x : Partition) : (setPart s k x).full = s.full := rfl
@[simp] theorem setPart_poison (s : State) (k : Nat) (x : Partition) : (setPart s k x).poison = s.poison := rfl
@[simp] theorem setPart_errOne (s : State) (k : Nat) (x : Partition) : (setPart s k x).errOne = s.errOne := rfl
@[simp] theorem setPart_errMany (s : State) (k : Nat) (x : Partition) : (setPart s k x).errMany = s.errMany := rfl
@[simp] theorem setPart_errFound (s : State) (k : Nat) (x : Partition) : (setPart s k x).errFound = s.errFound := rfl
@[simp] theorem setPart_scrubNext (s : State) (k : Nat) (x : Partition) : (setPart s k x).scrubNext = s.scrubNext := rfl
@[simp] theorem setPart_ceHistory (s : State) (k : Nat) (x : Partition) : (setPart s k x).ceHistory = s.ceHistory := rfl
@[simp] theorem setPart_poisonLog (s : State) (k : Nat) (x : Partition) : (setPart s k x).poisonLog = s.poisonLog := rfl
@[simp] theorem setPart_spares (s : State) (k : Nat) (x : Partition) : (setPart s k x).spares = s.spares := rfl
@[simp] theorem setPart_fuses (s : State) (k : Nat) (x : Partition) : (setPart s k x).fuses = s.fuses := rfl
@[simp] theorem setPart_cores (s : State) (k : Nat) (x : Partition) : (setPart s k x).cores = s.cores := rfl
@[simp] theorem setPart_dies (s : State) (k : Nat) (x : Partition) : (setPart s k x).dies = s.dies := rfl
@[simp] theorem setPart_hbmStacks (s : State) (k : Nat) (x : Partition) : (setPart s k x).hbmStacks = s.hbmStacks := rfl
@[simp] theorem setPart_ports (s : State) (k : Nat) (x : Partition) : (setPart s k x).ports = s.ports := rfl
@[simp] theorem setPart_photonics (s : State) (k : Nat) (x : Partition) : (setPart s k x).photonics = s.photonics := rfl
@[simp] theorem setPart_hubPhases (s : State) (k : Nat) (x : Partition) : (setPart s k x).hubPhases = s.hubPhases := rfl
@[simp] theorem setPart_hubThrottled (s : State) (k : Nat) (x : Partition) : (setPart s k x).hubThrottled = s.hubThrottled := rfl
@[simp] theorem setPart_hubPhaseLost (s : State) (k : Nat) (x : Partition) : (setPart s k x).hubPhaseLost = s.hubPhaseLost := rfl
@[simp] theorem setPart_hubThrottleCount (s : State) (k : Nat) (x : Partition) : (setPart s k x).hubThrottleCount = s.hubThrottleCount := rfl
@[simp] theorem setPart_hubPhaseLostCount (s : State) (k : Nat) (x : Partition) : (setPart s k x).hubPhaseLostCount = s.hubPhaseLostCount := rfl
@[simp] theorem setPart_hubTemps (s : State) (k : Nat) (x : Partition) : (setPart s k x).hubTemps = s.hubTemps := rfl
@[simp] theorem setPart_retiredLinks (s : State) (k : Nat) (x : Partition) : (setPart s k x).retiredLinks = s.retiredLinks := rfl
@[simp] theorem setPart_moduleId (s : State) (k : Nat) (x : Partition) : (setPart s k x).moduleId = s.moduleId := rfl
@[simp] theorem setPart_routes (s : State) (k : Nat) (x : Partition) : (setPart s k x).routes = s.routes := rfl
@[simp] theorem setPart_rxTracks (s : State) (k : Nat) (x : Partition) : (setPart s k x).rxTracks = s.rxTracks := rfl
@[simp] theorem setPart_forwards (s : State) (k : Nat) (x : Partition) : (setPart s k x).forwards = s.forwards := rfl
@[simp] theorem setPart_windows (s : State) (k : Nat) (x : Partition) : (setPart s k x).windows = s.windows := rfl
@[simp] theorem setPart_works (s : State) (k : Nat) (x : Partition) : (setPart s k x).works = s.works := rfl
@[simp] theorem setPart_recoveries (s : State) (k : Nat) (x : Partition) : (setPart s k x).recoveries = s.recoveries := rfl
@[simp] theorem setPart_partLog (s : State) (k : Nat) (x : Partition) : (setPart s k x).partLog = s.partLog := rfl
@[simp] theorem setPart_cmds (s : State) (k : Nat) (x : Partition) : (setPart s k x).cmds = s.cmds := rfl
@[simp] theorem setPart_ledger (s : State) (k : Nat) (x : Partition) : (setPart s k x).ledger = s.ledger := rfl
@[simp] theorem setPart_hbmLost (s : State) (k : Nat) (x : Partition) : (setPart s k x).hbmLost = s.hbmLost := rfl
@[simp] theorem setPart_channels (s : State) (k : Nat) (x : Partition) : (setPart s k x).channels = s.channels := rfl
@[simp] theorem setPart_evq (s : State) (k : Nat) (x : Partition) : (setPart s k x).evq = s.evq := rfl
@[simp] theorem setPart_alarms (s : State) (k : Nat) (x : Partition) : (setPart s k x).alarms = s.alarms := rfl
@[simp] theorem setPart_msix (s : State) (k : Nat) (x : Partition) : (setPart s k x).msix = s.msix := rfl
@[simp] theorem setPart_endpointUp (s : State) (k : Nat) (x : Partition) : (setPart s k x).endpointUp = s.endpointUp := rfl
@[simp] theorem setPart_perstN (s : State) (k : Nat) (x : Partition) : (setPart s k x).perstN = s.perstN := rfl
@[simp] theorem setPart_legacy (s : State) (k : Nat) (x : Partition) : (setPart s k x).legacy = s.legacy := rfl
@[simp] theorem setPart_l0 (s : State) (k : Nat) (x : Partition) : (setPart s k x).l0 = s.l0 := rfl
@[simp] theorem setPart_bar2 (s : State) (k : Nat) (x : Partition) : (setPart s k x).bar2 = s.bar2 := rfl
@[simp] theorem setPart_pdSelect (s : State) (k : Nat) (x : Partition) : (setPart s k x).pdSelect = s.pdSelect := rfl
@[simp] theorem setPart_reproducible (s : State) (k : Nat) (x : Partition) : (setPart s k x).reproducible = s.reproducible := rfl
@[simp] theorem setPart_reproWait (s : State) (k : Nat) (x : Partition) : (setPart s k x).reproWait = s.reproWait := rfl
@[simp] theorem setPart_stamp (s : State) (k : Nat) (x : Partition) : (setPart s k x).stamp = s.stamp := rfl
@[simp] theorem setPart_assay (s : State) (k : Nat) (x : Partition) : (setPart s k x).assay = s.assay := rfl
@[simp] theorem setPart_boot (s : State) (k : Nat) (x : Partition) : (setPart s k x).boot = s.boot := rfl
@[simp] theorem setPart_smbus (s : State) (k : Nat) (x : Partition) : (setPart s k x).smbus = s.smbus := rfl
@[simp] theorem setPart_spdm (s : State) (k : Nat) (x : Partition) : (setPart s k x).spdm = s.spdm := rfl
@[simp] theorem setPart_rind (s : State) (k : Nat) (x : Partition) : (setPart s k x).rind = s.rind := rfl
@[simp] theorem setPart_corePd (s : State) (k : Nat) (x : Partition) : (setPart s k x).corePd = s.corePd := rfl
@[simp] theorem setPart_diePd (s : State) (k : Nat) (x : Partition) : (setPart s k x).diePd = s.diePd := rfl
@[simp] theorem setPart_photonicPd (s : State) (k : Nat) (x : Partition) : (setPart s k x).photonicPd = s.photonicPd := rfl
@[simp] theorem setPart_modulePd (s : State) (k : Nat) (x : Partition) : (setPart s k x).modulePd = s.modulePd := rfl
@[simp] theorem setPart_pads (s : State) (k : Nat) (x : Partition) : (setPart s k x).pads = s.pads := rfl
@[simp] theorem setPart_meter (s : State) (k : Nat) (x : Partition) : (setPart s k x).meter = s.meter := rfl
@[simp] theorem setPart_m3 (s : State) (k : Nat) (x : Partition) : (setPart s k x).m3 = s.m3 := rfl
@[simp] theorem setPart_restarted (s : State) (k : Nat) (x : Partition) : (setPart s k x).restarted = s.restarted := rfl

/-! ## What `putWork` leaves -/

@[simp] theorem putWork_pending (s : State) (k : Nat) (x : Work) : (putWork s k x).pending = s.pending := rfl
@[simp] theorem putWork_freeCtr (s : State) (k : Nat) (x : Work) : (putWork s k x).freeCtr = s.freeCtr := rfl
@[simp] theorem putWork_refCount (s : State) (k : Nat) (x : Work) : (putWork s k x).refCount = s.refCount := rfl
@[simp] theorem putWork_acc40 (s : State) (k : Nat) (x : Work) : (putWork s k x).acc40 = s.acc40 := rfl
@[simp] theorem putWork_mem (s : State) (k : Nat) (x : Work) : (putWork s k x).mem = s.mem := rfl
@[simp] theorem putWork_full (s : State) (k : Nat) (x : Work) : (putWork s k x).full = s.full := rfl
@[simp] theorem putWork_poison (s : State) (k : Nat) (x : Work) : (putWork s k x).poison = s.poison := rfl
@[simp] theorem putWork_errOne (s : State) (k : Nat) (x : Work) : (putWork s k x).errOne = s.errOne := rfl
@[simp] theorem putWork_errMany (s : State) (k : Nat) (x : Work) : (putWork s k x).errMany = s.errMany := rfl
@[simp] theorem putWork_errFound (s : State) (k : Nat) (x : Work) : (putWork s k x).errFound = s.errFound := rfl
@[simp] theorem putWork_scrubNext (s : State) (k : Nat) (x : Work) : (putWork s k x).scrubNext = s.scrubNext := rfl
@[simp] theorem putWork_ceHistory (s : State) (k : Nat) (x : Work) : (putWork s k x).ceHistory = s.ceHistory := rfl
@[simp] theorem putWork_poisonLog (s : State) (k : Nat) (x : Work) : (putWork s k x).poisonLog = s.poisonLog := rfl
@[simp] theorem putWork_spares (s : State) (k : Nat) (x : Work) : (putWork s k x).spares = s.spares := rfl
@[simp] theorem putWork_fuses (s : State) (k : Nat) (x : Work) : (putWork s k x).fuses = s.fuses := rfl
@[simp] theorem putWork_cores (s : State) (k : Nat) (x : Work) : (putWork s k x).cores = s.cores := rfl
@[simp] theorem putWork_dies (s : State) (k : Nat) (x : Work) : (putWork s k x).dies = s.dies := rfl
@[simp] theorem putWork_hbmStacks (s : State) (k : Nat) (x : Work) : (putWork s k x).hbmStacks = s.hbmStacks := rfl
@[simp] theorem putWork_ports (s : State) (k : Nat) (x : Work) : (putWork s k x).ports = s.ports := rfl
@[simp] theorem putWork_photonics (s : State) (k : Nat) (x : Work) : (putWork s k x).photonics = s.photonics := rfl
@[simp] theorem putWork_hubPhases (s : State) (k : Nat) (x : Work) : (putWork s k x).hubPhases = s.hubPhases := rfl
@[simp] theorem putWork_hubThrottled (s : State) (k : Nat) (x : Work) : (putWork s k x).hubThrottled = s.hubThrottled := rfl
@[simp] theorem putWork_hubPhaseLost (s : State) (k : Nat) (x : Work) : (putWork s k x).hubPhaseLost = s.hubPhaseLost := rfl
@[simp] theorem putWork_hubThrottleCount (s : State) (k : Nat) (x : Work) : (putWork s k x).hubThrottleCount = s.hubThrottleCount := rfl
@[simp] theorem putWork_hubPhaseLostCount (s : State) (k : Nat) (x : Work) : (putWork s k x).hubPhaseLostCount = s.hubPhaseLostCount := rfl
@[simp] theorem putWork_hubTemps (s : State) (k : Nat) (x : Work) : (putWork s k x).hubTemps = s.hubTemps := rfl
@[simp] theorem putWork_retiredLinks (s : State) (k : Nat) (x : Work) : (putWork s k x).retiredLinks = s.retiredLinks := rfl
@[simp] theorem putWork_moduleId (s : State) (k : Nat) (x : Work) : (putWork s k x).moduleId = s.moduleId := rfl
@[simp] theorem putWork_routes (s : State) (k : Nat) (x : Work) : (putWork s k x).routes = s.routes := rfl
@[simp] theorem putWork_rxTracks (s : State) (k : Nat) (x : Work) : (putWork s k x).rxTracks = s.rxTracks := rfl
@[simp] theorem putWork_forwards (s : State) (k : Nat) (x : Work) : (putWork s k x).forwards = s.forwards := rfl
@[simp] theorem putWork_partitions (s : State) (k : Nat) (x : Work) : (putWork s k x).partitions = s.partitions := rfl
@[simp] theorem putWork_windows (s : State) (k : Nat) (x : Work) : (putWork s k x).windows = s.windows := rfl
@[simp] theorem putWork_recoveries (s : State) (k : Nat) (x : Work) : (putWork s k x).recoveries = s.recoveries := rfl
@[simp] theorem putWork_partLog (s : State) (k : Nat) (x : Work) : (putWork s k x).partLog = s.partLog := rfl
@[simp] theorem putWork_cmds (s : State) (k : Nat) (x : Work) : (putWork s k x).cmds = s.cmds := rfl
@[simp] theorem putWork_ledger (s : State) (k : Nat) (x : Work) : (putWork s k x).ledger = s.ledger := rfl
@[simp] theorem putWork_hbmLost (s : State) (k : Nat) (x : Work) : (putWork s k x).hbmLost = s.hbmLost := rfl
@[simp] theorem putWork_channels (s : State) (k : Nat) (x : Work) : (putWork s k x).channels = s.channels := rfl
@[simp] theorem putWork_evq (s : State) (k : Nat) (x : Work) : (putWork s k x).evq = s.evq := rfl
@[simp] theorem putWork_alarms (s : State) (k : Nat) (x : Work) : (putWork s k x).alarms = s.alarms := rfl
@[simp] theorem putWork_msix (s : State) (k : Nat) (x : Work) : (putWork s k x).msix = s.msix := rfl
@[simp] theorem putWork_endpointUp (s : State) (k : Nat) (x : Work) : (putWork s k x).endpointUp = s.endpointUp := rfl
@[simp] theorem putWork_perstN (s : State) (k : Nat) (x : Work) : (putWork s k x).perstN = s.perstN := rfl
@[simp] theorem putWork_legacy (s : State) (k : Nat) (x : Work) : (putWork s k x).legacy = s.legacy := rfl
@[simp] theorem putWork_l0 (s : State) (k : Nat) (x : Work) : (putWork s k x).l0 = s.l0 := rfl
@[simp] theorem putWork_bar2 (s : State) (k : Nat) (x : Work) : (putWork s k x).bar2 = s.bar2 := rfl
@[simp] theorem putWork_pdSelect (s : State) (k : Nat) (x : Work) : (putWork s k x).pdSelect = s.pdSelect := rfl
@[simp] theorem putWork_reproducible (s : State) (k : Nat) (x : Work) : (putWork s k x).reproducible = s.reproducible := rfl
@[simp] theorem putWork_reproWait (s : State) (k : Nat) (x : Work) : (putWork s k x).reproWait = s.reproWait := rfl
@[simp] theorem putWork_stamp (s : State) (k : Nat) (x : Work) : (putWork s k x).stamp = s.stamp := rfl
@[simp] theorem putWork_assay (s : State) (k : Nat) (x : Work) : (putWork s k x).assay = s.assay := rfl
@[simp] theorem putWork_boot (s : State) (k : Nat) (x : Work) : (putWork s k x).boot = s.boot := rfl
@[simp] theorem putWork_smbus (s : State) (k : Nat) (x : Work) : (putWork s k x).smbus = s.smbus := rfl
@[simp] theorem putWork_spdm (s : State) (k : Nat) (x : Work) : (putWork s k x).spdm = s.spdm := rfl
@[simp] theorem putWork_rind (s : State) (k : Nat) (x : Work) : (putWork s k x).rind = s.rind := rfl
@[simp] theorem putWork_corePd (s : State) (k : Nat) (x : Work) : (putWork s k x).corePd = s.corePd := rfl
@[simp] theorem putWork_diePd (s : State) (k : Nat) (x : Work) : (putWork s k x).diePd = s.diePd := rfl
@[simp] theorem putWork_photonicPd (s : State) (k : Nat) (x : Work) : (putWork s k x).photonicPd = s.photonicPd := rfl
@[simp] theorem putWork_modulePd (s : State) (k : Nat) (x : Work) : (putWork s k x).modulePd = s.modulePd := rfl
@[simp] theorem putWork_pads (s : State) (k : Nat) (x : Work) : (putWork s k x).pads = s.pads := rfl
@[simp] theorem putWork_meter (s : State) (k : Nat) (x : Work) : (putWork s k x).meter = s.meter := rfl
@[simp] theorem putWork_m3 (s : State) (k : Nat) (x : Work) : (putWork s k x).m3 = s.m3 := rfl
@[simp] theorem putWork_restarted (s : State) (k : Nat) (x : Work) : (putWork s k x).restarted = s.restarted := rfl

/-! ## What `modCore` leaves -/

@[simp] theorem modCore_pending (s : State) (k : Nat) (f : Core → Core) : (modCore s k f).pending = s.pending := rfl
@[simp] theorem modCore_freeCtr (s : State) (k : Nat) (f : Core → Core) : (modCore s k f).freeCtr = s.freeCtr := rfl
@[simp] theorem modCore_refCount (s : State) (k : Nat) (f : Core → Core) : (modCore s k f).refCount = s.refCount := rfl
@[simp] theorem modCore_acc40 (s : State) (k : Nat) (f : Core → Core) : (modCore s k f).acc40 = s.acc40 := rfl
@[simp] theorem modCore_mem (s : State) (k : Nat) (f : Core → Core) : (modCore s k f).mem = s.mem := rfl
@[simp] theorem modCore_full (s : State) (k : Nat) (f : Core → Core) : (modCore s k f).full = s.full := rfl
@[simp] theorem modCore_poison (s : State) (k : Nat) (f : Core → Core) : (modCore s k f).poison = s.poison := rfl
@[simp] theorem modCore_errOne (s : State) (k : Nat) (f : Core → Core) : (modCore s k f).errOne = s.errOne := rfl
@[simp] theorem modCore_errMany (s : State) (k : Nat) (f : Core → Core) : (modCore s k f).errMany = s.errMany := rfl
@[simp] theorem modCore_errFound (s : State) (k : Nat) (f : Core → Core) : (modCore s k f).errFound = s.errFound := rfl
@[simp] theorem modCore_scrubNext (s : State) (k : Nat) (f : Core → Core) : (modCore s k f).scrubNext = s.scrubNext := rfl
@[simp] theorem modCore_ceHistory (s : State) (k : Nat) (f : Core → Core) : (modCore s k f).ceHistory = s.ceHistory := rfl
@[simp] theorem modCore_poisonLog (s : State) (k : Nat) (f : Core → Core) : (modCore s k f).poisonLog = s.poisonLog := rfl
@[simp] theorem modCore_spares (s : State) (k : Nat) (f : Core → Core) : (modCore s k f).spares = s.spares := rfl
@[simp] theorem modCore_fuses (s : State) (k : Nat) (f : Core → Core) : (modCore s k f).fuses = s.fuses := rfl
@[simp] theorem modCore_dies (s : State) (k : Nat) (f : Core → Core) : (modCore s k f).dies = s.dies := rfl
@[simp] theorem modCore_hbmStacks (s : State) (k : Nat) (f : Core → Core) : (modCore s k f).hbmStacks = s.hbmStacks := rfl
@[simp] theorem modCore_ports (s : State) (k : Nat) (f : Core → Core) : (modCore s k f).ports = s.ports := rfl
@[simp] theorem modCore_photonics (s : State) (k : Nat) (f : Core → Core) : (modCore s k f).photonics = s.photonics := rfl
@[simp] theorem modCore_hubPhases (s : State) (k : Nat) (f : Core → Core) : (modCore s k f).hubPhases = s.hubPhases := rfl
@[simp] theorem modCore_hubThrottled (s : State) (k : Nat) (f : Core → Core) : (modCore s k f).hubThrottled = s.hubThrottled := rfl
@[simp] theorem modCore_hubPhaseLost (s : State) (k : Nat) (f : Core → Core) : (modCore s k f).hubPhaseLost = s.hubPhaseLost := rfl
@[simp] theorem modCore_hubThrottleCount (s : State) (k : Nat) (f : Core → Core) : (modCore s k f).hubThrottleCount = s.hubThrottleCount := rfl
@[simp] theorem modCore_hubPhaseLostCount (s : State) (k : Nat) (f : Core → Core) : (modCore s k f).hubPhaseLostCount = s.hubPhaseLostCount := rfl
@[simp] theorem modCore_hubTemps (s : State) (k : Nat) (f : Core → Core) : (modCore s k f).hubTemps = s.hubTemps := rfl
@[simp] theorem modCore_retiredLinks (s : State) (k : Nat) (f : Core → Core) : (modCore s k f).retiredLinks = s.retiredLinks := rfl
@[simp] theorem modCore_moduleId (s : State) (k : Nat) (f : Core → Core) : (modCore s k f).moduleId = s.moduleId := rfl
@[simp] theorem modCore_routes (s : State) (k : Nat) (f : Core → Core) : (modCore s k f).routes = s.routes := rfl
@[simp] theorem modCore_rxTracks (s : State) (k : Nat) (f : Core → Core) : (modCore s k f).rxTracks = s.rxTracks := rfl
@[simp] theorem modCore_forwards (s : State) (k : Nat) (f : Core → Core) : (modCore s k f).forwards = s.forwards := rfl
@[simp] theorem modCore_partitions (s : State) (k : Nat) (f : Core → Core) : (modCore s k f).partitions = s.partitions := rfl
@[simp] theorem modCore_windows (s : State) (k : Nat) (f : Core → Core) : (modCore s k f).windows = s.windows := rfl
@[simp] theorem modCore_works (s : State) (k : Nat) (f : Core → Core) : (modCore s k f).works = s.works := rfl
@[simp] theorem modCore_recoveries (s : State) (k : Nat) (f : Core → Core) : (modCore s k f).recoveries = s.recoveries := rfl
@[simp] theorem modCore_partLog (s : State) (k : Nat) (f : Core → Core) : (modCore s k f).partLog = s.partLog := rfl
@[simp] theorem modCore_cmds (s : State) (k : Nat) (f : Core → Core) : (modCore s k f).cmds = s.cmds := rfl
@[simp] theorem modCore_ledger (s : State) (k : Nat) (f : Core → Core) : (modCore s k f).ledger = s.ledger := rfl
@[simp] theorem modCore_hbmLost (s : State) (k : Nat) (f : Core → Core) : (modCore s k f).hbmLost = s.hbmLost := rfl
@[simp] theorem modCore_channels (s : State) (k : Nat) (f : Core → Core) : (modCore s k f).channels = s.channels := rfl
@[simp] theorem modCore_evq (s : State) (k : Nat) (f : Core → Core) : (modCore s k f).evq = s.evq := rfl
@[simp] theorem modCore_alarms (s : State) (k : Nat) (f : Core → Core) : (modCore s k f).alarms = s.alarms := rfl
@[simp] theorem modCore_msix (s : State) (k : Nat) (f : Core → Core) : (modCore s k f).msix = s.msix := rfl
@[simp] theorem modCore_endpointUp (s : State) (k : Nat) (f : Core → Core) : (modCore s k f).endpointUp = s.endpointUp := rfl
@[simp] theorem modCore_perstN (s : State) (k : Nat) (f : Core → Core) : (modCore s k f).perstN = s.perstN := rfl
@[simp] theorem modCore_legacy (s : State) (k : Nat) (f : Core → Core) : (modCore s k f).legacy = s.legacy := rfl
@[simp] theorem modCore_l0 (s : State) (k : Nat) (f : Core → Core) : (modCore s k f).l0 = s.l0 := rfl
@[simp] theorem modCore_bar2 (s : State) (k : Nat) (f : Core → Core) : (modCore s k f).bar2 = s.bar2 := rfl
@[simp] theorem modCore_pdSelect (s : State) (k : Nat) (f : Core → Core) : (modCore s k f).pdSelect = s.pdSelect := rfl
@[simp] theorem modCore_reproducible (s : State) (k : Nat) (f : Core → Core) : (modCore s k f).reproducible = s.reproducible := rfl
@[simp] theorem modCore_reproWait (s : State) (k : Nat) (f : Core → Core) : (modCore s k f).reproWait = s.reproWait := rfl
@[simp] theorem modCore_stamp (s : State) (k : Nat) (f : Core → Core) : (modCore s k f).stamp = s.stamp := rfl
@[simp] theorem modCore_assay (s : State) (k : Nat) (f : Core → Core) : (modCore s k f).assay = s.assay := rfl
@[simp] theorem modCore_boot (s : State) (k : Nat) (f : Core → Core) : (modCore s k f).boot = s.boot := rfl
@[simp] theorem modCore_smbus (s : State) (k : Nat) (f : Core → Core) : (modCore s k f).smbus = s.smbus := rfl
@[simp] theorem modCore_spdm (s : State) (k : Nat) (f : Core → Core) : (modCore s k f).spdm = s.spdm := rfl
@[simp] theorem modCore_rind (s : State) (k : Nat) (f : Core → Core) : (modCore s k f).rind = s.rind := rfl
@[simp] theorem modCore_corePd (s : State) (k : Nat) (f : Core → Core) : (modCore s k f).corePd = s.corePd := rfl
@[simp] theorem modCore_diePd (s : State) (k : Nat) (f : Core → Core) : (modCore s k f).diePd = s.diePd := rfl
@[simp] theorem modCore_photonicPd (s : State) (k : Nat) (f : Core → Core) : (modCore s k f).photonicPd = s.photonicPd := rfl
@[simp] theorem modCore_modulePd (s : State) (k : Nat) (f : Core → Core) : (modCore s k f).modulePd = s.modulePd := rfl
@[simp] theorem modCore_pads (s : State) (k : Nat) (f : Core → Core) : (modCore s k f).pads = s.pads := rfl
@[simp] theorem modCore_meter (s : State) (k : Nat) (f : Core → Core) : (modCore s k f).meter = s.meter := rfl
@[simp] theorem modCore_m3 (s : State) (k : Nat) (f : Core → Core) : (modCore s k f).m3 = s.m3 := rfl
@[simp] theorem modCore_restarted (s : State) (k : Nat) (f : Core → Core) : (modCore s k f).restarted = s.restarted := rfl

/-! ## What `modDie` leaves -/

@[simp] theorem modDie_pending (s : State) (k : Nat) (f : Die → Die) : (modDie s k f).pending = s.pending := rfl
@[simp] theorem modDie_freeCtr (s : State) (k : Nat) (f : Die → Die) : (modDie s k f).freeCtr = s.freeCtr := rfl
@[simp] theorem modDie_refCount (s : State) (k : Nat) (f : Die → Die) : (modDie s k f).refCount = s.refCount := rfl
@[simp] theorem modDie_acc40 (s : State) (k : Nat) (f : Die → Die) : (modDie s k f).acc40 = s.acc40 := rfl
@[simp] theorem modDie_mem (s : State) (k : Nat) (f : Die → Die) : (modDie s k f).mem = s.mem := rfl
@[simp] theorem modDie_full (s : State) (k : Nat) (f : Die → Die) : (modDie s k f).full = s.full := rfl
@[simp] theorem modDie_poison (s : State) (k : Nat) (f : Die → Die) : (modDie s k f).poison = s.poison := rfl
@[simp] theorem modDie_errOne (s : State) (k : Nat) (f : Die → Die) : (modDie s k f).errOne = s.errOne := rfl
@[simp] theorem modDie_errMany (s : State) (k : Nat) (f : Die → Die) : (modDie s k f).errMany = s.errMany := rfl
@[simp] theorem modDie_errFound (s : State) (k : Nat) (f : Die → Die) : (modDie s k f).errFound = s.errFound := rfl
@[simp] theorem modDie_scrubNext (s : State) (k : Nat) (f : Die → Die) : (modDie s k f).scrubNext = s.scrubNext := rfl
@[simp] theorem modDie_ceHistory (s : State) (k : Nat) (f : Die → Die) : (modDie s k f).ceHistory = s.ceHistory := rfl
@[simp] theorem modDie_poisonLog (s : State) (k : Nat) (f : Die → Die) : (modDie s k f).poisonLog = s.poisonLog := rfl
@[simp] theorem modDie_spares (s : State) (k : Nat) (f : Die → Die) : (modDie s k f).spares = s.spares := rfl
@[simp] theorem modDie_fuses (s : State) (k : Nat) (f : Die → Die) : (modDie s k f).fuses = s.fuses := rfl
@[simp] theorem modDie_cores (s : State) (k : Nat) (f : Die → Die) : (modDie s k f).cores = s.cores := rfl
@[simp] theorem modDie_hbmStacks (s : State) (k : Nat) (f : Die → Die) : (modDie s k f).hbmStacks = s.hbmStacks := rfl
@[simp] theorem modDie_ports (s : State) (k : Nat) (f : Die → Die) : (modDie s k f).ports = s.ports := rfl
@[simp] theorem modDie_photonics (s : State) (k : Nat) (f : Die → Die) : (modDie s k f).photonics = s.photonics := rfl
@[simp] theorem modDie_hubPhases (s : State) (k : Nat) (f : Die → Die) : (modDie s k f).hubPhases = s.hubPhases := rfl
@[simp] theorem modDie_hubThrottled (s : State) (k : Nat) (f : Die → Die) : (modDie s k f).hubThrottled = s.hubThrottled := rfl
@[simp] theorem modDie_hubPhaseLost (s : State) (k : Nat) (f : Die → Die) : (modDie s k f).hubPhaseLost = s.hubPhaseLost := rfl
@[simp] theorem modDie_hubThrottleCount (s : State) (k : Nat) (f : Die → Die) : (modDie s k f).hubThrottleCount = s.hubThrottleCount := rfl
@[simp] theorem modDie_hubPhaseLostCount (s : State) (k : Nat) (f : Die → Die) : (modDie s k f).hubPhaseLostCount = s.hubPhaseLostCount := rfl
@[simp] theorem modDie_hubTemps (s : State) (k : Nat) (f : Die → Die) : (modDie s k f).hubTemps = s.hubTemps := rfl
@[simp] theorem modDie_retiredLinks (s : State) (k : Nat) (f : Die → Die) : (modDie s k f).retiredLinks = s.retiredLinks := rfl
@[simp] theorem modDie_moduleId (s : State) (k : Nat) (f : Die → Die) : (modDie s k f).moduleId = s.moduleId := rfl
@[simp] theorem modDie_routes (s : State) (k : Nat) (f : Die → Die) : (modDie s k f).routes = s.routes := rfl
@[simp] theorem modDie_rxTracks (s : State) (k : Nat) (f : Die → Die) : (modDie s k f).rxTracks = s.rxTracks := rfl
@[simp] theorem modDie_forwards (s : State) (k : Nat) (f : Die → Die) : (modDie s k f).forwards = s.forwards := rfl
@[simp] theorem modDie_partitions (s : State) (k : Nat) (f : Die → Die) : (modDie s k f).partitions = s.partitions := rfl
@[simp] theorem modDie_windows (s : State) (k : Nat) (f : Die → Die) : (modDie s k f).windows = s.windows := rfl
@[simp] theorem modDie_works (s : State) (k : Nat) (f : Die → Die) : (modDie s k f).works = s.works := rfl
@[simp] theorem modDie_recoveries (s : State) (k : Nat) (f : Die → Die) : (modDie s k f).recoveries = s.recoveries := rfl
@[simp] theorem modDie_partLog (s : State) (k : Nat) (f : Die → Die) : (modDie s k f).partLog = s.partLog := rfl
@[simp] theorem modDie_cmds (s : State) (k : Nat) (f : Die → Die) : (modDie s k f).cmds = s.cmds := rfl
@[simp] theorem modDie_ledger (s : State) (k : Nat) (f : Die → Die) : (modDie s k f).ledger = s.ledger := rfl
@[simp] theorem modDie_hbmLost (s : State) (k : Nat) (f : Die → Die) : (modDie s k f).hbmLost = s.hbmLost := rfl
@[simp] theorem modDie_channels (s : State) (k : Nat) (f : Die → Die) : (modDie s k f).channels = s.channels := rfl
@[simp] theorem modDie_evq (s : State) (k : Nat) (f : Die → Die) : (modDie s k f).evq = s.evq := rfl
@[simp] theorem modDie_alarms (s : State) (k : Nat) (f : Die → Die) : (modDie s k f).alarms = s.alarms := rfl
@[simp] theorem modDie_msix (s : State) (k : Nat) (f : Die → Die) : (modDie s k f).msix = s.msix := rfl
@[simp] theorem modDie_endpointUp (s : State) (k : Nat) (f : Die → Die) : (modDie s k f).endpointUp = s.endpointUp := rfl
@[simp] theorem modDie_perstN (s : State) (k : Nat) (f : Die → Die) : (modDie s k f).perstN = s.perstN := rfl
@[simp] theorem modDie_legacy (s : State) (k : Nat) (f : Die → Die) : (modDie s k f).legacy = s.legacy := rfl
@[simp] theorem modDie_l0 (s : State) (k : Nat) (f : Die → Die) : (modDie s k f).l0 = s.l0 := rfl
@[simp] theorem modDie_bar2 (s : State) (k : Nat) (f : Die → Die) : (modDie s k f).bar2 = s.bar2 := rfl
@[simp] theorem modDie_pdSelect (s : State) (k : Nat) (f : Die → Die) : (modDie s k f).pdSelect = s.pdSelect := rfl
@[simp] theorem modDie_reproducible (s : State) (k : Nat) (f : Die → Die) : (modDie s k f).reproducible = s.reproducible := rfl
@[simp] theorem modDie_reproWait (s : State) (k : Nat) (f : Die → Die) : (modDie s k f).reproWait = s.reproWait := rfl
@[simp] theorem modDie_stamp (s : State) (k : Nat) (f : Die → Die) : (modDie s k f).stamp = s.stamp := rfl
@[simp] theorem modDie_assay (s : State) (k : Nat) (f : Die → Die) : (modDie s k f).assay = s.assay := rfl
@[simp] theorem modDie_boot (s : State) (k : Nat) (f : Die → Die) : (modDie s k f).boot = s.boot := rfl
@[simp] theorem modDie_smbus (s : State) (k : Nat) (f : Die → Die) : (modDie s k f).smbus = s.smbus := rfl
@[simp] theorem modDie_spdm (s : State) (k : Nat) (f : Die → Die) : (modDie s k f).spdm = s.spdm := rfl
@[simp] theorem modDie_rind (s : State) (k : Nat) (f : Die → Die) : (modDie s k f).rind = s.rind := rfl
@[simp] theorem modDie_corePd (s : State) (k : Nat) (f : Die → Die) : (modDie s k f).corePd = s.corePd := rfl
@[simp] theorem modDie_diePd (s : State) (k : Nat) (f : Die → Die) : (modDie s k f).diePd = s.diePd := rfl
@[simp] theorem modDie_photonicPd (s : State) (k : Nat) (f : Die → Die) : (modDie s k f).photonicPd = s.photonicPd := rfl
@[simp] theorem modDie_modulePd (s : State) (k : Nat) (f : Die → Die) : (modDie s k f).modulePd = s.modulePd := rfl
@[simp] theorem modDie_pads (s : State) (k : Nat) (f : Die → Die) : (modDie s k f).pads = s.pads := rfl
@[simp] theorem modDie_meter (s : State) (k : Nat) (f : Die → Die) : (modDie s k f).meter = s.meter := rfl
@[simp] theorem modDie_m3 (s : State) (k : Nat) (f : Die → Die) : (modDie s k f).m3 = s.m3 := rfl
@[simp] theorem modDie_restarted (s : State) (k : Nat) (f : Die → Die) : (modDie s k f).restarted = s.restarted := rfl

/-! ## What `modStack` leaves -/

@[simp] theorem modStack_pending (s : State) (k : Nat) (f : Stack → Stack) : (modStack s k f).pending = s.pending := rfl
@[simp] theorem modStack_freeCtr (s : State) (k : Nat) (f : Stack → Stack) : (modStack s k f).freeCtr = s.freeCtr := rfl
@[simp] theorem modStack_refCount (s : State) (k : Nat) (f : Stack → Stack) : (modStack s k f).refCount = s.refCount := rfl
@[simp] theorem modStack_acc40 (s : State) (k : Nat) (f : Stack → Stack) : (modStack s k f).acc40 = s.acc40 := rfl
@[simp] theorem modStack_mem (s : State) (k : Nat) (f : Stack → Stack) : (modStack s k f).mem = s.mem := rfl
@[simp] theorem modStack_full (s : State) (k : Nat) (f : Stack → Stack) : (modStack s k f).full = s.full := rfl
@[simp] theorem modStack_poison (s : State) (k : Nat) (f : Stack → Stack) : (modStack s k f).poison = s.poison := rfl
@[simp] theorem modStack_errOne (s : State) (k : Nat) (f : Stack → Stack) : (modStack s k f).errOne = s.errOne := rfl
@[simp] theorem modStack_errMany (s : State) (k : Nat) (f : Stack → Stack) : (modStack s k f).errMany = s.errMany := rfl
@[simp] theorem modStack_errFound (s : State) (k : Nat) (f : Stack → Stack) : (modStack s k f).errFound = s.errFound := rfl
@[simp] theorem modStack_scrubNext (s : State) (k : Nat) (f : Stack → Stack) : (modStack s k f).scrubNext = s.scrubNext := rfl
@[simp] theorem modStack_ceHistory (s : State) (k : Nat) (f : Stack → Stack) : (modStack s k f).ceHistory = s.ceHistory := rfl
@[simp] theorem modStack_poisonLog (s : State) (k : Nat) (f : Stack → Stack) : (modStack s k f).poisonLog = s.poisonLog := rfl
@[simp] theorem modStack_spares (s : State) (k : Nat) (f : Stack → Stack) : (modStack s k f).spares = s.spares := rfl
@[simp] theorem modStack_fuses (s : State) (k : Nat) (f : Stack → Stack) : (modStack s k f).fuses = s.fuses := rfl
@[simp] theorem modStack_cores (s : State) (k : Nat) (f : Stack → Stack) : (modStack s k f).cores = s.cores := rfl
@[simp] theorem modStack_dies (s : State) (k : Nat) (f : Stack → Stack) : (modStack s k f).dies = s.dies := rfl
@[simp] theorem modStack_ports (s : State) (k : Nat) (f : Stack → Stack) : (modStack s k f).ports = s.ports := rfl
@[simp] theorem modStack_photonics (s : State) (k : Nat) (f : Stack → Stack) : (modStack s k f).photonics = s.photonics := rfl
@[simp] theorem modStack_hubPhases (s : State) (k : Nat) (f : Stack → Stack) : (modStack s k f).hubPhases = s.hubPhases := rfl
@[simp] theorem modStack_hubThrottled (s : State) (k : Nat) (f : Stack → Stack) : (modStack s k f).hubThrottled = s.hubThrottled := rfl
@[simp] theorem modStack_hubPhaseLost (s : State) (k : Nat) (f : Stack → Stack) : (modStack s k f).hubPhaseLost = s.hubPhaseLost := rfl
@[simp] theorem modStack_hubThrottleCount (s : State) (k : Nat) (f : Stack → Stack) : (modStack s k f).hubThrottleCount = s.hubThrottleCount := rfl
@[simp] theorem modStack_hubPhaseLostCount (s : State) (k : Nat) (f : Stack → Stack) : (modStack s k f).hubPhaseLostCount = s.hubPhaseLostCount := rfl
@[simp] theorem modStack_hubTemps (s : State) (k : Nat) (f : Stack → Stack) : (modStack s k f).hubTemps = s.hubTemps := rfl
@[simp] theorem modStack_retiredLinks (s : State) (k : Nat) (f : Stack → Stack) : (modStack s k f).retiredLinks = s.retiredLinks := rfl
@[simp] theorem modStack_moduleId (s : State) (k : Nat) (f : Stack → Stack) : (modStack s k f).moduleId = s.moduleId := rfl
@[simp] theorem modStack_routes (s : State) (k : Nat) (f : Stack → Stack) : (modStack s k f).routes = s.routes := rfl
@[simp] theorem modStack_rxTracks (s : State) (k : Nat) (f : Stack → Stack) : (modStack s k f).rxTracks = s.rxTracks := rfl
@[simp] theorem modStack_forwards (s : State) (k : Nat) (f : Stack → Stack) : (modStack s k f).forwards = s.forwards := rfl
@[simp] theorem modStack_partitions (s : State) (k : Nat) (f : Stack → Stack) : (modStack s k f).partitions = s.partitions := rfl
@[simp] theorem modStack_windows (s : State) (k : Nat) (f : Stack → Stack) : (modStack s k f).windows = s.windows := rfl
@[simp] theorem modStack_works (s : State) (k : Nat) (f : Stack → Stack) : (modStack s k f).works = s.works := rfl
@[simp] theorem modStack_recoveries (s : State) (k : Nat) (f : Stack → Stack) : (modStack s k f).recoveries = s.recoveries := rfl
@[simp] theorem modStack_partLog (s : State) (k : Nat) (f : Stack → Stack) : (modStack s k f).partLog = s.partLog := rfl
@[simp] theorem modStack_cmds (s : State) (k : Nat) (f : Stack → Stack) : (modStack s k f).cmds = s.cmds := rfl
@[simp] theorem modStack_ledger (s : State) (k : Nat) (f : Stack → Stack) : (modStack s k f).ledger = s.ledger := rfl
@[simp] theorem modStack_hbmLost (s : State) (k : Nat) (f : Stack → Stack) : (modStack s k f).hbmLost = s.hbmLost := rfl
@[simp] theorem modStack_channels (s : State) (k : Nat) (f : Stack → Stack) : (modStack s k f).channels = s.channels := rfl
@[simp] theorem modStack_evq (s : State) (k : Nat) (f : Stack → Stack) : (modStack s k f).evq = s.evq := rfl
@[simp] theorem modStack_alarms (s : State) (k : Nat) (f : Stack → Stack) : (modStack s k f).alarms = s.alarms := rfl
@[simp] theorem modStack_msix (s : State) (k : Nat) (f : Stack → Stack) : (modStack s k f).msix = s.msix := rfl
@[simp] theorem modStack_endpointUp (s : State) (k : Nat) (f : Stack → Stack) : (modStack s k f).endpointUp = s.endpointUp := rfl
@[simp] theorem modStack_perstN (s : State) (k : Nat) (f : Stack → Stack) : (modStack s k f).perstN = s.perstN := rfl
@[simp] theorem modStack_legacy (s : State) (k : Nat) (f : Stack → Stack) : (modStack s k f).legacy = s.legacy := rfl
@[simp] theorem modStack_l0 (s : State) (k : Nat) (f : Stack → Stack) : (modStack s k f).l0 = s.l0 := rfl
@[simp] theorem modStack_bar2 (s : State) (k : Nat) (f : Stack → Stack) : (modStack s k f).bar2 = s.bar2 := rfl
@[simp] theorem modStack_pdSelect (s : State) (k : Nat) (f : Stack → Stack) : (modStack s k f).pdSelect = s.pdSelect := rfl
@[simp] theorem modStack_reproducible (s : State) (k : Nat) (f : Stack → Stack) : (modStack s k f).reproducible = s.reproducible := rfl
@[simp] theorem modStack_reproWait (s : State) (k : Nat) (f : Stack → Stack) : (modStack s k f).reproWait = s.reproWait := rfl
@[simp] theorem modStack_stamp (s : State) (k : Nat) (f : Stack → Stack) : (modStack s k f).stamp = s.stamp := rfl
@[simp] theorem modStack_assay (s : State) (k : Nat) (f : Stack → Stack) : (modStack s k f).assay = s.assay := rfl
@[simp] theorem modStack_boot (s : State) (k : Nat) (f : Stack → Stack) : (modStack s k f).boot = s.boot := rfl
@[simp] theorem modStack_smbus (s : State) (k : Nat) (f : Stack → Stack) : (modStack s k f).smbus = s.smbus := rfl
@[simp] theorem modStack_spdm (s : State) (k : Nat) (f : Stack → Stack) : (modStack s k f).spdm = s.spdm := rfl
@[simp] theorem modStack_rind (s : State) (k : Nat) (f : Stack → Stack) : (modStack s k f).rind = s.rind := rfl
@[simp] theorem modStack_corePd (s : State) (k : Nat) (f : Stack → Stack) : (modStack s k f).corePd = s.corePd := rfl
@[simp] theorem modStack_diePd (s : State) (k : Nat) (f : Stack → Stack) : (modStack s k f).diePd = s.diePd := rfl
@[simp] theorem modStack_photonicPd (s : State) (k : Nat) (f : Stack → Stack) : (modStack s k f).photonicPd = s.photonicPd := rfl
@[simp] theorem modStack_modulePd (s : State) (k : Nat) (f : Stack → Stack) : (modStack s k f).modulePd = s.modulePd := rfl
@[simp] theorem modStack_pads (s : State) (k : Nat) (f : Stack → Stack) : (modStack s k f).pads = s.pads := rfl
@[simp] theorem modStack_meter (s : State) (k : Nat) (f : Stack → Stack) : (modStack s k f).meter = s.meter := rfl
@[simp] theorem modStack_m3 (s : State) (k : Nat) (f : Stack → Stack) : (modStack s k f).m3 = s.m3 := rfl
@[simp] theorem modStack_restarted (s : State) (k : Nat) (f : Stack → Stack) : (modStack s k f).restarted = s.restarted := rfl

/-! ## What `modPort` leaves -/

@[simp] theorem modPort_pending (s : State) (k : Nat) (f : Port → Port) : (modPort s k f).pending = s.pending := rfl
@[simp] theorem modPort_freeCtr (s : State) (k : Nat) (f : Port → Port) : (modPort s k f).freeCtr = s.freeCtr := rfl
@[simp] theorem modPort_refCount (s : State) (k : Nat) (f : Port → Port) : (modPort s k f).refCount = s.refCount := rfl
@[simp] theorem modPort_acc40 (s : State) (k : Nat) (f : Port → Port) : (modPort s k f).acc40 = s.acc40 := rfl
@[simp] theorem modPort_mem (s : State) (k : Nat) (f : Port → Port) : (modPort s k f).mem = s.mem := rfl
@[simp] theorem modPort_full (s : State) (k : Nat) (f : Port → Port) : (modPort s k f).full = s.full := rfl
@[simp] theorem modPort_poison (s : State) (k : Nat) (f : Port → Port) : (modPort s k f).poison = s.poison := rfl
@[simp] theorem modPort_errOne (s : State) (k : Nat) (f : Port → Port) : (modPort s k f).errOne = s.errOne := rfl
@[simp] theorem modPort_errMany (s : State) (k : Nat) (f : Port → Port) : (modPort s k f).errMany = s.errMany := rfl
@[simp] theorem modPort_errFound (s : State) (k : Nat) (f : Port → Port) : (modPort s k f).errFound = s.errFound := rfl
@[simp] theorem modPort_scrubNext (s : State) (k : Nat) (f : Port → Port) : (modPort s k f).scrubNext = s.scrubNext := rfl
@[simp] theorem modPort_ceHistory (s : State) (k : Nat) (f : Port → Port) : (modPort s k f).ceHistory = s.ceHistory := rfl
@[simp] theorem modPort_poisonLog (s : State) (k : Nat) (f : Port → Port) : (modPort s k f).poisonLog = s.poisonLog := rfl
@[simp] theorem modPort_spares (s : State) (k : Nat) (f : Port → Port) : (modPort s k f).spares = s.spares := rfl
@[simp] theorem modPort_fuses (s : State) (k : Nat) (f : Port → Port) : (modPort s k f).fuses = s.fuses := rfl
@[simp] theorem modPort_cores (s : State) (k : Nat) (f : Port → Port) : (modPort s k f).cores = s.cores := rfl
@[simp] theorem modPort_dies (s : State) (k : Nat) (f : Port → Port) : (modPort s k f).dies = s.dies := rfl
@[simp] theorem modPort_hbmStacks (s : State) (k : Nat) (f : Port → Port) : (modPort s k f).hbmStacks = s.hbmStacks := rfl
@[simp] theorem modPort_photonics (s : State) (k : Nat) (f : Port → Port) : (modPort s k f).photonics = s.photonics := rfl
@[simp] theorem modPort_hubPhases (s : State) (k : Nat) (f : Port → Port) : (modPort s k f).hubPhases = s.hubPhases := rfl
@[simp] theorem modPort_hubThrottled (s : State) (k : Nat) (f : Port → Port) : (modPort s k f).hubThrottled = s.hubThrottled := rfl
@[simp] theorem modPort_hubPhaseLost (s : State) (k : Nat) (f : Port → Port) : (modPort s k f).hubPhaseLost = s.hubPhaseLost := rfl
@[simp] theorem modPort_hubThrottleCount (s : State) (k : Nat) (f : Port → Port) : (modPort s k f).hubThrottleCount = s.hubThrottleCount := rfl
@[simp] theorem modPort_hubPhaseLostCount (s : State) (k : Nat) (f : Port → Port) : (modPort s k f).hubPhaseLostCount = s.hubPhaseLostCount := rfl
@[simp] theorem modPort_hubTemps (s : State) (k : Nat) (f : Port → Port) : (modPort s k f).hubTemps = s.hubTemps := rfl
@[simp] theorem modPort_retiredLinks (s : State) (k : Nat) (f : Port → Port) : (modPort s k f).retiredLinks = s.retiredLinks := rfl
@[simp] theorem modPort_moduleId (s : State) (k : Nat) (f : Port → Port) : (modPort s k f).moduleId = s.moduleId := rfl
@[simp] theorem modPort_routes (s : State) (k : Nat) (f : Port → Port) : (modPort s k f).routes = s.routes := rfl
@[simp] theorem modPort_rxTracks (s : State) (k : Nat) (f : Port → Port) : (modPort s k f).rxTracks = s.rxTracks := rfl
@[simp] theorem modPort_forwards (s : State) (k : Nat) (f : Port → Port) : (modPort s k f).forwards = s.forwards := rfl
@[simp] theorem modPort_partitions (s : State) (k : Nat) (f : Port → Port) : (modPort s k f).partitions = s.partitions := rfl
@[simp] theorem modPort_windows (s : State) (k : Nat) (f : Port → Port) : (modPort s k f).windows = s.windows := rfl
@[simp] theorem modPort_works (s : State) (k : Nat) (f : Port → Port) : (modPort s k f).works = s.works := rfl
@[simp] theorem modPort_recoveries (s : State) (k : Nat) (f : Port → Port) : (modPort s k f).recoveries = s.recoveries := rfl
@[simp] theorem modPort_partLog (s : State) (k : Nat) (f : Port → Port) : (modPort s k f).partLog = s.partLog := rfl
@[simp] theorem modPort_cmds (s : State) (k : Nat) (f : Port → Port) : (modPort s k f).cmds = s.cmds := rfl
@[simp] theorem modPort_ledger (s : State) (k : Nat) (f : Port → Port) : (modPort s k f).ledger = s.ledger := rfl
@[simp] theorem modPort_hbmLost (s : State) (k : Nat) (f : Port → Port) : (modPort s k f).hbmLost = s.hbmLost := rfl
@[simp] theorem modPort_channels (s : State) (k : Nat) (f : Port → Port) : (modPort s k f).channels = s.channels := rfl
@[simp] theorem modPort_evq (s : State) (k : Nat) (f : Port → Port) : (modPort s k f).evq = s.evq := rfl
@[simp] theorem modPort_alarms (s : State) (k : Nat) (f : Port → Port) : (modPort s k f).alarms = s.alarms := rfl
@[simp] theorem modPort_msix (s : State) (k : Nat) (f : Port → Port) : (modPort s k f).msix = s.msix := rfl
@[simp] theorem modPort_endpointUp (s : State) (k : Nat) (f : Port → Port) : (modPort s k f).endpointUp = s.endpointUp := rfl
@[simp] theorem modPort_perstN (s : State) (k : Nat) (f : Port → Port) : (modPort s k f).perstN = s.perstN := rfl
@[simp] theorem modPort_legacy (s : State) (k : Nat) (f : Port → Port) : (modPort s k f).legacy = s.legacy := rfl
@[simp] theorem modPort_l0 (s : State) (k : Nat) (f : Port → Port) : (modPort s k f).l0 = s.l0 := rfl
@[simp] theorem modPort_bar2 (s : State) (k : Nat) (f : Port → Port) : (modPort s k f).bar2 = s.bar2 := rfl
@[simp] theorem modPort_pdSelect (s : State) (k : Nat) (f : Port → Port) : (modPort s k f).pdSelect = s.pdSelect := rfl
@[simp] theorem modPort_reproducible (s : State) (k : Nat) (f : Port → Port) : (modPort s k f).reproducible = s.reproducible := rfl
@[simp] theorem modPort_reproWait (s : State) (k : Nat) (f : Port → Port) : (modPort s k f).reproWait = s.reproWait := rfl
@[simp] theorem modPort_stamp (s : State) (k : Nat) (f : Port → Port) : (modPort s k f).stamp = s.stamp := rfl
@[simp] theorem modPort_assay (s : State) (k : Nat) (f : Port → Port) : (modPort s k f).assay = s.assay := rfl
@[simp] theorem modPort_boot (s : State) (k : Nat) (f : Port → Port) : (modPort s k f).boot = s.boot := rfl
@[simp] theorem modPort_smbus (s : State) (k : Nat) (f : Port → Port) : (modPort s k f).smbus = s.smbus := rfl
@[simp] theorem modPort_spdm (s : State) (k : Nat) (f : Port → Port) : (modPort s k f).spdm = s.spdm := rfl
@[simp] theorem modPort_rind (s : State) (k : Nat) (f : Port → Port) : (modPort s k f).rind = s.rind := rfl
@[simp] theorem modPort_corePd (s : State) (k : Nat) (f : Port → Port) : (modPort s k f).corePd = s.corePd := rfl
@[simp] theorem modPort_diePd (s : State) (k : Nat) (f : Port → Port) : (modPort s k f).diePd = s.diePd := rfl
@[simp] theorem modPort_photonicPd (s : State) (k : Nat) (f : Port → Port) : (modPort s k f).photonicPd = s.photonicPd := rfl
@[simp] theorem modPort_modulePd (s : State) (k : Nat) (f : Port → Port) : (modPort s k f).modulePd = s.modulePd := rfl
@[simp] theorem modPort_pads (s : State) (k : Nat) (f : Port → Port) : (modPort s k f).pads = s.pads := rfl
@[simp] theorem modPort_meter (s : State) (k : Nat) (f : Port → Port) : (modPort s k f).meter = s.meter := rfl
@[simp] theorem modPort_m3 (s : State) (k : Nat) (f : Port → Port) : (modPort s k f).m3 = s.m3 := rfl
@[simp] theorem modPort_restarted (s : State) (k : Nat) (f : Port → Port) : (modPort s k f).restarted = s.restarted := rfl

/-! ## What `modPd` leaves -/

@[simp] theorem modPd_pending (s : State) (k : Nat) (f : Photonic → Photonic) : (modPd s k f).pending = s.pending := rfl
@[simp] theorem modPd_freeCtr (s : State) (k : Nat) (f : Photonic → Photonic) : (modPd s k f).freeCtr = s.freeCtr := rfl
@[simp] theorem modPd_refCount (s : State) (k : Nat) (f : Photonic → Photonic) : (modPd s k f).refCount = s.refCount := rfl
@[simp] theorem modPd_acc40 (s : State) (k : Nat) (f : Photonic → Photonic) : (modPd s k f).acc40 = s.acc40 := rfl
@[simp] theorem modPd_mem (s : State) (k : Nat) (f : Photonic → Photonic) : (modPd s k f).mem = s.mem := rfl
@[simp] theorem modPd_full (s : State) (k : Nat) (f : Photonic → Photonic) : (modPd s k f).full = s.full := rfl
@[simp] theorem modPd_poison (s : State) (k : Nat) (f : Photonic → Photonic) : (modPd s k f).poison = s.poison := rfl
@[simp] theorem modPd_errOne (s : State) (k : Nat) (f : Photonic → Photonic) : (modPd s k f).errOne = s.errOne := rfl
@[simp] theorem modPd_errMany (s : State) (k : Nat) (f : Photonic → Photonic) : (modPd s k f).errMany = s.errMany := rfl
@[simp] theorem modPd_errFound (s : State) (k : Nat) (f : Photonic → Photonic) : (modPd s k f).errFound = s.errFound := rfl
@[simp] theorem modPd_scrubNext (s : State) (k : Nat) (f : Photonic → Photonic) : (modPd s k f).scrubNext = s.scrubNext := rfl
@[simp] theorem modPd_ceHistory (s : State) (k : Nat) (f : Photonic → Photonic) : (modPd s k f).ceHistory = s.ceHistory := rfl
@[simp] theorem modPd_poisonLog (s : State) (k : Nat) (f : Photonic → Photonic) : (modPd s k f).poisonLog = s.poisonLog := rfl
@[simp] theorem modPd_spares (s : State) (k : Nat) (f : Photonic → Photonic) : (modPd s k f).spares = s.spares := rfl
@[simp] theorem modPd_fuses (s : State) (k : Nat) (f : Photonic → Photonic) : (modPd s k f).fuses = s.fuses := rfl
@[simp] theorem modPd_cores (s : State) (k : Nat) (f : Photonic → Photonic) : (modPd s k f).cores = s.cores := rfl
@[simp] theorem modPd_dies (s : State) (k : Nat) (f : Photonic → Photonic) : (modPd s k f).dies = s.dies := rfl
@[simp] theorem modPd_hbmStacks (s : State) (k : Nat) (f : Photonic → Photonic) : (modPd s k f).hbmStacks = s.hbmStacks := rfl
@[simp] theorem modPd_ports (s : State) (k : Nat) (f : Photonic → Photonic) : (modPd s k f).ports = s.ports := rfl
@[simp] theorem modPd_hubPhases (s : State) (k : Nat) (f : Photonic → Photonic) : (modPd s k f).hubPhases = s.hubPhases := rfl
@[simp] theorem modPd_hubThrottled (s : State) (k : Nat) (f : Photonic → Photonic) : (modPd s k f).hubThrottled = s.hubThrottled := rfl
@[simp] theorem modPd_hubPhaseLost (s : State) (k : Nat) (f : Photonic → Photonic) : (modPd s k f).hubPhaseLost = s.hubPhaseLost := rfl
@[simp] theorem modPd_hubThrottleCount (s : State) (k : Nat) (f : Photonic → Photonic) : (modPd s k f).hubThrottleCount = s.hubThrottleCount := rfl
@[simp] theorem modPd_hubPhaseLostCount (s : State) (k : Nat) (f : Photonic → Photonic) : (modPd s k f).hubPhaseLostCount = s.hubPhaseLostCount := rfl
@[simp] theorem modPd_hubTemps (s : State) (k : Nat) (f : Photonic → Photonic) : (modPd s k f).hubTemps = s.hubTemps := rfl
@[simp] theorem modPd_retiredLinks (s : State) (k : Nat) (f : Photonic → Photonic) : (modPd s k f).retiredLinks = s.retiredLinks := rfl
@[simp] theorem modPd_moduleId (s : State) (k : Nat) (f : Photonic → Photonic) : (modPd s k f).moduleId = s.moduleId := rfl
@[simp] theorem modPd_routes (s : State) (k : Nat) (f : Photonic → Photonic) : (modPd s k f).routes = s.routes := rfl
@[simp] theorem modPd_rxTracks (s : State) (k : Nat) (f : Photonic → Photonic) : (modPd s k f).rxTracks = s.rxTracks := rfl
@[simp] theorem modPd_forwards (s : State) (k : Nat) (f : Photonic → Photonic) : (modPd s k f).forwards = s.forwards := rfl
@[simp] theorem modPd_partitions (s : State) (k : Nat) (f : Photonic → Photonic) : (modPd s k f).partitions = s.partitions := rfl
@[simp] theorem modPd_windows (s : State) (k : Nat) (f : Photonic → Photonic) : (modPd s k f).windows = s.windows := rfl
@[simp] theorem modPd_works (s : State) (k : Nat) (f : Photonic → Photonic) : (modPd s k f).works = s.works := rfl
@[simp] theorem modPd_recoveries (s : State) (k : Nat) (f : Photonic → Photonic) : (modPd s k f).recoveries = s.recoveries := rfl
@[simp] theorem modPd_partLog (s : State) (k : Nat) (f : Photonic → Photonic) : (modPd s k f).partLog = s.partLog := rfl
@[simp] theorem modPd_cmds (s : State) (k : Nat) (f : Photonic → Photonic) : (modPd s k f).cmds = s.cmds := rfl
@[simp] theorem modPd_ledger (s : State) (k : Nat) (f : Photonic → Photonic) : (modPd s k f).ledger = s.ledger := rfl
@[simp] theorem modPd_hbmLost (s : State) (k : Nat) (f : Photonic → Photonic) : (modPd s k f).hbmLost = s.hbmLost := rfl
@[simp] theorem modPd_channels (s : State) (k : Nat) (f : Photonic → Photonic) : (modPd s k f).channels = s.channels := rfl
@[simp] theorem modPd_evq (s : State) (k : Nat) (f : Photonic → Photonic) : (modPd s k f).evq = s.evq := rfl
@[simp] theorem modPd_alarms (s : State) (k : Nat) (f : Photonic → Photonic) : (modPd s k f).alarms = s.alarms := rfl
@[simp] theorem modPd_msix (s : State) (k : Nat) (f : Photonic → Photonic) : (modPd s k f).msix = s.msix := rfl
@[simp] theorem modPd_endpointUp (s : State) (k : Nat) (f : Photonic → Photonic) : (modPd s k f).endpointUp = s.endpointUp := rfl
@[simp] theorem modPd_perstN (s : State) (k : Nat) (f : Photonic → Photonic) : (modPd s k f).perstN = s.perstN := rfl
@[simp] theorem modPd_legacy (s : State) (k : Nat) (f : Photonic → Photonic) : (modPd s k f).legacy = s.legacy := rfl
@[simp] theorem modPd_l0 (s : State) (k : Nat) (f : Photonic → Photonic) : (modPd s k f).l0 = s.l0 := rfl
@[simp] theorem modPd_bar2 (s : State) (k : Nat) (f : Photonic → Photonic) : (modPd s k f).bar2 = s.bar2 := rfl
@[simp] theorem modPd_pdSelect (s : State) (k : Nat) (f : Photonic → Photonic) : (modPd s k f).pdSelect = s.pdSelect := rfl
@[simp] theorem modPd_reproducible (s : State) (k : Nat) (f : Photonic → Photonic) : (modPd s k f).reproducible = s.reproducible := rfl
@[simp] theorem modPd_reproWait (s : State) (k : Nat) (f : Photonic → Photonic) : (modPd s k f).reproWait = s.reproWait := rfl
@[simp] theorem modPd_stamp (s : State) (k : Nat) (f : Photonic → Photonic) : (modPd s k f).stamp = s.stamp := rfl
@[simp] theorem modPd_assay (s : State) (k : Nat) (f : Photonic → Photonic) : (modPd s k f).assay = s.assay := rfl
@[simp] theorem modPd_boot (s : State) (k : Nat) (f : Photonic → Photonic) : (modPd s k f).boot = s.boot := rfl
@[simp] theorem modPd_smbus (s : State) (k : Nat) (f : Photonic → Photonic) : (modPd s k f).smbus = s.smbus := rfl
@[simp] theorem modPd_spdm (s : State) (k : Nat) (f : Photonic → Photonic) : (modPd s k f).spdm = s.spdm := rfl
@[simp] theorem modPd_rind (s : State) (k : Nat) (f : Photonic → Photonic) : (modPd s k f).rind = s.rind := rfl
@[simp] theorem modPd_corePd (s : State) (k : Nat) (f : Photonic → Photonic) : (modPd s k f).corePd = s.corePd := rfl
@[simp] theorem modPd_diePd (s : State) (k : Nat) (f : Photonic → Photonic) : (modPd s k f).diePd = s.diePd := rfl
@[simp] theorem modPd_photonicPd (s : State) (k : Nat) (f : Photonic → Photonic) : (modPd s k f).photonicPd = s.photonicPd := rfl
@[simp] theorem modPd_modulePd (s : State) (k : Nat) (f : Photonic → Photonic) : (modPd s k f).modulePd = s.modulePd := rfl
@[simp] theorem modPd_pads (s : State) (k : Nat) (f : Photonic → Photonic) : (modPd s k f).pads = s.pads := rfl
@[simp] theorem modPd_meter (s : State) (k : Nat) (f : Photonic → Photonic) : (modPd s k f).meter = s.meter := rfl
@[simp] theorem modPd_m3 (s : State) (k : Nat) (f : Photonic → Photonic) : (modPd s k f).m3 = s.m3 := rfl
@[simp] theorem modPd_restarted (s : State) (k : Nat) (f : Photonic → Photonic) : (modPd s k f).restarted = s.restarted := rfl

/-! ## What `modCh` leaves -/

@[simp] theorem modCh_pending (s : State) (k : Nat) (f : Channel → Channel) : (modCh s k f).pending = s.pending := rfl
@[simp] theorem modCh_freeCtr (s : State) (k : Nat) (f : Channel → Channel) : (modCh s k f).freeCtr = s.freeCtr := rfl
@[simp] theorem modCh_refCount (s : State) (k : Nat) (f : Channel → Channel) : (modCh s k f).refCount = s.refCount := rfl
@[simp] theorem modCh_acc40 (s : State) (k : Nat) (f : Channel → Channel) : (modCh s k f).acc40 = s.acc40 := rfl
@[simp] theorem modCh_mem (s : State) (k : Nat) (f : Channel → Channel) : (modCh s k f).mem = s.mem := rfl
@[simp] theorem modCh_full (s : State) (k : Nat) (f : Channel → Channel) : (modCh s k f).full = s.full := rfl
@[simp] theorem modCh_poison (s : State) (k : Nat) (f : Channel → Channel) : (modCh s k f).poison = s.poison := rfl
@[simp] theorem modCh_errOne (s : State) (k : Nat) (f : Channel → Channel) : (modCh s k f).errOne = s.errOne := rfl
@[simp] theorem modCh_errMany (s : State) (k : Nat) (f : Channel → Channel) : (modCh s k f).errMany = s.errMany := rfl
@[simp] theorem modCh_errFound (s : State) (k : Nat) (f : Channel → Channel) : (modCh s k f).errFound = s.errFound := rfl
@[simp] theorem modCh_scrubNext (s : State) (k : Nat) (f : Channel → Channel) : (modCh s k f).scrubNext = s.scrubNext := rfl
@[simp] theorem modCh_ceHistory (s : State) (k : Nat) (f : Channel → Channel) : (modCh s k f).ceHistory = s.ceHistory := rfl
@[simp] theorem modCh_poisonLog (s : State) (k : Nat) (f : Channel → Channel) : (modCh s k f).poisonLog = s.poisonLog := rfl
@[simp] theorem modCh_spares (s : State) (k : Nat) (f : Channel → Channel) : (modCh s k f).spares = s.spares := rfl
@[simp] theorem modCh_fuses (s : State) (k : Nat) (f : Channel → Channel) : (modCh s k f).fuses = s.fuses := rfl
@[simp] theorem modCh_cores (s : State) (k : Nat) (f : Channel → Channel) : (modCh s k f).cores = s.cores := rfl
@[simp] theorem modCh_dies (s : State) (k : Nat) (f : Channel → Channel) : (modCh s k f).dies = s.dies := rfl
@[simp] theorem modCh_hbmStacks (s : State) (k : Nat) (f : Channel → Channel) : (modCh s k f).hbmStacks = s.hbmStacks := rfl
@[simp] theorem modCh_ports (s : State) (k : Nat) (f : Channel → Channel) : (modCh s k f).ports = s.ports := rfl
@[simp] theorem modCh_photonics (s : State) (k : Nat) (f : Channel → Channel) : (modCh s k f).photonics = s.photonics := rfl
@[simp] theorem modCh_hubPhases (s : State) (k : Nat) (f : Channel → Channel) : (modCh s k f).hubPhases = s.hubPhases := rfl
@[simp] theorem modCh_hubThrottled (s : State) (k : Nat) (f : Channel → Channel) : (modCh s k f).hubThrottled = s.hubThrottled := rfl
@[simp] theorem modCh_hubPhaseLost (s : State) (k : Nat) (f : Channel → Channel) : (modCh s k f).hubPhaseLost = s.hubPhaseLost := rfl
@[simp] theorem modCh_hubThrottleCount (s : State) (k : Nat) (f : Channel → Channel) : (modCh s k f).hubThrottleCount = s.hubThrottleCount := rfl
@[simp] theorem modCh_hubPhaseLostCount (s : State) (k : Nat) (f : Channel → Channel) : (modCh s k f).hubPhaseLostCount = s.hubPhaseLostCount := rfl
@[simp] theorem modCh_hubTemps (s : State) (k : Nat) (f : Channel → Channel) : (modCh s k f).hubTemps = s.hubTemps := rfl
@[simp] theorem modCh_retiredLinks (s : State) (k : Nat) (f : Channel → Channel) : (modCh s k f).retiredLinks = s.retiredLinks := rfl
@[simp] theorem modCh_moduleId (s : State) (k : Nat) (f : Channel → Channel) : (modCh s k f).moduleId = s.moduleId := rfl
@[simp] theorem modCh_routes (s : State) (k : Nat) (f : Channel → Channel) : (modCh s k f).routes = s.routes := rfl
@[simp] theorem modCh_rxTracks (s : State) (k : Nat) (f : Channel → Channel) : (modCh s k f).rxTracks = s.rxTracks := rfl
@[simp] theorem modCh_forwards (s : State) (k : Nat) (f : Channel → Channel) : (modCh s k f).forwards = s.forwards := rfl
@[simp] theorem modCh_partitions (s : State) (k : Nat) (f : Channel → Channel) : (modCh s k f).partitions = s.partitions := rfl
@[simp] theorem modCh_windows (s : State) (k : Nat) (f : Channel → Channel) : (modCh s k f).windows = s.windows := rfl
@[simp] theorem modCh_works (s : State) (k : Nat) (f : Channel → Channel) : (modCh s k f).works = s.works := rfl
@[simp] theorem modCh_recoveries (s : State) (k : Nat) (f : Channel → Channel) : (modCh s k f).recoveries = s.recoveries := rfl
@[simp] theorem modCh_partLog (s : State) (k : Nat) (f : Channel → Channel) : (modCh s k f).partLog = s.partLog := rfl
@[simp] theorem modCh_cmds (s : State) (k : Nat) (f : Channel → Channel) : (modCh s k f).cmds = s.cmds := rfl
@[simp] theorem modCh_ledger (s : State) (k : Nat) (f : Channel → Channel) : (modCh s k f).ledger = s.ledger := rfl
@[simp] theorem modCh_hbmLost (s : State) (k : Nat) (f : Channel → Channel) : (modCh s k f).hbmLost = s.hbmLost := rfl
@[simp] theorem modCh_evq (s : State) (k : Nat) (f : Channel → Channel) : (modCh s k f).evq = s.evq := rfl
@[simp] theorem modCh_alarms (s : State) (k : Nat) (f : Channel → Channel) : (modCh s k f).alarms = s.alarms := rfl
@[simp] theorem modCh_msix (s : State) (k : Nat) (f : Channel → Channel) : (modCh s k f).msix = s.msix := rfl
@[simp] theorem modCh_endpointUp (s : State) (k : Nat) (f : Channel → Channel) : (modCh s k f).endpointUp = s.endpointUp := rfl
@[simp] theorem modCh_perstN (s : State) (k : Nat) (f : Channel → Channel) : (modCh s k f).perstN = s.perstN := rfl
@[simp] theorem modCh_legacy (s : State) (k : Nat) (f : Channel → Channel) : (modCh s k f).legacy = s.legacy := rfl
@[simp] theorem modCh_l0 (s : State) (k : Nat) (f : Channel → Channel) : (modCh s k f).l0 = s.l0 := rfl
@[simp] theorem modCh_bar2 (s : State) (k : Nat) (f : Channel → Channel) : (modCh s k f).bar2 = s.bar2 := rfl
@[simp] theorem modCh_pdSelect (s : State) (k : Nat) (f : Channel → Channel) : (modCh s k f).pdSelect = s.pdSelect := rfl
@[simp] theorem modCh_reproducible (s : State) (k : Nat) (f : Channel → Channel) : (modCh s k f).reproducible = s.reproducible := rfl
@[simp] theorem modCh_reproWait (s : State) (k : Nat) (f : Channel → Channel) : (modCh s k f).reproWait = s.reproWait := rfl
@[simp] theorem modCh_stamp (s : State) (k : Nat) (f : Channel → Channel) : (modCh s k f).stamp = s.stamp := rfl
@[simp] theorem modCh_assay (s : State) (k : Nat) (f : Channel → Channel) : (modCh s k f).assay = s.assay := rfl
@[simp] theorem modCh_boot (s : State) (k : Nat) (f : Channel → Channel) : (modCh s k f).boot = s.boot := rfl
@[simp] theorem modCh_smbus (s : State) (k : Nat) (f : Channel → Channel) : (modCh s k f).smbus = s.smbus := rfl
@[simp] theorem modCh_spdm (s : State) (k : Nat) (f : Channel → Channel) : (modCh s k f).spdm = s.spdm := rfl
@[simp] theorem modCh_rind (s : State) (k : Nat) (f : Channel → Channel) : (modCh s k f).rind = s.rind := rfl
@[simp] theorem modCh_corePd (s : State) (k : Nat) (f : Channel → Channel) : (modCh s k f).corePd = s.corePd := rfl
@[simp] theorem modCh_diePd (s : State) (k : Nat) (f : Channel → Channel) : (modCh s k f).diePd = s.diePd := rfl
@[simp] theorem modCh_photonicPd (s : State) (k : Nat) (f : Channel → Channel) : (modCh s k f).photonicPd = s.photonicPd := rfl
@[simp] theorem modCh_modulePd (s : State) (k : Nat) (f : Channel → Channel) : (modCh s k f).modulePd = s.modulePd := rfl
@[simp] theorem modCh_pads (s : State) (k : Nat) (f : Channel → Channel) : (modCh s k f).pads = s.pads := rfl
@[simp] theorem modCh_meter (s : State) (k : Nat) (f : Channel → Channel) : (modCh s k f).meter = s.meter := rfl
@[simp] theorem modCh_m3 (s : State) (k : Nat) (f : Channel → Channel) : (modCh s k f).m3 = s.m3 := rfl
@[simp] theorem modCh_restarted (s : State) (k : Nat) (f : Channel → Channel) : (modCh s k f).restarted = s.restarted := rfl

/-! ## What one part leaves of another -/

@[simp] theorem getDie_setCore (s : State) (k j : Nat) (x : Core) : getDie (setCore s k x) j = getDie s j := rfl
@[simp] theorem getDie_modCore (s : State) (k j : Nat) (f : Core → Core) : getDie (modCore s k f) j = getDie s j := rfl
@[simp] theorem getStack_setCore (s : State) (k j : Nat) (x : Core) : getStack (setCore s k x) j = getStack s j := rfl
@[simp] theorem getStack_modCore (s : State) (k j : Nat) (f : Core → Core) : getStack (modCore s k f) j = getStack s j := rfl
@[simp] theorem getPort_setCore (s : State) (k j : Nat) (x : Core) : getPort (setCore s k x) j = getPort s j := rfl
@[simp] theorem getPort_modCore (s : State) (k j : Nat) (f : Core → Core) : getPort (modCore s k f) j = getPort s j := rfl
@[simp] theorem getPd_setCore (s : State) (k j : Nat) (x : Core) : getPd (setCore s k x) j = getPd s j := rfl
@[simp] theorem getPd_modCore (s : State) (k j : Nat) (f : Core → Core) : getPd (modCore s k f) j = getPd s j := rfl
@[simp] theorem getCh_setCore (s : State) (k j : Nat) (x : Core) : getCh (setCore s k x) j = getCh s j := rfl
@[simp] theorem getCh_modCore (s : State) (k j : Nat) (f : Core → Core) : getCh (modCore s k f) j = getCh s j := rfl
@[simp] theorem getPart_setCore (s : State) (k j : Nat) (x : Core) : getPart (setCore s k x) j = getPart s j := rfl
@[simp] theorem getPart_modCore (s : State) (k j : Nat) (f : Core → Core) : getPart (modCore s k f) j = getPart s j := rfl
@[simp] theorem getCore_setDie (s : State) (k j : Nat) (x : Die) : getCore (setDie s k x) j = getCore s j := rfl
@[simp] theorem getCore_modDie (s : State) (k j : Nat) (f : Die → Die) : getCore (modDie s k f) j = getCore s j := rfl
@[simp] theorem getStack_setDie (s : State) (k j : Nat) (x : Die) : getStack (setDie s k x) j = getStack s j := rfl
@[simp] theorem getStack_modDie (s : State) (k j : Nat) (f : Die → Die) : getStack (modDie s k f) j = getStack s j := rfl
@[simp] theorem getPort_setDie (s : State) (k j : Nat) (x : Die) : getPort (setDie s k x) j = getPort s j := rfl
@[simp] theorem getPort_modDie (s : State) (k j : Nat) (f : Die → Die) : getPort (modDie s k f) j = getPort s j := rfl
@[simp] theorem getPd_setDie (s : State) (k j : Nat) (x : Die) : getPd (setDie s k x) j = getPd s j := rfl
@[simp] theorem getPd_modDie (s : State) (k j : Nat) (f : Die → Die) : getPd (modDie s k f) j = getPd s j := rfl
@[simp] theorem getCh_setDie (s : State) (k j : Nat) (x : Die) : getCh (setDie s k x) j = getCh s j := rfl
@[simp] theorem getCh_modDie (s : State) (k j : Nat) (f : Die → Die) : getCh (modDie s k f) j = getCh s j := rfl
@[simp] theorem getPart_setDie (s : State) (k j : Nat) (x : Die) : getPart (setDie s k x) j = getPart s j := rfl
@[simp] theorem getPart_modDie (s : State) (k j : Nat) (f : Die → Die) : getPart (modDie s k f) j = getPart s j := rfl
@[simp] theorem getCore_setStack (s : State) (k j : Nat) (x : Stack) : getCore (setStack s k x) j = getCore s j := rfl
@[simp] theorem getCore_modStack (s : State) (k j : Nat) (f : Stack → Stack) : getCore (modStack s k f) j = getCore s j := rfl
@[simp] theorem getDie_setStack (s : State) (k j : Nat) (x : Stack) : getDie (setStack s k x) j = getDie s j := rfl
@[simp] theorem getDie_modStack (s : State) (k j : Nat) (f : Stack → Stack) : getDie (modStack s k f) j = getDie s j := rfl
@[simp] theorem getPort_setStack (s : State) (k j : Nat) (x : Stack) : getPort (setStack s k x) j = getPort s j := rfl
@[simp] theorem getPort_modStack (s : State) (k j : Nat) (f : Stack → Stack) : getPort (modStack s k f) j = getPort s j := rfl
@[simp] theorem getPd_setStack (s : State) (k j : Nat) (x : Stack) : getPd (setStack s k x) j = getPd s j := rfl
@[simp] theorem getPd_modStack (s : State) (k j : Nat) (f : Stack → Stack) : getPd (modStack s k f) j = getPd s j := rfl
@[simp] theorem getCh_setStack (s : State) (k j : Nat) (x : Stack) : getCh (setStack s k x) j = getCh s j := rfl
@[simp] theorem getCh_modStack (s : State) (k j : Nat) (f : Stack → Stack) : getCh (modStack s k f) j = getCh s j := rfl
@[simp] theorem getPart_setStack (s : State) (k j : Nat) (x : Stack) : getPart (setStack s k x) j = getPart s j := rfl
@[simp] theorem getPart_modStack (s : State) (k j : Nat) (f : Stack → Stack) : getPart (modStack s k f) j = getPart s j := rfl
@[simp] theorem getCore_setPort (s : State) (k j : Nat) (x : Port) : getCore (setPort s k x) j = getCore s j := rfl
@[simp] theorem getCore_modPort (s : State) (k j : Nat) (f : Port → Port) : getCore (modPort s k f) j = getCore s j := rfl
@[simp] theorem getDie_setPort (s : State) (k j : Nat) (x : Port) : getDie (setPort s k x) j = getDie s j := rfl
@[simp] theorem getDie_modPort (s : State) (k j : Nat) (f : Port → Port) : getDie (modPort s k f) j = getDie s j := rfl
@[simp] theorem getStack_setPort (s : State) (k j : Nat) (x : Port) : getStack (setPort s k x) j = getStack s j := rfl
@[simp] theorem getStack_modPort (s : State) (k j : Nat) (f : Port → Port) : getStack (modPort s k f) j = getStack s j := rfl
@[simp] theorem getPd_setPort (s : State) (k j : Nat) (x : Port) : getPd (setPort s k x) j = getPd s j := rfl
@[simp] theorem getPd_modPort (s : State) (k j : Nat) (f : Port → Port) : getPd (modPort s k f) j = getPd s j := rfl
@[simp] theorem getCh_setPort (s : State) (k j : Nat) (x : Port) : getCh (setPort s k x) j = getCh s j := rfl
@[simp] theorem getCh_modPort (s : State) (k j : Nat) (f : Port → Port) : getCh (modPort s k f) j = getCh s j := rfl
@[simp] theorem getPart_setPort (s : State) (k j : Nat) (x : Port) : getPart (setPort s k x) j = getPart s j := rfl
@[simp] theorem getPart_modPort (s : State) (k j : Nat) (f : Port → Port) : getPart (modPort s k f) j = getPart s j := rfl
@[simp] theorem getCore_setPd (s : State) (k j : Nat) (x : Photonic) : getCore (setPd s k x) j = getCore s j := rfl
@[simp] theorem getCore_modPd (s : State) (k j : Nat) (f : Photonic → Photonic) : getCore (modPd s k f) j = getCore s j := rfl
@[simp] theorem getDie_setPd (s : State) (k j : Nat) (x : Photonic) : getDie (setPd s k x) j = getDie s j := rfl
@[simp] theorem getDie_modPd (s : State) (k j : Nat) (f : Photonic → Photonic) : getDie (modPd s k f) j = getDie s j := rfl
@[simp] theorem getStack_setPd (s : State) (k j : Nat) (x : Photonic) : getStack (setPd s k x) j = getStack s j := rfl
@[simp] theorem getStack_modPd (s : State) (k j : Nat) (f : Photonic → Photonic) : getStack (modPd s k f) j = getStack s j := rfl
@[simp] theorem getPort_setPd (s : State) (k j : Nat) (x : Photonic) : getPort (setPd s k x) j = getPort s j := rfl
@[simp] theorem getPort_modPd (s : State) (k j : Nat) (f : Photonic → Photonic) : getPort (modPd s k f) j = getPort s j := rfl
@[simp] theorem getCh_setPd (s : State) (k j : Nat) (x : Photonic) : getCh (setPd s k x) j = getCh s j := rfl
@[simp] theorem getCh_modPd (s : State) (k j : Nat) (f : Photonic → Photonic) : getCh (modPd s k f) j = getCh s j := rfl
@[simp] theorem getPart_setPd (s : State) (k j : Nat) (x : Photonic) : getPart (setPd s k x) j = getPart s j := rfl
@[simp] theorem getPart_modPd (s : State) (k j : Nat) (f : Photonic → Photonic) : getPart (modPd s k f) j = getPart s j := rfl
@[simp] theorem getCore_setCh (s : State) (k j : Nat) (x : Channel) : getCore (setCh s k x) j = getCore s j := rfl
@[simp] theorem getCore_modCh (s : State) (k j : Nat) (f : Channel → Channel) : getCore (modCh s k f) j = getCore s j := rfl
@[simp] theorem getDie_setCh (s : State) (k j : Nat) (x : Channel) : getDie (setCh s k x) j = getDie s j := rfl
@[simp] theorem getDie_modCh (s : State) (k j : Nat) (f : Channel → Channel) : getDie (modCh s k f) j = getDie s j := rfl
@[simp] theorem getStack_setCh (s : State) (k j : Nat) (x : Channel) : getStack (setCh s k x) j = getStack s j := rfl
@[simp] theorem getStack_modCh (s : State) (k j : Nat) (f : Channel → Channel) : getStack (modCh s k f) j = getStack s j := rfl
@[simp] theorem getPort_setCh (s : State) (k j : Nat) (x : Channel) : getPort (setCh s k x) j = getPort s j := rfl
@[simp] theorem getPort_modCh (s : State) (k j : Nat) (f : Channel → Channel) : getPort (modCh s k f) j = getPort s j := rfl
@[simp] theorem getPd_setCh (s : State) (k j : Nat) (x : Channel) : getPd (setCh s k x) j = getPd s j := rfl
@[simp] theorem getPd_modCh (s : State) (k j : Nat) (f : Channel → Channel) : getPd (modCh s k f) j = getPd s j := rfl
@[simp] theorem getPart_setCh (s : State) (k j : Nat) (x : Channel) : getPart (setCh s k x) j = getPart s j := rfl
@[simp] theorem getPart_modCh (s : State) (k j : Nat) (f : Channel → Channel) : getPart (modCh s k f) j = getPart s j := rfl

end Sys2Proof.Machine
end

