-- ==== Sys2Proof/Tests/Slice0.lean ====
section
/-! SUPPORT. Tests: the checks of well-formedness, a state and operands that meet the hypotheses of each statement, clause by clause,
and single steps whose expected results come from the rules of the spec. -/

namespace Sys2Proof.Tests

/- One theorem after another: hundreds of small ones at once would each ask for a thread. -/
set_option Elab.async false

open Sys2Proof Sys2Proof.Machine

/-! ## States -/

/-- A module that runs: boot is done, `MP-A` holds the stamp, the endpoint is up, and partition 1 holds core 0 and one page. Core 0
has the translations of its own P-store and of its own hoop 15. -/
def base : State :=
  { State.reset with
    boot := { Boot.reset with stage := 4, begun := true, assayHeader := [1], mgmtHeader := [1], modeByte := 0 },
    stamp := { Stamp.reset with epoch := 1, holder := 1, mpA := { Processor.reset with held := false, current := true },
                                mpB := { Processor.reset with held := false } },
    endpointUp := true, perstN := true, moduleId := some 1,
    partitions := [(1, { Partition.empty 7 with places := [(0, 0)], pages := [(0, 0)], power := 100 })],
    cores := [(0, { coreInit .reset 0 with
      part := 1, ctu := [(ctuKey (scratchAddr 0 2 0), 0), (ctuKey (hoopAddr 0 15 0), 0)] })], corePd := [(0, Power.reset 0)] }

def onCore0 (f : Core → Core) : State := modCore base 0 f

/-- Core 0 with entry `e` next. -/
def atEntry (e : Nat) : State := onCore0 fun co =>
  { co with seq := { co.seq with running := true, listLen := 8, pos := 1, fetch := [(0, zeros 16 ++ leBytes 16 e)] } }

/-- Core 0 with entry `e` blocking. -/
def blockedAt (e stage : Nat) : State := onCore0 fun co =>
  { co with seq := { co.seq with running := true, listLen := 8, pos := 1, block := some { idx := 1, entry := e, stage := stage } } }

/-- Address of a row of the P-store of core 0. -/
def pRow (r : Nat) : Nat := scratchAddr 0 2 r

/-- An entry of a kind. -/
def entry (kind fields : Nat) : Nat := (kind <<< 124) + fields

def jobIn (st : JobState) : Job := { newJob 1 0 .both [] 0 0 with st := st }

/-- The 64 bytes of a command: opcode, partition, and the bytes from 16 on. -/
def cmdBytes (op part : Nat) (rest : List Byte) : List Byte := padTo 64 (leBytes 2 op ++ leBytes 2 part ++ zeros 12 ++ rest)

def pendingCmd (bs : List Byte) : Cmd := { ch := 0, bytes := bs, begun := false, result := none, draining := false, records := [] }

/-- The state with command 1 accepted. -/
def withCmd (s : State) (bs : List Byte) : State := { s with cmds := [(1, pendingCmd bs)] }

def portIn (l : LinkState) (f : Port → Port) : State := setPort base 0 (f { Port.reset with link := l })

def work0 : Work :=
  { part := 1, lists := [{ place := 0, core := 0, base := 0, listId := 0, commit := none, ended := none, faulted := none }],
    st := .running, turn := none, window := none, peers := [], status := 0, replaced := [] }

def fault0 : FaultRec :=
  { time := 0, tag := 0, list := 0, more := 0, detail := 0, addr := 0, entry := 1, unit := 0, event := false, code := 1 }

/-! ## Well-formedness: an ill-formed command for each check -/

theorem wf_core : (Instr.runLayer 896).wf = false ∧ (Instr.runLayer 895).wf = true := by decide
theorem wf_die : (Instr.pllLock 16).wf = false ∧ (Instr.pllLock 15).wf = true := by decide
theorem wf_stack : (Instr.hbmWriteAck 0 8).wf = false ∧ (Instr.hbmWriteAck 0 7).wf = true := by decide
theorem wf_port : (Instr.flitTransmit 64).wf = false ∧ (Instr.flitTransmit 63).wf = true := by decide
theorem wf_photonic : (Instr.laserInputLoss 4 0).wf = false ∧ (Instr.laserInputLoss 3 2).wf = false := by decide
theorem wf_channel : (Instr.commandAccept 16).wf = false ∧ (Instr.commandAccept 15).wf = true := by decide
theorem wf_fetch : (Instr.listFetchReturn 0 4).wf = false ∧ (Instr.listFetchReturn 0 3).wf = true := by decide
theorem wf_spare : (Instr.spareCopy 0 3 0).wf = false ∧ (Instr.spareCopy 0 1 1024).wf = false ∧ (Instr.spareCopy 0 2 2047).wf = true := by
  decide
theorem wf_frame : (Instr.frameReceive 0 []).wf = false ∧
    (Instr.frameReceive 0 (List.replicate 5 { mark := 0, flit := zeros 255, fecOk := true, corrected := 0 })).wf = false := by
  decide +kernel
theorem wf_vc : (Instr.packetArrival 0 4).wf = false ∧ (Instr.forwardTimeout 0 4).wf = false ∧ (Instr.fenceMarker 0 4).wf = false := by
  decide
theorem wf_light : (Instr.lightDetected 0 512).wf = false ∧ (Instr.laneDegrade 0 8).wf = false ∧ (Instr.laneTest 0 9 true).wf = false := by
  decide
theorem wf_seq : (Instr.identify (2 ^ 64)).wf = false ∧ (Instr.identify (2 ^ 64 - 1)).wf = true := by decide
theorem wf_offset : (Instr.registerWrite (2 ^ 36) 0).wf = false ∧ (Instr.bar2Read (2 ^ 36) 4).wf = false ∧
    (Instr.bar2Write (2 ^ 36) []).wf = false ∧ (Instr.assayStatusWrite (2 ^ 36) 0).wf = false := by decide
theorem wf_domain : (Instr.entryComplete (.core 896)).wf = false ∧ (Instr.entryComplete (.die 16)).wf = false ∧
    (Instr.entryComplete (.photonic 4)).wf = false ∧ (Instr.accessWake .module (.partition 64)).wf = false := by decide
theorem wf_pad : (Instr.padRelease (.hbmPhy 16)).wf = false ∧ (Instr.padRelease (.ucie 0 16)).wf = false := by decide
theorem wf_trip : (Instr.thermTrip 21 0).wf = false ∧ (Instr.thermTrip 20 8).wf = false ∧ (Instr.supplyFault 5).wf = false ∧
    (Instr.phaseFailOpen 21).wf = false := by decide
theorem wf_link : (Instr.linkRetire 24).wf = false ∧ (Instr.faultClassify (.stackFailed 8)).wf = false ∧
    (Instr.faultClassify (.dieFailed 16)).wf = false ∧ (Instr.faultClassify (.checkError 896)).wf = false := by decide
theorem wf_hub : (Instr.hubControlWrite 0 (.retain 896 0)).wf = false ∧ (Instr.hubControlWrite 0 (.vote (.die 16) 0)).wf = false := by
  decide
theorem wf_skim : (Instr.skimRailSet 0 460).wf = false ∧ (Instr.skimRailSet 0 620).wf = false ∧ (Instr.skimRailSet 0 600).wf = true := by
  decide
/-- An ill-formed command stops the step by name. -/
theorem wf_fault : exec (.runLayer 896) base = .fault .noSuchPart := by rfl

/-! ## Witnesses: the queue and the machine -/

theorem wit_StepRunsTheFrontCommand : { base with pending := [.identify 0] }.pending = .identify 0 :: [] := rfl
theorem wit_IdleStepPassesOneTick :
    (base.pending = [] ∧ base.m3 = false ∧ base.acc40 + 32768 < 25000000) ∧
    ({ base with m3 := true }.pending = [] ∧ { base with m3 := true }.m3 = true) ∧
    ({ base with acc40 := 24967232 }.pending = [] ∧ 25000000 ≤ { base with acc40 := 24967232 }.acc40 + 32768) ∧
    base.cores.any (fun e => (turnJob e.2).isSome) = false := by decide +kernel
/-- Core 0 with a move at the die DMA engine whose next row is ready. -/
def turnState : State := onCore0 fun co =>
  { co with dieJobs := [{ jobIn (.waiting { kind := .turn, addr := 0 }) with micros := [.wrOut 0 .put, .wrOut 1 .put] }] }
theorem wit_DieDmaServes :
    serviceOrder (getDie turnState 0).dmaLast 0 = 0 :: ((List.range 55).map (1 + ·)) ∧ ∃ t, serveCore turnState 0 = some t :=
  ⟨by decide +kernel, _, rfl⟩
theorem wit_EveryCommandAnswers : ∃ t, exec (.stampClaim .b 1) base = .next t := ⟨_, rfl⟩
theorem wit_EveryStepKeepsMemoryForm : MemoryOk base ∧ ∃ t, step base = .next t := ⟨by decide +kernel, _, rfl⟩
theorem wit_EveryStepKeepsTheStamp : StampOk base.stamp ∧ ∃ t, step base = .next t := ⟨by decide +kernel, _, rfl⟩
theorem wit_UnitCommandsLeaveTheRest : unitCommand (.fill 0) = true ∧ ∃ t, exec (.fill 0) base = .next t := ⟨rfl, _, rfl⟩

/-! ## Witnesses: memory and forms -/

theorem wit_MemoryWritesReadBack : (zeros 512).length = 512 := by decide +kernel
theorem wit_FillWritesItsPattern :
    { core := 0, unit := .row, idx := 1, eng := .both : Who }.core = 0 ∧ 0 < Config.nCores ∧ 0 < storeRows 2 ∧
    (getPower base (.core 0)).st < 2 ∧ inOpenHoop (getCore base 0) 2 0 = false ∧
    heldByOther (getCore base 0) (storeRow 0 2 0) .row 1 = false ∧ ownMiss base { core := 0, unit := .row, idx := 1, eng := .both } 2 0 = none ∧ isFull base (storeRow 0 2 0) = false := by
  decide +kernel
def slice0 : SliceBits :=
  { a := 1, w := 1, aKind := 0, wKind := 0, cells := [], groups := [], lens := [], aBits := fun _ _ _ => 3, wBits := fun _ _ => 1 }
theorem wit_PassesSumToTheDotProduct : slice0.aKind ≠ 2 ∧
    ({ slice0 with aKind := 2 }.aKind = 2 ∧ { slice0 with aKind := 2 }.a = 1 ∧ { slice0 with aKind := 2 }.w = 1) ∧
    ((passOrder 2 2).reverse).Perm (passOrder 2 2) := by decide +kernel
def ledger0 : LedgerEntry := { seq := 1, tag := 2, opcode := 255, st := 255, status := 255, part := 255, turn := 3, epoch := 4 }
theorem wit_LedgerEntryReadsBack : ledger0.opcode < 256 ∧ ledger0.st < 256 ∧ ledger0.status < 256 ∧ ledger0.part < 256 := by decide
def packet0 : Packet :=
  { hops := 15, score := 1023, seng := 3, mtag := 4095, value := 65535, op := 15, dest := 65535, src := 65535, core := 1023, hoop := 15,
    row := 2047, rows := [], via := 63 }
theorem wit_PacketHeaderReadsBack : packet0.hops < 16 ∧ packet0.score < 1024 ∧ packet0.seng < 4 ∧ packet0.mtag < 4096 ∧
    packet0.value < 65536 ∧ packet0.op < 16 ∧ packet0.dest < 65536 ∧ packet0.src < 65536 ∧ packet0.core < 1024 ∧ packet0.hoop < 16 ∧
    packet0.row < 2048 := by decide
theorem wit_ResultIsFixedOnce :
    tget? (withCmd base (cmdBytes 1 0 [])).cmds 1 = some (pendingCmd (cmdBytes 1 0 [])) ∧
    (pendingCmd (cmdBytes 1 0 [])).result = none ∧ (2 : Nat) ≠ 1 ∧ base.legacy = false ∧
    tget? { base with ledger := { base.ledger with entries := [(1, ledger0)] } }.ledger.entries 1 = some ledger0 := by decide +kernel

/-! ## Witnesses: the sequencer -/

/-- A start request for a list in row 0 of the P-store with header `h`. -/
def startState (h : Nat) : State :=
  let s := onCore0 fun co => { co with startReq := some (freshStart (pRow 0) 1) }
  { wrBytes s (512 * storeRow 0 2 0) (leBytes 16 h) with full := [storeRow 0 2 0] }
def headerOf (s : State) : List Nat :=
  match fetchRow s 0 (pRow 0 / 512) with
  | .ok _ data => headerBad (numAt data (pRow 0 % 512) 16)
  | _ => [999]
def goodHeader : Nat := 3 + (1000 <<< 16) + (1 <<< 36)
theorem wit_ListsStart :
    (getPower (startState goodHeader) (.core 0)).st < 2 ∧ (getPower (startState goodHeader) (.core 0)).entry = none ∧
    (getCore (startState goodHeader) 0).startReq = some (freshStart (pRow 0) 1) ∧
    baseOk (getCore (startState goodHeader) 0) (pRow 0) = true ∧ headerOf (startState goodHeader) = [] ∧
    minPos (headerOf (startState 0)) = some 0 := by decide +kernel
def listState : State :=
  let s := onCore0 fun co => { co with seq := { co.seq with running := true, base := pRow 0, listLen := 127, pos := 1 } }
  { s with full := [storeRow 0 2 3] }
def isFetched (s : State) (row : Nat) : Bool := match fetchRow s 0 row with
  | .ok _ _ => true
  | _ => false
theorem wit_ListRowsArrive :
    (getCore listState 0).seq.running = true ∧ (getCore listState 0).seq.stopped = false ∧
    ((getCore listState 0).seq.base + 16 * (getCore listState 0).seq.pos) / 512 + 3 = pRow 3 / 512 ∧
    ((getCore listState 0).seq.fetch.any fun e => e.1 == pRow 3 / 512) = false ∧
    pRow 3 / 512 ≤ ((getCore listState 0).seq.base + 16 * (getCore listState 0).seq.listLen) / 512 ∧
    isFetched listState (pRow 3 / 512) = true := by decide +kernel
def eLayer : Nat := entry 1 (pRow 0)
def eFill (mode : Nat) : Nat := entry 3 (pRow 2047 + (1 <<< 48) + (mode <<< 92))
def eCopy : Nat := entry 4 (pRow 0 + (pRow 2047 <<< 48) + (1 <<< 96))
def eVec (vop : Nat) : Nat := entry 13 (pRow 0 + (vop <<< 48))
def eFsu : Nat := entry 14 (pRow 0)
def eHist (cmd : Nat) : Nat := entry 10 (cmd <<< 2)
theorem wit_UnitEntriesIssue :
    Ready (atEntry eLayer) 0 1 eLayer ∧
    (∀ m ∈ [0, 1, 2], Ready (atEntry (eFill m)) 0 3 (eFill m) ∧ fld (eFill m) 92 2 = m) ∧
    Ready (atEntry eCopy) 0 4 eCopy ∧
    (∀ v ∈ [0, 1, 2, 3, 4], Ready (atEntry (eVec v)) 0 13 (eVec v) ∧ fld (eVec v) 48 3 = v) ∧
    Ready (atEntry eFsu) 0 14 eFsu ∧
    (∀ c ∈ [2, 3], Ready (atEntry (eHist c)) 0 10 (eHist c) ∧ fld (eHist c) 2 2 = c) ∧
    (getCore (atEntry eLayer) 0).press.length < 2 := by decide +kernel

/-- A move whose descriptors stand in row 0 of the P-store, both of them with bases in the core's own stores. -/
def eMove (fn die : Nat) : Nat := entry 2 (pRow 0 + ((pRow 0 + 64) <<< 48) + (fn <<< 96) + (die <<< 100))
def moveState (fn die : Nat) : State :=
  wrBytes (atEntry (eMove fn die)) (512 * storeRow 0 2 0) (leBytes 64 (pRow 1) ++ leBytes 64 (pRow 2))
def moveReads (fn die : Nat) : Option (Option Engines) :=
  match readBlock (moveState fn die) (seqWho 0) (pRow 0) 64 with
  | .ok s1 src => match readBlock s1 (seqWho 0) (pRow 0 + 64) 64 with
    | .ok s2 dst => some (enginesOf (getCore s2 0) (leNat src) (leNat dst))
    | .fault _ _ => none
    | .wait _ => none
  | .fault _ _ => none
  | .wait _ => none
theorem wit_MovesIssue :
    (∀ f ∈ [0, 1, 2, 3, 4, 5, 6], Ready (moveState f 0) 0 2 (eMove f 0) ∧ Ready (moveState f 1) 0 2 (eMove f 1) ∧
      fld (eMove f 0) 96 4 = f ∧ bitAt (eMove f 0) 100 = false ∧ bitAt (eMove f 1) 100 = true) ∧
    moveReads 0 0 = some (some .both) ∧ moveReads 0 1 = some (some .both) ∧ engineRoom (getCore (moveState 0 0) 0) .both := by
  decide +kernel
theorem wit_UnitOperationsComplete :
    (unitJobs (getCore (onCore0 fun co => { co with rowJobs := [jobIn .done] }) 0) .row = jobIn .done :: []) ∧
    (unitJobs (getCore (onCore0 fun co => { co with vecJobs := [jobIn .done] }) 0) .vector = jobIn .done :: []) ∧
    (unitJobs (getCore (onCore0 fun co => { co with fsuJobs := [jobIn .done] }) 0) .fsu = jobIn .done :: []) ∧
    ((getCore (onCore0 fun co => { co with press := [jobIn .done] }) 0).press = jobIn .done :: []) ∧
    (findJob (getCore (onCore0 fun co => { co with cdma := [jobIn .done] }) 0) .cdma 1 = some (jobIn .done) ∧
      moveDone (getCore (onCore0 fun co => { co with cdma := [jobIn .done] }) 0) .cdma (jobIn .done) = true) ∧
    (findJob (getCore (onCore0 fun co => { co with dieJobs := [jobIn .done] }) 0) .cdma 1 = none ∧ (jobIn .done).idx = 1 ∧
      moveDone (getCore (onCore0 fun co => { co with dieJobs := [jobIn .done] }) 0) .dieDma (jobIn .done) = true) ∧
    nextDieMove (getCore (onCore0 fun co => { co with dieJobs := [jobIn .queued] }) 0).dieJobs = some (jobIn .queued) ∧
    (jobIn .done).st = .done ∧ 7 < Config.nStacks := by decide +kernel
def eTag (full : Nat) : Nat := entry 6 (pRow 2047 + (full <<< 48))
theorem wit_WaitsBlockAndEnd :
    Ready (atEntry (entry 5 0)) 0 5 (entry 5 0) ∧ Ready (atEntry (eTag 1)) 0 6 (eTag 1) ∧
    Blocks (blockedAt (entry 5 0) 0) 0 5 { idx := 1, entry := entry 5 0, stage := 0 } ∧
    ((tget (getCore (blockedAt (entry 5 0) 0) 0).hoops 0 Hoop.reset).counter - BitVec.ofNat 32 0).toNat < 2 ^ 31 ∧
    Blocks (blockedAt (eTag 0) 0) 0 6 { idx := 1, entry := eTag 0, stage := 0 } ∧
    ownScratch (getCore (blockedAt (eTag 0) 0) 0) (fld (eTag 0) 0 48) = some (2, 2047) ∧
    isFull (blockedAt (eTag 0) 0) (storeRow 0 2 2047) = bitAt (eTag 0) 48 := by decide +kernel
def eLoop (op : Nat) : Nat := entry 12 (35 + (op <<< 9) + (7 <<< 11))
theorem wit_RegisterEntries :
    (Ready (atEntry (eHist 0)) 0 10 (eHist 0) ∧ fld (eHist 0) 2 2 = 0) ∧ (Ready (atEntry (eHist 1)) 0 10 (eHist 1) ∧ fld (eHist 1) 2 2 = 1) ∧
    (Ready (atEntry (eLoop 2)) 0 12 (eLoop 2) ∧ fld (eLoop 2) 9 2 = 2) := by decide +kernel
def eSignal (remote : Nat) (addr : Nat) : Nat := entry 7 (addr + (remote <<< 64) + (65535 <<< 65))
def signalState (e : Nat) : State := onCore0 fun co => { co with signals := [{ idx := 1, entry := e, sent := false }] }
theorem wit_SignalsAreSent :
    (Ready (atEntry (eSignal 0 0xC00000000000)) 0 7 (eSignal 0 0xC00000000000) ∧
      (getCore (atEntry (eSignal 0 0xC00000000000)) 0).signals.length < 4) ∧
    (((getCore (signalState (eSignal 0 (hoopAddr 0 15 0))) 0).signals.find? fun g => !g.sent) =
        some { idx := 1, entry := eSignal 0 (hoopAddr 0 15 0), sent := false } ∧
      signalFree (getCore (signalState (eSignal 0 (hoopAddr 0 15 0))) 0) 1 = true) := by decide +kernel
/-- The destinations: the own core, another module, a core that the partition does not have, reserved bits, and a translation that
is missing. -/
def hoopCached (core : Nat) : State := onCore0 fun co => { co with ctu := [(ctuKey (hoopAddr core 0 0), 0)] }
theorem wit_SignalDestinations :
    hoopDest (hoopCached 0) 0 none 0 0 0 = .here 0 ∧ hoopDest (hoopCached 895) 0 none 895 0 0 = .bad ∧
    hoopDest base 0 none 896 0 0 = .bad ∧ hoopDest (hoopCached 0) 0 none 0 0 1 = .bad ∧
    hoopDest base 0 none 895 0 0 = .miss (ctuKey (hoopAddr 895 0 0)) ∧ hoopDest base 0 (some 65535) 0 0 0 = .module 65535 ∧
    hoopDest (hoopCached 0) 0 (some 1) 0 0 0 = .here 0 := by decide +kernel
def eOpen (rows kind : Nat) : Nat := entry 8 (15 + (2 <<< 4) + ((2048 - rows) <<< 6) + (rows <<< 17) + (kind <<< 29) + (1 <<< 47))
def hoopState (f : Core → Core) : State := onCore0 fun co =>
  f { co with hoops := [(15, { Hoop.reset with isOpen := true, store := 2, base := 0, rows := 2048, ops := 7 })] }
theorem wit_HoopsOpenAndClose :
    Ready (atEntry (eOpen 2048 0)) 0 8 (eOpen 2048 0) ∧
    (Blocks (blockedAt (eOpen 1 1) 0) 0 8 { idx := 1, entry := eOpen 1 1, stage := 0 } ∧
      rangeHeld 0 (getCore (blockedAt (eOpen 1 1) 0) 0) (fld (eOpen 1 1) 4 2) (fld (eOpen 1 1) 6 11) (fld (eOpen 1 1) 17 12) = false) ∧
    Ready (hoopState fun co => { co with seq := (getCore (atEntry (entry 9 15)) 0).seq }) 0 9 (entry 9 15) ∧
    (Blocks (blockedAt (entry 9 15) 0) 0 9 { idx := 1, entry := entry 9 15, stage := 0 } ∧
      hoopBusy (getCore (blockedAt (entry 9 15) 0) 0) (fun h => h == fld (entry 9 15) 0 4) = false) := by decide +kernel
theorem wit_Branches :
    (Ready (atEntry (entry 12 15)) 0 12 (entry 12 15) ∧ fld (entry 12 15) 9 2 = 0 ∧ counterReady (getCore (atEntry (entry 12 15)) 0) 15 = true) ∧
    (Ready (atEntry (eLoop 1)) 0 12 (eLoop 1) ∧ fld (eLoop 1) 9 2 = 1) := by decide +kernel
/-- Positions at both ends of a list of 8 entries, and branch targets at and beyond them. -/
theorem wit_LeavingTheList :
    (getCore (atEntry 0) 0).seq.stopped = false ∧ (getCore (atEntry 0) 0).seq.pos < (getCore (atEntry 0) 0).seq.listLen ∧
    (let s := onCore0 fun co => { co with seq := { co.seq with running := true, listLen := 8, pos := 8 } }
     (getCore s 0).seq.listLen ≤ (getCore s 0).seq.pos) ∧
    ((getCore (atEntry 0) 0).seq.pos : Int) + signed 24 (fld (entry 12 (7 <<< 43)) 43 24) = 8 ∧
    ((getCore (atEntry 0) 0).seq.pos : Int) + signed 24 (fld (entry 12 (8 <<< 43)) 43 24) = 9 ∧
    ((getCore (atEntry 0) 0).seq.pos : Int) + signed 24 (fld (entry 12 ((2 ^ 24 - 1) <<< 43)) 43 24) = 0 := by decide +kernel
theorem wit_TurnsCommit :
    (Ready (atEntry (entry 11 0)) 0 11 (entry 11 0) ∧ (getCore (atEntry (entry 11 0)) 0).seq.issued = [] ∧
      (getCore (atEntry (entry 11 0)) 0).hoops.any (fun h => h.2.isOpen) = false) ∧
    (let s := hoopState fun co => { co with seq := (getCore (atEntry (entry 11 0)) 0).seq }
     Ready s 0 11 (entry 11 0) ∧ (getCore s 0).seq.issued = [] ∧ (getCore s 0).hoops.any (fun h => h.2.isOpen) = true) ∧
    (let s := modCore (blockedAt (entry 11 0) 1) 0 fun co => { co with ctu := [(ctuKey 0, 0)] }
     Blocks s 0 11 { idx := 1, entry := entry 11 0, stage := 1 } ∧ (getCore s 0).unacked = [] ∧
     translate s 0 (fld (entry 11 0) 0 48 + 64 * ((getCore s 0).seq.turn + 1).toNat % 2) true = .ok 0 ∧ asleep s 0 = false) ∧
    (Blocks (blockedAt (entry 11 0) 2) 0 11 { idx := 1, entry := entry 11 0, stage := 2 } ∧
      workOf (blockedAt (entry 11 0) 2) 0 = none) ∧
    (let s := { blockedAt (entry 11 0) 2 with works := [(0, work0)] }
     Blocks s 0 11 { idx := 1, entry := entry 11 0, stage := 2 } ∧ workOf s 0 = some (0, work0) ∧ (getCore s 0).seq.workSeq = 0) := by
  decide +kernel
theorem wit_ListsEnd :
    (Ready (atEntry 0) 0 0 0 ∧ (getCore (atEntry 0) 0).seq.issued = [] ∧ blocked (getCore (atEntry 0) 0) 0 = none) ∧
    (Blocks (blockedAt 0 0) 0 0 { idx := 1, entry := 0, stage := 0 } ∧ hoopBusy (getCore (blockedAt 0 0) 0) (fun _ => true) = false) := by
  decide +kernel
def waiting (k : WaitKind) : Job := jobIn (.waiting { kind := k, addr := 0 })
def rowWaits (k : WaitKind) : State := onCore0 fun co => { co with rowJobs := [waiting k] }
theorem wit_WaitingOperationsGoOn :
    (waitingJobs (getCore (rowWaits .tag) 0) .row = [waiting .tag] ∧ findJob (getCore (rowWaits .tag) 0) .row 1 = some (waiting .tag) ∧
      grantable .tag = true) ∧
    (CoreUnit.row ≠ .sequencer ∧ CoreUnit.row ≠ .signal ∧ awaited (rowWaits .translation) 0 .row = some (waiting .translation, 0)) ∧
    missingKey (atEntry (entry 2 0)) 0 (seqAddrs (getCore (atEntry (entry 2 0)) 0)) = some 0 ∧
    (((getCore (signalState (eSignal 0 (hoopAddr 5 0 0))) 0).signals.find? fun g => !g.sent) =
        some { idx := 1, entry := eSignal 0 (hoopAddr 5 0 0), sent := false } ∧
      hoopDest (signalState 0) 0 (if bitAt (eSignal 0 (hoopAddr 5 0 0)) 64 then some 0 else none) 5 0 0 =
        .miss (ctuKey (hoopAddr 5 0 0))) ∧
    ((unitJobs (getCore (onCore0 fun co => { co with cdma := [{ jobIn .queued with remote := .notReady }] }) 0) .cdma).find?
      fun j => j.remote == .notReady) = some { jobIn .queued with remote := .notReady } ∧ CoreUnit.cdma ≠ .dieDma := by decide +kernel
/-- The waits that a watchdog ends: the sequencer's, which is no operation, and an operation's for the slot of a full row. -/
def fillWaits : State := { (onCore0 fun co => { co with rowJobs := [{ waiting .tag with entry := eFill 0, micros := [.fillRow 2 0 .put 0] }] })
  with full := [storeRow 0 2 0] }
theorem wit_WatchdogsExpire :
    (let s := blockedAt (entry 5 (5 <<< 4)) 0
     (unitWait s 0 .sequencer).bind (fun x => timeoutCode x.2.2.kind) = some 2 ∧ findJob (getCore s 0) .sequencer 1 = none) ∧
    (unitWait fillWaits 0 .row).map (fun x => (x.1, timeoutCode x.2.2.kind)) = some (1, some 0) ∧
    (findJob (getCore fillWaits 0) .row 1).isSome = true ∧ unitWait (blockedAt (entry 5 1) 0) 0 .sequencer = none := by decide +kernel
theorem wit_SkimRailsSwitch :
    railJob (getCore (onCore0 fun co => { co with press := [waiting .railDown] }) 0) .railDown = some (waiting .railDown) ∧
    railJob (getCore (onCore0 fun co => { co with press := [waiting .railBack] }) 0) .railBack = some (waiting .railBack) ∧
    15 < Config.nDies ∧ 480 ≤ 600 ∧ 600 % 20 = 0 ∧ 480 % 20 = 0 := by decide +kernel
theorem wit_FaultsStopTheCore :
    (getCore base 0).seq.stopped = false ∧
    (getCore (onCore0 fun co => { co with seq := { co.seq with stopped := true } }) 0).seq.stopped = true := by decide +kernel

/-! ## Witnesses: hoops, the reducer, service of stored words -/

def arrival (k : ArrKind) : Arrival := { kind := k, hoop := 15, row := 2047, data := zeros 512, source := .core 0, sender := .local 0 .cdma 1 }
/-- Core 0 with hoop 15 open over all 2,048 rows of the P-store for itself, and an arrival at its end. -/
def arriving (k : ArrKind) (f : Hoop → Hoop) : State := onCore0 fun co =>
  { co with inbound := [arrival k],
            hoops := [(15, f { Hoop.reset with isOpen := true, store := 2, rows := 2048, ops := 7, srcCore := some 0 })] }
def fullRow (s : State) (row : Nat) : State := { s with full := [row] }
theorem wit_HoopArrivals :
    (Accepted (arriving .write id) 0 0 (arrival .write) ∧ heldAny (getCore (arriving .write id) 0) (storeRow 0 2 2047) = false ∧
      isFull (arriving .write id) (storeRow 0 2 2047) = false) ∧
    (Accepted (fullRow (arriving .write fun h => { h with wrOver := true }) (storeRow 0 2 2047)) 0 0 (arrival .write)) ∧
    (Accepted (fullRow (arriving .write id) (storeRow 0 2 2047)) 0 0 (arrival .write) ∧
      isFull (fullRow (arriving .write id) (storeRow 0 2 2047)) (storeRow 0 2 2047) = true) ∧
    (Accepted (arriving .addF32 id) 0 0 (arrival .addF32) ∧ Accepted (arriving .addI32 id) 0 0 (arrival .addI32) ∧
      queueRoom (getCore (arriving .addF32 id) 0) 2047 = true) ∧
    Accepted (arriving (.signal 65535) id) 0 0 (arrival (.signal 65535)) ∧
    (Accepted (fullRow (arriving .read id) (storeRow 0 2 2047)) 0 0 (arrival .read) ∧
      readVerdict (fullRow (arriving .read id) (storeRow 0 2 2047)) (storeRow 0 2 2047) 255 = none) ∧
    (Accepted (arriving .read id) 0 0 (arrival .read) ∧ isFull (arriving .read id) (storeRow 0 2 2047) = false) := by decide +kernel
theorem wit_RefusedArrivals :
    (nextArrival (getCore (arriving .write fun h => { h with isOpen := false }) 0) 0 = some (arrival .write) ∧
      hoopCheck (getCore (arriving .write fun h => { h with isOpen := false }) 0) 15 (.core 0) .write 2047 1 = .closed) ∧
    (∀ k ∈ [ArrKind.write, .addF32, .addI32, .read], hoopCheck (getCore (arriving k fun h => { h with rows := 2047 }) 0) 15 (.core 0) k 2047 1 ≠ .ok) ∧
    hoopCheck (getCore (arriving (.signal 1) fun h => { h with srcCore := some 1 }) 0) 15 (.core 0) (.signal 1) 2047 1 ≠ .ok := by
  decide +kernel
/-- Arrivals that wait or are refused: a row that is held, a full queue, a word that is bad, and each verdict of the hoop. -/
def heldRow (s : State) (row : Nat) : State := modCore s 0 fun co => addHold co row .row 7
def queuedAdd : CqEntry := { row := 2047, data := zeros 512, isInt := false, owner := .arrival 15 (.local 0 .cdma 1) }
theorem wit_ArrivalsWait :
    (Accepted (heldRow (arriving .write id) (storeRow 0 2 2047)) 0 0 (arrival .write) ∧
      heldAny (getCore (heldRow (arriving .write id) (storeRow 0 2 2047)) 0) (storeRow 0 2 2047) = true) ∧
    (let s := modCore (arriving .addI32 id) 0 fun co => { co with cq := List.replicate 8 queuedAdd }
     Accepted s 0 0 (arrival .addI32) ∧ queueRoom (getCore s 0) 2047 = false) ∧
    (let s := { fullRow (arriving .read id) (storeRow 0 2 2047) with poison := [8 * storeRow 0 2 2047 + 7] }
     Accepted s 0 0 (arrival .read) ∧ (readVerdict s (storeRow 0 2 2047) 255).isSome = true) ∧
    (let s := heldRow (fullRow (arriving .read id) (storeRow 0 2 2047)) (storeRow 0 2 2047)
     Accepted s 0 0 (arrival .read) ∧ heldAny (getCore s 0) (storeRow 0 2 2047) = true) := by decide +kernel
theorem wit_RefusedReads :
    (checkCode (hoopCheck (getCore (arriving .read fun h => { h with rows := 2047 }) 0) 15 (.core 0) .read 2047 1) = some 0x06 ∧
      nextArrival (getCore (arriving .read fun h => { h with rows := 2047 }) 0) 0 = some (arrival .read)) ∧
    (hoopCheck (getCore (arriving .read fun h => { h with fenced := true }) 0) 15 (.core 0) .read 2047 1 = .refused none ∧
      checkCode (.refused none) = none) := by decide +kernel
def redAux : Nat := 1
def contribution : Contribution :=
  { core := 0, part := 1, idx := 1, aux := redAux, desc := 0, dest := .addr 0, k := 0, data := zeros 512, mask := 2 ^ 512 - 1,
    dieResult := none }
def reducing : State := setDie base 15 { getDie base 15 with transit := [contribution] }
theorem wit_ConflictEntriesAndContributions :
    (let s := fullRow (onCore0 fun co => { co with cq := [queuedAdd] }) (storeRow 0 2 2047)
     retireIndex s 0 (getCore s 0) = some 0 ∧ (getCore s 0).cq[0]? = some queuedAdd) ∧
    ((getDie reducing 15).transit[0]? = some contribution ∧ (reducing.dies.map fun e => reducerRoom reducing e.1 1) = [.commonPart] ∧
      ((getDie reducing 15).sets.find? (isSet 1 redAux false)).isNone = true) := by decide +kernel
/-- The owners of a conflict entry, and a contribution that differs from the set that its move opened. -/
def retiring (o : CqOwner) : State :=
  fullRow (onCore0 fun co => { co with cq := [{ queuedAdd with owner := o }] }) (storeRow 0 2 2047)
theorem wit_EntriesRetire :
    ∀ o ∈ [CqOwner.arrival 15 (.local 0 .cdma 1), .press 1, .scatter 1],
      readVerdict (retiring o) (storeRow 0 2 2047) 255 = none ∧ inOpenHoop (getCore (retiring o) 0) 2 2047 = false ∧
      (addRows false (rdBytes (retiring o) (storeRow 0 2 2047 * 512) 512) (zeros 512)).2 = false := by decide +kernel
theorem wit_ContributionsDiffer :
    let s := setDie (onCore0 fun co => { co with
      cdma := [jobIn .done], seq := { co.seq with issued := [{ idx := 1, kind := 2, toHoop := false, mtag := 0 }] } }) 15 {
        getDie base 15 with
        transit := [{ contribution with aux := redAux + (1 <<< 8) }],
        sets := [{ part := 1, aux := redAux, second := false, desc := 0, rows := [] }] }
    (((getDie s 15).sets.find? (isSet 1 (redAux + (1 <<< 8)) false)).bind fun x =>
      redDiffers false (redAux + (1 <<< 8)) 0 x.aux x.desc) = some 417 ∧ isIssued (getCore s 0) 1 = true ∧
    findJob (getCore s 0) .cdma 1 = some (jobIn .done) := by decide +kernel
/-- A word of row 2,047 of the P-store of core 0, and of the first page of stack 7. -/
def storeWord : Nat := 8 * storeRow 0 2 2047
def stackWord : Nat := 7 * 0x1000000000 / 64
theorem wit_StoredWordsAreServed :
    ((getPower base (.core 0)).st < 2 ∧ base.scrubNext.find? (rowOfCore 0) = none ∧
      { base with scrubNext := [storeRow 0 2 2047] }.scrubNext.find? (rowOfCore 0) = some (storeRow 0 2 2047)) ∧
    (mustSpare { base with ceHistory := [(storeRow 0 2 2047, 0, true)] } (storeRow 0 2 2047) = true ∧
      mustSpare { base with ceHistory := [(storeRow 0 0 0, 0, false), (storeRow 0 0 0, 0, false)] } (storeRow 0 0 0) = true ∧
      (tget base.spares (bankKey 0 2 2047) []).length < 4 ∧
      4 ≤ (tget { base with spares := [(bankKey 0 2 2047, [(0, false), (16, false), (32, true), (48, false)])] }.spares (bankKey 0 2 2047) []).length) ∧
    (7 < Config.nStacks ∧ base.errOne.filter (wordOfStack 7) = [] ∧ wordOfStack 7 stackWord = true) ∧
    (placeOf 0x3FFFFFFF = .hbm ∧ mustRepair { base with poison := [8 * 0x3FFFFFFF] } (2 * 0x3FFFFFFF) = true ∧
      mustRepair { base with poison := [8 * 0x3FFFFFFF] } (2 * 0x3FFFFFFF + 1) = false) ∧
    (getStack (setStack base 7 { getStack base 7 with zeroQueue := [0] }) 7).zeroQueue = 0 :: [] := by decide +kernel
theorem wit_PatrolScrubClearsItsStack : wordOfStack 7 stackWord = true ∧
    ∃ t, exec (.hbmPatrolScrub 7 []) { base with errOne := [stackWord], errMany := [stackWord + 1] } = .next t :=
  ⟨by decide +kernel, _, rfl⟩

/-! ## Witnesses: links -/

theorem wit_PortsExchangeFlits :
    PortIs (portIn .up id) 0 .up ∧
    (let s := portIn .up fun p => { p with encOn := true, txOpen := [{ isTag := false, vc := 0, seq := 0, body := [] }] }
     PortIs s 0 .up ∧ (getPort s 0).encOn = true ∧ (getPort s 0).txOpen ≠ [] ∧ (getPort s 0).resend = none ∧
     (getPort s 0).replay.length < 2048) ∧
    (4095 ≠ (getPort (portIn .up id) 0).rxSeq) ∧ (0 = (getPort (portIn .up id) 0).rxSeq ∧ (getPort (portIn .up id) 0).encOn = false) := by
  decide +kernel
def sender (f : Port → Port) : Port := f Port.reset
def flit0 : SentFlit := { isTag := false, vc := 0, seq := 0, body := [] }
/-- The corners of sending: a record counter and a count of resends at and beside their limits, and each case of what is sent. -/
theorem wit_SendersCorners :
    (∀ n ∈ [2 ^ 33 - 1, 2 ^ 33], (getPort (portIn .up fun p => { p with encOn := true, txRecord := n }) 0).txRecord = n) ∧
    (∀ n ∈ [16, 17], (getPort (portIn .up fun p => { p with resends := n }) 0).resends = n) ∧
    ((sender fun p => { p with resend := some 0 }).resend = some 0 ∧ Port.reset.resend = none ∧ Port.reset.replay.length < 2048 ∧
      2048 ≤ (sender fun p => { p with replay := List.replicate 2048 flit0 }).replay.length) ∧
    (128 ≤ (sender fun p => { p with txOpen := List.replicate 128 flit0 }).txOpen.length ∧ Port.reset.encOn = false) ∧
    pickVc (modVc Port.reset 1 fun v => { v with credits := 64, txPart := zeros 240 }) = some 1 ∧ (4095 : Nat) ≠ Port.reset.rxSeq := by
  decide +kernel
/-- A packet for module 2 out of port 63 after one hop. -/
def outPacket : OutPacket := { packet := { packet0 with op := 0, dest := 2, src := 1 }, unit := .cdma, idx := 1, closed := true }
def rt63 : Word := BitVec.ofNat 32 (2 ^ 31 + 63 * 2 ^ 21 + 127 * 2 ^ 14 + 63 * 2 ^ 7 + 1)
def sending (rt : Word) : State :=
  let s := setPort base 63 { Port.reset with link := .up, part := 1 }
  let s := setDie s 0 { getDie s 0 with routeCache := [(2, rt)] }
  { modCore s 0 (fun co => { co with outPackets := [outPacket] }) with routes := [(2, rt)] }
def track0 : RxTrack := { packet := { packet0 with op := 0, src := 2 }, port := 63, left := 0, applied := 1, code := none, answer := none }
theorem wit_PacketsAreSent :
    (waitingPacket (getCore (sending rt63) 0) .cdma = some outPacket ∧ routeCached (sending rt63) (dieOf 0) 2 = true ∧
      rtValid (routeEntry (sending rt63) 2) = true ∧
      pickPort (sending rt63) (routeEntry (sending rt63) 2) (fun p => p.part == (getCore (sending rt63) 0).part) = some 63) ∧
    (waitingPacket (getCore (sending 0) 0) .cdma = some outPacket ∧ routeCached (sending 0) (dieOf 0) 2 = true ∧
      rtValid (routeEntry (sending 0) 2) = false) ∧
    (let s := setDie (sending rt63) 0 { getDie (sending rt63) 0 with routeCache := [] }
     s.cores.any (fun e => dieOf e.1 == 0 && e.2.outPackets.any fun o => o.closed && o.packet.dest == 2) = true ∧
     routeCached s 0 2 = false) ∧
    (tget? { base with rxTracks := [(0, track0)] }.rxTracks 0 = some track0 ∧ track0.left = 0) ∧
    ({ base with forwards := [(63, outPacket.packet)] }.forwards.find? fun e => e.1 == 63 && channelOf e.2.op == 0) =
      some (63, outPacket.packet) := by decide +kernel
/-- Port 63 with a packet whole in the receive buffer of a channel. -/
def received (vc : Nat) (p : Packet) : State :=
  setPort base 63 (modVc { Port.reset with link := .up } vc fun v => { v with rx := [leBytes 16 (packetHeader p) ++ zeros 464, zeros 480, zeros 240] })
def gotPacket (vc : Nat) (p : Packet) : Option Nat :=
  (takePacket (vcOf (getPort (received vc p) 63) vc).rx).map fun x => x.1
def ask (op dest : Nat) : Packet := { packet0 with hops := 1, op := op, dest := dest, src := 2, score := 0, seng := 0, mtag := 0, value := 1 }
def answering (op : Nat) : State :=
  modCore (received 1 (ask op 1)) 0 fun co =>
    { co with seq := { co.seq with running := true, issued := [{ idx := 0, kind := 2, toHoop := true, mtag := 0 }] } }
theorem wit_PacketsArrive :
    (channelBusy (received 0 (ask 11 1)) 63 0 = false ∧ (gotPacket 0 (ask 11 1)).map headerRefused = some true) ∧
    (∀ d ∈ [1, 2], channelBusy (received 0 (ask 4 d)) 63 0 = false ∧ (getPort (received 0 (ask 4 d)) 63).fencing = false ∧
      (received 0 (ask 4 d)).moduleId = some 1 ∧ (gotPacket 0 (ask 4 d)).map headerRefused = some false ∧
      (gotPacket 0 (ask 4 d)).map (fun h => (fld h 44 16, fld h 60 4)) = some (d, 4)) ∧
    (let p := { ask 10 1 with rows := [[], []] }
     (gotPacket 3 p).map headerRefused = some false ∧ (gotPacket 3 p).map (fun h => fld h 60 4) = some opManagement ∧ ownId base = 1) := by decide +kernel
theorem wit_ResponsesArrive :
    ∀ op ∈ [opApplied, opRefused, opUnreachable, opData, opNotReady],
      (nextResponse (answering op) 63 op).map (fun x => (x.1.score, responseIssue (getCore x.2 0) x.1)) = some (0, some 0) := by
  decide +kernel
def peer0 (serial : Dword) : PeerInfo := { serial := serial, moduleId := 2, port := 63, buffers := [], requests := false }
theorem wit_PortsFollowTheirStates :
    PortIs (portIn .dark id) 0 .dark ∧ PortIs (portIn .training id) 0 .training ∧ PortIs (portIn .up id) 0 .up ∧
    PortIs (portIn .hold id) 0 .hold ∧ PortIs (portIn .down id) 0 .down ∧ (getPort (portIn .down id) 0).laneDown = false ∧
    (peer0 1).serial ≠ base.fuses.serial ∧ (peer0 0).serial = base.fuses.serial := by decide +kernel
theorem wit_LanesAndRoles :
    (PortIs (portIn .up id) 0 .up ∧ (getPort (portIn .up id) 0).failedWl = 0xF ∧ (getPort (portIn .up id) 0).moving = none) ∧
    (PortIs (portIn .up fun p => { p with failedWl := 0 }) 0 .up ∧ (getPort (portIn .up fun p => { p with failedWl := 0 }) 0).failedWl ≠ 0xF) ∧
    (getPort (portIn .up fun p => { p with moving := some 7 }) 0).moving = some 7 ∧
    (getPort (portIn .down fun p => { p with laneDown := true, laneFailed := [8] }) 0).laneFailed.all
      (fun x => x ∈ insNat (getPort (portIn .down fun p => { p with laneDown := true, laneFailed := [8] }) 0).lanePassed 8) = true ∧
    (getPort base 63).laneDown = false ∧
    ((getPort (portIn .up fun p => { p with leader := true }) 0).leader = true ∧ (getPort (portIn .up id) 0).leader = false ∧
      (getPort (portIn .up id) 0).requestPending = false ∧ (getPort (portIn .up id) 0).policy ≠ 2) ∧
    (getPort (portIn .up fun p => { p with changeover := some true }) 0).changeover = some true := by decide +kernel
theorem wit_FencedPortsDiscard :
    (let s := setPort (received 0 (ask 4 1)) 63 { getPort (received 0 (ask 4 1)) 63 with fencing := true }
     channelBusy s 63 0 = false ∧ (getPort s 63).fencing = true) ∧ (4 : Nat) ≠ opManagement ∧
    (∀ l ∈ [LinkState.up, .hold, .training], (getPort (portIn l fun p => { p with fencing := true }) 0).link = l ∧
      (getPort (portIn l fun p => { p with fencing := true }) 0).fencing = true) := by decide +kernel
theorem wit_RolesAreAnswered :
    PortIs (portIn .up fun p => { p with requestPending := true }) 0 .up ∧
    (getPort (portIn .up fun p => { p with requestPending := true }) 0).changeover = none ∧
    (getPort (portIn .up fun p => { p with requestPending := true }) 0).requestPending = true := by decide +kernel
/-- `laser_service` of photonic die 3: input 0, action 0 or 1. -/
def laserCmd (act : Byte) : List Byte := cmdBytes 0x44 0 [3, 0, act]
def laserState (act : Byte) (svc : Option Bool) : State :=
  withCmd (setPd base 3 { getPd base 3 with service := svc, lsA := { present := true, full := false, failed := false },
                                            lsB := { present := true, full := false, failed := false } }) (laserCmd act)
theorem wit_FencesAndLasers :
    ((getPort (portIn .up fun p => { p with fencing := true }) 0).fencing = true) ∧
    (3 < Config.nPhotonic ∧ laserOk (getPd (laserState 0 none) 3).lsB = true) ∧
    (Begins (laserState 0 none) 1 0x44 (laserCmd 0) ∧ numAt (laserCmd 0) 16 1 = 3 ∧ numAt (laserCmd 0) 18 1 = 0 ∧
      (getPd (laserState 0 none) 3).service = none ∧ (laserOf (getPd (laserState 0 none) 3) false).present = true ∧
      laserOk (laserOf (getPd (laserState 0 none) 3) true) = true) ∧
    (Begins (laserState 1 (some false)) 1 0x44 (laserCmd 1) ∧ numAt (laserCmd 1) 18 1 = 1 ∧
      (getPd (laserState 1 (some false)) 3).service = some (numAt (laserCmd 1) 17 1 == 1)) := by decide +kernel

/-! ## Witnesses: partitions, recovery, tests -/

/-- The command with `bs` accepted on a module with partition `n` as `p`. -/
def partState (n : Nat) (p : Partition) (bs : List Byte) : State := withCmd { base with partitions := [(n, p)] } bs
theorem wit_PartitionsComeAndGo :
    (∀ n ∈ [1, 63], Begins (withCmd base (cmdBytes 0x10 n [])) 1 0x10 (cmdBytes 0x10 n []) ∧ cmdPart (cmdBytes 0x10 n []) = n) ∧
    getPart (withCmd base (cmdBytes 0x10 63 [])) 63 = none ∧ (getPart (withCmd base (cmdBytes 0x10 1 [])) 1).isSome = true ∧
    (Begins (partState 63 (Partition.empty 7) (cmdBytes 0x11 63 [])) 1 0x11 (cmdBytes 0x11 63 []) ∧
      getPart (partState 63 (Partition.empty 7) (cmdBytes 0x11 63 [])) 63 = some (Partition.empty 7) ∧
      (partState 63 (Partition.empty 7) (cmdBytes 0x11 63 [])).cmds.any (fun e => e.2.draining &&
        (cmdPart e.2.bytes == 63 || recvOf e.2.bytes == some 63)) = false ∧ holdsNothing (Partition.empty 7) = true ∧
      (∃ t, exec (.destroyPartition 1) (partState 63 (Partition.empty 7) (cmdBytes 0x11 63 [])) = .next t)) ∧
    (holdsNothing { Partition.empty 7 with power := 1 } = false ∧
      ∃ t, exec (.destroyPartition 1) (partState 63 { Partition.empty 7 with power := 1 } (cmdBytes 0x11 63 [])) = .next t) ∧
    (Begins (withCmd base (cmdBytes 0x11 63 [])) 1 0x11 (cmdBytes 0x11 63 []) ∧ getPart base 63 = none) ∧
    (Begins (withCmd base (cmdBytes 0x15 1 [])) 1 0x15 (cmdBytes 0x15 1 []) ∧ (getPart base 1).isSome = true) :=
  ⟨by decide +kernel, by decide +kernel, by decide +kernel,
   ⟨by decide +kernel, by decide +kernel, by decide +kernel, by decide +kernel, _, rfl⟩, ⟨by decide +kernel, _, rfl⟩, by decide +kernel,
   by decide +kernel⟩
/-- A command with the 8-byte records `rs` at host address 4,096; `rest` are its bytes 28 and 29. -/
def listCmd (op : Nat) (rs : List Nat) (rest : List Byte) : List Byte :=
  cmdBytes op 1 (leBytes 8 4096 ++ leBytes 4 (8 * rs.length) ++ rest)
def listCmdState (op : Nat) (rs : List Nat) (rest : List Byte) : State :=
  withCmd (hostWrite { base with partitions := base.partitions ++ [(2, Partition.empty 7)] } 4096 (rs.flatMap (leBytes 8)))
    (listCmd op rs rest)
def applied (r : Applied) : Option (Bool × Nat) := match r with
  | .done _ => none
  | .refused f i => some (f, i)
/-- Core 1 at place 895; a bit that no record uses; core 1 at place 0, which is taken. -/
def bindRec : Nat := (895 <<< 32) + 1
theorem wit_ResourcesBind :
    (∀ rs ∈ [[bindRec], [bindRec, 2 ^ 59], [bindRec, 2]], Begins (listCmdState 0x12 rs []) 1 0x12 (listCmd 0x12 rs []) ∧
      cmdPart (listCmd 0x12 rs []) = 1 ∧ readRecords (listCmdState 0x12 rs []) (listCmd 0x12 rs []) = rs ∧
      (getPart (listCmdState 0x12 rs []) 1).isSome = true ∧
      anyLocked (listCmdState 0x12 rs []) (locksOf (listCmdState 0x12 rs []) true 1 none rs) = false ∧
      pagesQueued (listCmdState 0x12 rs []) rs = false) ∧
    applied (applyRecords (recMalformed true) (bindRecord 1 [bindRec]) 0 [bindRec] (listCmdState 0x12 [bindRec] [])) = none ∧
    applied (applyRecords (recMalformed true) (bindRecord 1 [bindRec, 2 ^ 59]) 0 [bindRec, 2 ^ 59]
      (listCmdState 0x12 [bindRec, 2 ^ 59] [])) = some (true, 1) ∧
    applied (applyRecords (recMalformed true) (bindRecord 1 [bindRec, 2]) 0 [bindRec, 2]
      (listCmdState 0x12 [bindRec, 2] [])) = some (false, 1) := by decide +kernel
theorem wit_ResourcesRelease :
    (Begins (listCmdState 0x13 [0] [1, 0]) 1 0x13 (listCmd 0x13 [0] [1, 0]) ∧ numAt (listCmd 0x13 [0] [1, 0]) 28 1 = 1 ∧
      anyLocked (listCmdState 0x13 [0] [1, 0]) (locksOf (listCmdState 0x13 [0] [1, 0]) false 1 none [0]) = false ∧
      applied (applyRecords (recMalformed false) (takeRecord1 1 none [0]) 0 [0] (listCmdState 0x13 [0] [1, 0])) = none ∧
      (tget? (beginRelease (listCmdState 0x13 [0] [1, 0]) 1 [0]).cmds 1).isSome = true) ∧
    (Begins (listCmdState 0x14 [0] [0, 2]) 1 0x14 (listCmd 0x14 [0] [0, 2]) ∧ numAt (listCmd 0x14 [0] [0, 2]) 29 1 = 2 ∧
      (getPart (listCmdState 0x14 [0] [0, 2]) 2).isSome = true ∧
      anyLocked (listCmdState 0x14 [0] [0, 2]) (locksOf (listCmdState 0x14 [0] [0, 2]) false 1 (some 2) [0]) = false ∧
      applied (applyRecords (recMalformed false) (takeRecord1 1 (some 2) [0]) 0 [0] (listCmdState 0x14 [0] [0, 2])) = none ∧
      (namedCores (listCmdState 0x14 [0] [0, 2]) 1 [0]).any (fun x => runsList (listCmdState 0x14 [0] [0, 2]) x.2) = false ∧
      (tget? (beginRelease (listCmdState 0x14 [0] [0, 2]) 1 [0]).cmds 1).isSome = true) ∧
    (let c : Cmd := { pendingCmd (listCmd 0x13 [0] [1, 0]) with begun := true, draining := true, records := [0] }
     tget? { base with cmds := [(1, c)] }.cmds 1 = some c ∧ c.result = none ∧ drained { base with cmds := [(1, c)] } 1 c.records = true) := by
  decide +kernel
/-- Page 1 of the hub's pool, which carries a mark, and records of a core, a page and power of partition 1 for partition 2. -/
def pageRec : Nat := (1 <<< 60) + 1
theorem wit_MarkedPages :
    let s := { listCmdState 0x12 [pageRec] [] with poison := [2 ^ 15] }
    Begins s 1 0x12 (listCmd 0x12 [pageRec] []) ∧ readRecords s (listCmd 0x12 [pageRec] []) = [pageRec] ∧
    pagesQueued s [pageRec] = false ∧ markedPages s [pageRec] = [1] ∧ markedPages (listCmdState 0x12 [bindRec] []) [bindRec] = [] := by
  decide +kernel
theorem wit_RecordsMove :
    let p : Partition := { Partition.empty 7 with places := [(0, 0)], pages := [(0, 0)], power := 100 }
    (recKind 0 = 0 ∧ tget? p.places (recPlace 0) = some 0 ∧ tget? (Partition.empty 7).places (recPlace 0) = none) ∧
    (recKind (1 <<< 60) = 1 ∧ tget? p.pages (recPage (1 <<< 60)) = some 0 ∧ tget? (Partition.empty 7).pages (recPage (1 <<< 60)) = none) ∧
    (∀ w ∈ [100, 101], recKind ((5 <<< 60) + w) = 5 ∧ recWatts ((5 <<< 60) + w) = w) := by decide +kernel
/-- A release of a core, a page or a port of partition 1 that drains. -/
def draining (rec : Nat) : State :=
  { base with cmds := [(9, { pendingCmd (listCmd 0x13 [rec] [1, 0]) with begun := true, draining := true, records := [rec] })] }
theorem wit_LocksHold :
    coreLocked (draining 0) 0 = true ∧ coreLocked base 0 = false ∧ pagesLocked (draining (1 <<< 60)) 1 [0] = true ∧
    pagesLocked base 1 [0] = false ∧ portLocked (draining ((2 <<< 60) + 63)) 63 = true ∧ portLocked base 63 = false := by decide +kernel
theorem wit_PartitionsAreGated :
    let s := { base with partitions := [(1, { Partition.empty 7 with places := [(0, 0)], power := 100, watts := 2401 })] }
    pwrPart s < sumParts s (·.watts) ∧ ¬ pwrPart base < sumParts base (·.watts) := by decide +kernel
def recovery0 : Recovery := { fenced := 0, part := 1, place := 0, spare := some 52, work := none }
theorem wit_FaultsAreRecovered :
    ((getCore (onCore0 fun co => { co with faultRec := some fault0 }) 0).faultRec = some fault0 ∧
      (getCore (onCore0 fun co => { co with faultRec := some fault0 }) 0).service ≠ .fenced ∧
      (getCore (onCore0 fun co => { co with faultRec := some fault0, service := .fenced }) 0).service = .fenced) ∧
    workOf base 0 = none ∧ 895 < Config.nCores ∧ 15 < Config.nDies ∧ 7 < Config.nStacks ∧
    ({ base with recoveries := [recovery0] }.recoveries.find? fun r => r.spare == some 52) = some recovery0 ∧
    base.retiredLinks.contains 23 = false ∧ base.works = [] := by decide +kernel
/-- A core whose spare rows are used up, the hub's failure with one work running, and a spare for a work that recovers. -/
theorem wit_OtherFaults :
    (let s := onCore0 fun co => { co with spErr := { co.spErr with spareExhausted := true } }
     (getCore s 0).spErr.spareExhausted = true ∧ workOf s 0 = none ∧ (getCore s 0).service ≠ .fenced) ∧
    ({ base with works := [(7, work0)] }.works = [(7, work0)] ∧ work0.st = .running) ∧
    (let s := { base with works := [(7, { work0 with st := .recovering })], recoveries := [{ recovery0 with work := some 7 }] }
     (s.recoveries.find? fun r => r.spare == some 52) = some { recovery0 with work := some 7 } ∧
     tget? s.works 7 = some { work0 with st := .recovering }) := by decide +kernel
def testCmd (target opt : Byte) (n : Nat) : List Byte := cmdBytes 0x70 0 ([target, opt] ++ leBytes 2 n)
theorem wit_SelfTestsRun :
    (getCore (onCore0 fun co => { co with testing := true }) 0).testing = true ∧
    ((getCore base 52).service = .dark ∧ base.recoveries.any (fun r => r.spare == some 52) = false) ∧
    (Begins (withCmd base (testCmd 0 0 52)) 1 0x70 (testCmd 0 0 52) ∧ numAt (testCmd 0 0 52) 18 2 = 52) ∧
    (∀ k ∈ [1, 2], Begins (withCmd base (testCmd k 1 7)) 1 0x70 (testCmd k 1 7) ∧ numAt (testCmd k 1 7) 16 1 = k.toNat) ∧
    (let s := withCmd { base with works := [(0, work0)] } (testCmd 1 0 0)
     Begins s 1 0x70 (testCmd 1 0 0) ∧ numAt (testCmd 1 0 0) 17 1 = 0 ∧ work0.st = .running ∧ workCores work0 = [0] ∧
     dieOf 0 = (linkEnds 0).1) := by decide +kernel

theorem wit_TestsStopWorks :
    ∀ k ∈ [1, 2], Begins (withCmd { base with works := [(0, work0)] } (testCmd k 1 0)) 1 0x70 (testCmd k 1 0) ∧
      numAt (testCmd k 1 0) 17 1 ≠ 0 ∧ numAt (testCmd k 1 0) 16 1 = k.toNat := by decide +kernel

/-! ## Witnesses: the stamp, Assay firmware -/

/-- `MP-A` holds the stamp with epoch 1 and is current; `MP-B` as given. -/
def stampState (cur : Bool) (b : Processor) : State :=
  { base with stamp := { base.stamp with mpA := { Processor.reset with held := false, current := cur }, mpB := b } }
def spent : Processor := { Processor.reset with held := true, releases := [0, 0, 0] }
theorem wit_StampHolders :
    (mpsReleased base = true ∧ (mpOf base.stamp .b).held = false ∧ holderMp base.stamp ≠ some .b) ∧
    (holderMp (stampState false base.stamp.mpB).stamp = some .a ∧ (mpOf (stampState false base.stamp.mpB).stamp .a).current = false) := by
  decide +kernel
theorem wit_StampFree :
    let s := { base with stamp := { base.stamp with holder := 0, epoch := 0 } }
    mpsReleased s = true ∧ holderMp s.stamp = none ∧ s.stamp.epoch ≠ 0xFFFFFFFF := by
  decide +kernel
theorem wit_StampClaims (e : Word) :
    (mpOf (stampState true { base.stamp.mpB with claim := some e }).stamp (otherMp .a)).claim = some e ∧
    holderMp (stampState true { base.stamp.mpB with claim := some e }).stamp = some .a ∧
    (mpOf (stampState true { base.stamp.mpB with claim := some e }).stamp .a).current = true := ⟨rfl, rfl, rfl⟩
theorem wit_StandbyReleases :
    ((mpOf (stampState true { spent with releases := [0, 0] }).stamp .b).held = true ∧
      spentReleases (stampState true { spent with releases := [0, 0] }) { spent with releases := [0, 0] } = false) ∧
    (Begins (withCmd (stampState true spent) (cmdBytes 0x71 0 [])) 1 0x71 (cmdBytes 0x71 0 []) ∧
      holderMp (stampState true spent).stamp = some (otherMp .b) ∧ (mpOf (stampState true spent).stamp .b).held = true ∧
      spentReleases (stampState true spent) spent = true) := by
  decide +kernel
theorem wit_StaleHubWritesAreDropped :
    mpsReleased base = true ∧ (Instr.hubControlWrite 1 (.retain 895 0)).wf = true ∧ (1 : Word) = base.stamp.epoch ∧
    (0xFFFFFFFF : Word) ≠ base.stamp.epoch := by decide +kernel
/-- A request for a power limit (kind 0) or a throttle point (kind 1). -/
def limitCmd (kind : Byte) (v : Nat) : List Byte := cmdBytes 0x52 0 ([kind, 0, 0, 0] ++ leBytes 4 v)
theorem wit_AssayAnswersRequests :
    (∀ v ∈ [1600, 2800], Begins (withCmd base (limitCmd 0 v)) 1 0x52 (limitCmd 0 v) ∧ numAt (limitCmd 0 v) 16 1 = 0 ∧
      numAt (limitCmd 0 v) 20 4 = v) ∧
    (∀ v ∈ [85, 100], Begins (withCmd base (limitCmd 1 v)) 1 0x52 (limitCmd 1 v) ∧ numAt (limitCmd 1 v) 16 1 = 1 ∧
      numAt (limitCmd 1 v) 20 4 = v ∧ v ≤ base.assay.throttlePoint) := by decide +kernel

/-! ## Witnesses: the mailbox -/

/-- The ledger is attached and channel 15 is set up with rings of the given sizes, and as `f` says. -/
def chanState (sq cq : Nat) (f : Channel → Channel) : State :=
  let s := { base with ledger := { base.ledger with attached := true, held := true, areaLog2 := 16 } }
  setCh s 15 (f { getCh s 15 with sqBase := 4096, cqBase := 65536, sqLog2 := sq, cqLog2 := cq })
def live (c : Channel) : Channel := { c with enable := true, active := true, cqPhase := true }
theorem wit_ChannelsAndTheLedger :
    (busUp (chanState 4 12 id) = true ∧ applyHost (chanState 4 12 id) [] = chanState 4 12 id) ∧
    (∀ x ∈ [(4, 4, true), (12, 12, true), (3, 4, false), (4, 13, false)],
      channelHere (chanState x.1 x.2.1 id) 15 = true ∧ (getCh (chanState x.1 x.2.1 id) 15).enable = false ∧
      enableOk (chanState x.1 x.2.1 id) (getCh (chanState x.1 x.2.1 id) 15) = x.2.2) ∧
    ((getCh (chanState 4 4 live) 15).active = true ∧ (15 : Word).toNat < 2 ^ (getCh (chanState 4 4 live) 15).sqLog2 ∧
      2 ^ (getCh (chanState 4 4 live) 15).sqLog2 ≤ (16 : Word).toNat ∧ (15 : Word).toNat < 2 ^ (getCh (chanState 4 4 live) 15).cqLog2) ∧
    (∀ n ∈ [7, 8, 16, 17], busUp { base with ledger := { base.ledger with log2 := n } } = true) ∧
    base.legacy = false ∧ base.channels.any (fun c => c.2.enable) = false ∧
    (chanState 4 4 live).channels.any (fun c => c.2.enable) = true := by decide +kernel
/-- Channel 15 with one entry at the head of its submission ring, its sequence number count `n`. -/
def ringState (n : Nat) : State :=
  hostWrite (chanState 4 4 fun c => { live c with sqTail := 1 }) 4096 (padTo 64 (leBytes 8 1 ++ leBytes 8 (seqOf 15 n)))
def doneCmd : Cmd := { pendingCmd (cmdBytes 1 0 []) with ch := 15, result := some { status := 0, detail := zeros 16 } }
theorem wit_CommandsAreAcceptedAndCompleted :
    (∀ n ∈ [1, 2], firmwareRuns (ringState n) = true ∧ (ringState n).legacy = false ∧ (getCh (ringState n) 15).active = true ∧
      (getCh (ringState n) 15).sqHead ≠ (getCh (ringState n) 15).sqTail ∧
      openCmds (ringState n) 15 + (getCh (ringState n) 15).cqUsed < 2 ^ (getCh (ringState n) 15).cqLog2 ∧
      cmdSeq (headEntry (ringState n) (getCh (ringState n) 15)) = seqOf 15 n ∧ (getCh (ringState n) 15).lastCount = 0) ∧
    (let s := chanState 4 4 fun c => { live c with cqUsed := 16 }
     2 ^ (getCh s 15).cqLog2 ≤ openCmds s 15 + (getCh s 15).cqUsed) ∧
    (let s := { chanState 4 4 live with cmds := [(seqOf 15 1, doneCmd)] }
     (s.cmds.find? fun e => e.2.ch == 15) = some (seqOf 15 1, doneCmd) ∧
     doneCmd.result = some { status := 0, detail := zeros 16 } ∧ (getCh s 15).active = true) := by decide +kernel

/-! ## Witnesses: events, the host -/

def evqState (log2 used : Nat) (act : Bool) : State :=
  { base with evq := { base.evq with log2 := log2, used := used, active := act, base := 4096, waiting := [(fault0, 0, 1)] } }
theorem wit_EventsReachTheHost :
    busUp base = true ∧ firmwareRuns base = true ∧
    (∀ n ∈ [0x401, 0x1001], (BitVec.ofNat 32 n).getLsbD 0 = true ∧ 4 ≤ fld (BitVec.ofNat 32 n).toNat 8 5 ∧
      fld (BitVec.ofNat 32 n).toNat 8 5 ≤ 16) ∧ base.evq.active = false ∧
    ((evqState 4 16 true).evq.active = true ∧ (15 : Word).toNat < 2 ^ (evqState 4 16 true).evq.log2 ∧
      2 ^ (evqState 4 16 true).evq.log2 ≤ (evqState 4 16 true).evq.used ∧
      (evqState 4 16 true).evq.waiting = (fault0, 0, 1) :: []) ∧
    ((evqState 4 15 true).evq.used < 2 ^ (evqState 4 15 true).evq.log2 ∧ (evqState 4 15 false).evq.active = false) := by decide +kernel
def poisonState : State := { base with windows := [(32767, 0)], poison := [0] }
theorem wit_WindowReads :
    busUp base = true ∧ windowParts base (2 ^ 36 - 1) 1 = none ∧ windowParts base 0 0 = some [] ∧
    (windowParts poisonState (32767 * 2 ^ 21) 1 = some [(0, 1)] ∧ [((0 : Nat), (1 : Nat))].any (fun p => asleep poisonState (p.1 / 512)) = false ∧
      (windowRead poisonState [(0, 1)]).2.2 = true ∧ (windowRead { poisonState with poison := [] } [(0, 1)]).2.2 = false) := by
  decide +kernel
theorem wit_RegisterWrites :
    (0x400 ≤ 0x400 ∧ 0x4FC < 0x500 ∧ 0x4FC % 4 = 0) ∧ fld (0x3000 : Word).toNat 12 4 ≤ 3 ∧ 3 < fld (0x4000 : Word).toNat 12 4 ∧
    base.endpointUp = true ∧
    (let s := { base with perstN := false }
     s.perstN = false ∧ hubOn s = true ∧ s.legacy = false ∧ s.boot.modeByte = 0 ∧ s.modulePd.entry = none ∧ s.modulePd.waking = false ∧
     ∃ t, exec (.perstDeassert false) s = .next t) := ⟨by decide, by decide, by decide, by decide +kernel, by decide +kernel,
       by decide +kernel, by decide +kernel, by decide +kernel, by decide +kernel, by decide +kernel, _, rfl⟩

/-! ## Witnesses: the command set -/

/-- `start_work` with `n` lists: a table at host address 4,096 with core 0 and a list base in its P-store, 16 bytes an entry. -/
def startCmd (n : Nat) : List Byte := cmdBytes 0x20 1 (leBytes 8 4096 ++ leBytes 2 n)
def startTable (place lbase : Nat) : State :=
  withCmd (hostWrite base 4096 (leBytes 8 place ++ leBytes 8 lbase)) (startCmd 1)
def listsOf (s : State) : Option (Bool × Nat) := match readLists s (startCmd 1) 1 0 [] with
  | .ok _ => none
  | .refused f i => some (f, i)
def workState (st : WorkState) (op : Nat) (k : Nat) : State :=
  withCmd { base with works := [(7, { work0 with st := st })] } (cmdBytes op 1 (leBytes 8 k ++ leBytes 8 0))
def workCmd (op k : Nat) : List Byte := cmdBytes op 1 (leBytes 8 k ++ leBytes 8 0)
theorem wit_WorksStart :
    (Begins (startTable 0 (pRow 0)) 1 0x20 (startCmd 1) ∧ (getPart (startTable 0 (pRow 0)) (cmdPart (startCmd 1))).isSome = true ∧
      (tableCores (startTable 0 (pRow 0)) (startCmd 1)).any (coreLocked (startTable 0 (pRow 0))) = false ∧
      numAt (startCmd 1) 24 2 = 1) ∧
    listsOf (startTable 0 (pRow 0)) = none ∧ listsOf (startTable (2 ^ 16) (pRow 0)) = some (true, 0) ∧
    listsOf (startTable 895 (pRow 0)) = some (false, 0) := by decide +kernel
theorem wit_WorksStopAndResume :
    (Begins (workState .running 0x21 7) 1 0x21 (workCmd 0x21 7) ∧
      (namedWork (workState .running 0x21 7) (workCmd 0x21 7)).map (fun x => x.2.st) = some .running) ∧
    (Begins (workState .preempted 0x22 7) 1 0x22 (workCmd 0x22 7) ∧
      (namedWork (workState .preempted 0x22 7) (workCmd 0x22 7)).map (fun x => x.2.st) = some .preempted ∧
      (placeLists (workState .preempted 0x22 7) { work0 with st := .preempted } (numAt (workCmd 0x22 7) 24 8)).isSome = true ∧
      coreLocked (workState .preempted 0x22 7) 0 = false) ∧
    Begins (workState .preempted 0x23 7) 1 0x23 (workCmd 0x23 7) ∧
    (∀ op ∈ [0x21, 0x22, 0x23], Begins (workState .running op 8) 1 op (workCmd op 8) ∧
      (namedWork (workState .running op 8) (workCmd op 8)).isNone = true) := by decide +kernel
/-- Window page 32,767 to the partition's page 0. -/
def windowCmd (op : Nat) : List Byte := cmdBytes op 1 (leBytes 4 32767 ++ leBytes 4 1 ++ leBytes 8 0)
/-- `read_rows` and `write_rows` of the last 512 bytes of the P-store of core 0. -/
def readCmd : List Byte := cmdBytes 0x32 1 (leBytes 8 (pRow 2047) ++ leBytes 8 4096 ++ leBytes 4 512)
def writeCmd : List Byte := cmdBytes 0x33 1 (leBytes 8 4096 ++ leBytes 8 (pRow 2047) ++ leBytes 4 512)
def toPart9 (bs : List Byte) : List Byte := bs.take 2 ++ [9, 0] ++ bs.drop 4
theorem wit_WindowsAndRowsAreServed :
    (Begins (withCmd base (windowCmd 0x30)) 1 0x30 (windowCmd 0x30) ∧ (getPart base (cmdPart (windowCmd 0x30))).isSome = true ∧
      windowRange (windowCmd 0x30) = [32767] ∧ (windowRange (windowCmd 0x30)).any (fun k => (tget? base.windows k).isSome) = false ∧
      (((windowRange (windowCmd 0x30)).zipIdx.mapM fun x =>
        (tget? ((getPart base 1).getD (Partition.empty 0)).pages (numAt (windowCmd 0x30) 24 8 / 2 ^ 21 + x.2)).map fun g => (x.1, g)) =
          some [(32767, 0)])) ∧
    Begins (withCmd base (windowCmd 0x31)) 1 0x31 (windowCmd 0x31) ∧
    (Begins (withCmd base readCmd) 1 0x32 readCmd ∧ (getPart (withCmd base readCmd) (cmdPart readCmd)).isSome = true ∧
      rowsBusy (withCmd base readCmd) (cmdPart readCmd) (numAt readCmd 16 8) (numAt readCmd 32 4) false = false) ∧
    (Begins (withCmd base writeCmd) 1 0x33 writeCmd ∧
      rowsBusy (withCmd base writeCmd) (cmdPart writeCmd) (numAt writeCmd 24 8) (numAt writeCmd 32 4) true = false) ∧
    (∀ x ∈ [(0x30, toPart9 (windowCmd 0x30)), (0x32, toPart9 readCmd), (0x33, toPart9 writeCmd)],
      Begins (withCmd base x.2) 1 x.1 x.2 ∧ getPart base (cmdPart x.2) = none) := by decide +kernel
theorem wit_ReportsAnswer :
    (∀ op ∈ [0x01, 0x02, 0x03, 0x50, 0x60, 0x61], Begins (withCmd base (cmdBytes op 0 [])) 1 op (cmdBytes op 0 [])) ∧
    (let w := { work0 with lists := work0.lists.map fun l => { l with faulted := some fault0 } }
     let s := withCmd { base with works := [(7, w)] } (workCmd 0x04 7)
     Begins s 1 0x04 (workCmd 0x04 7) ∧ namedWork s (workCmd 0x04 7) = some (7, w) ∧ faultRecords w ≠ []) ∧
    runningLayers base = [] ∧ runningLayers (onCore0 fun co => { co with press := [jobIn .done] }) ≠ [] := by decide +kernel
/-- `set_routes` for module ID 2 alone, its entry at host address 4,096. -/
def routeCmd : List Byte := cmdBytes 0x41 0 (leBytes 8 4096 ++ leBytes 4 2 ++ leBytes 4 1)
def routeState (e : Nat) : State := withCmd (hostWrite base 4096 (leBytes 4 e)) routeCmd
def portCmd (act : Byte) : List Byte := cmdBytes 0x42 0 [63, act]
def keyCmd : List Byte := cmdBytes 0x43 0 ([63] ++ zeros 7 ++ leBytes 8 4096)
theorem wit_LinkSettingsAreMade :
    Begins (withCmd base (cmdBytes 0x40 0 (leBytes 2 65535))) 1 0x40 (cmdBytes 0x40 0 (leBytes 2 65535)) ∧
    (Begins (routeState rt63.toNat) 1 0x41 routeCmd ∧ numAt routeCmd 28 4 = 1 ∧ hostRead (routeState rt63.toNat) 4096 4 = leBytes 4 rt63.toNat ∧
      routeRefused rt63.toNat = false ∧ routeRefused (2 ^ 28) = true ∧ Begins (routeState (2 ^ 28)) 1 0x41 routeCmd ∧
      hostRead (routeState (2 ^ 28)) 4096 4 = leBytes 4 (2 ^ 28)) ∧
    (∀ a ∈ [0, 1, 2, 3, 4, 5, 6, 7], Begins (withCmd base (portCmd (BitVec.ofNat 8 a))) 1 0x42 (portCmd (BitVec.ofNat 8 a)) ∧
      numAt (portCmd (BitVec.ofNat 8 a)) 16 1 = 63 ∧ numAt (portCmd (BitVec.ofNat 8 a)) 17 1 = a) ∧
    ((getPort (setPort base 63 { Port.reset with link := .disabled }) 63).link = .disabled ∧ base.rind.debugOpen = false ∧
      { base with rind := { base.rind with debugOpen := true } }.rind.debugOpen = true) ∧
    (let s := withCmd (hostWrite base 4096 ((1 : Byte) :: zeros 145)) keyCmd
     Begins s 1 0x43 keyCmd ∧ numAt (hostRead s (numAt keyCmd 24 8) 146) 0 1 = 1) := by decide +kernel
/-- A vote of client partition `part` on target `t` (kind in bits 15 to 12). -/
def voteCmd (part t : Nat) (v : Byte) : List Byte := cmdBytes 0x51 part (leBytes 2 t ++ [v])
theorem wit_VotesAreCast :
    (∀ k ∈ [0, 1, 2, 3, 4], Begins (withCmd base (voteCmd 0 (k * 4096) 3)) 1 0x51 (voteCmd 0 (k * 4096) 3) ∧
      mayVote (withCmd base (voteCmd 0 (k * 4096) 3)) (voteCmd 0 (k * 4096) 3) = true ∧ numAt (voteCmd 0 (k * 4096) 3) 18 1 ≠ 0xFF ∧
      fld (numAt (voteCmd 0 (k * 4096) 3) 16 2) 12 4 = k) ∧
    (Begins (withCmd base (voteCmd 1 0 0xFF)) 1 0x51 (voteCmd 1 0 0xFF) ∧ numAt (voteCmd 1 0 0xFF) 18 1 = 0xFF ∧
      mayVote (withCmd base (voteCmd 1 0 0xFF)) (voteCmd 1 0 0xFF) = true) ∧
    (∀ k ∈ [0, 1, 2, 3, 4], Begins (withCmd base (voteCmd 1 (k * 4096 + 895) 3)) 1 0x51 (voteCmd 1 (k * 4096 + 895) 3) ∧
      mayVote (withCmd base (voteCmd 1 (k * 4096 + 895) 3)) (voteCmd 1 (k * 4096 + 895) 3) = false ∧
      fld (numAt (voteCmd 1 (k * 4096 + 895) 3) 16 2) 12 4 = k) := by decide +kernel

/-! ## Witnesses: power, resets, boot, attestation -/

theorem wit_VotesAndCeilings :
    Domain.core 895 ≠ .die 0 ∧ Domain.module ≠ .die 0 ∧
    some 4 ∈ ceilings base.fuses { (getDie base 0).power with coolantCeil := some 4 } := by decide +kernel
def powerState (f : Power → Power) : State := modPower base (.core 0) f
def idleCore : State := setVote base (.core 0) .firmware (some 3)
def entry0 (b : Bool) : Entry := { target := 3, committed := b }
theorem wit_DomainsEnter :
    (firmwareRuns idleCore = true ∧ (getPower idleCore (.core 0)).entry = none ∧ (getPower idleCore (.core 0)).waking = false ∧
      (getPower idleCore (.core 0)).st < permitted idleCore (.core 0) ∧ sleepState (.core 0) ≤ permitted idleCore (.core 0) ∧
      canEnter idleCore (.core 0) = true) ∧
    (getPower (powerState fun p => { p with entry := some (entry0 false) }) (.core 0)).entry = some (entry0 false) ∧
    (getPower (powerState fun p => { p with entry := some (entry0 true) }) (.core 0)).entry = some (entry0 true) ∧
    (entry0 false).committed = false ∧ (entry0 true).committed = true := by decide +kernel
theorem wit_DomainsWake :
    ((getPower (powerState fun p => { p with waking := true }) (.core 0)).waking = true ∧
      dieUp (powerState fun p => { p with waking := true }) (dieOf 0) = true) ∧
    (∀ d ∈ [Domain.die 15, .photonic 3, .module], d.wf = true ∧
      (getPower (modPower base d fun p => { p with waking := true }) d).waking = true) ∧
    (dieUp base 15 = true ∧ padReady base .xspi = true ∧ padReady base .elsfp = true ∧ padReady { base with rind := { base.rind with debugOpen := true } } .tdo = true) := by decide +kernel
def dieState (f : DiePower → DiePower) : State :=
  setDie base 15 { getDie base 15 with power := f (getDie base 15).power }
theorem wit_PointsFollowThePower :
    VoltageOk (getDie base 15).power ∧
    (getDie (dieState fun p => { p with locking := true }) 15).power.locking = true ∧
    voltageMoves (getDie (dieState fun p => { p with target := 0, mv := pointMv 0 - 10, point := 4, inChange := true }) 15).power = true ∧
    hubOn base = true ∧
    (let s := { base with meter := { base.meter with avg100 := base.assay.transient + 1, avg10ms := 2801 } }
     s.assay.transient < s.meter.avg100 ∧ s.assay.sustained < s.meter.avg10ms) ∧
    (let s := { setDie base 0 { getDie base 0 with power := { (getDie base 0).power with powerCeil := some 4 } } with
                meter := { base.meter with avg1ms := 2800 } }
     (getDie s 0).power.powerCeil ≠ none ∧ s.assay.sustained ≤ s.meter.avg1ms) ∧
    (base.meter.avg100 ≤ base.assay.transient ∧ 100 * 2660 ≤ 95 * base.assay.sustained) := by decide +kernel
theorem wit_HeatCoolantAndPhases :
    (hotSensor base.assay.throttlePoint (getDie (dieState fun p => { p with temps := [100] }) 15).power.temps).isSome = true ∧
    (hotSensor base.assay.throttlePoint (getDie (dieState fun p => { p with temps := [99] }) 15).power.temps).isNone = true ∧
    (∀ x ∈ (getDie (dieState fun p => { p with temps := [95] }) 15).power.temps, x + 5 ≤ base.assay.throttlePoint) ∧
    (base.modulePd.st < 2 ∧ firmwareRuns base = true ∧ 2 ≤ { base with modulePd := Power.reset 2 }.modulePd.st) ∧
    ((getDie (dieState fun p => { p with phaseCeil := some 1, point := 1 }) 15).power.phaseCeil ≠ none ∧
      (getDie (dieState fun p => { p with phaseCeil := some 1, point := 1 }) 15).power.point ≠ 4) := by decide +kernel
theorem wit_ResetsOfTheModule :
    base.m3 = false ∧ base.modulePd.st < 2 ∧ { base with m3 := true }.m3 = true ∧ 20 < 21 ∧ 4 < 5 := by decide +kernel
theorem wit_BootFollowsItsChain :
    bootMayBegin State.reset = true ∧
    (∀ n ∈ [1, 2, 3], { base with boot := { base.boot with stage := n } }.boot.stage = n) ∧ base.rind.coolantLow = false ∧
    (∃ t, exec (.firmwareReady []) { base with boot := { base.boot with stage := 3 } } = .next t) ∧
    (∃ t, exec (.managementImageRead []) { base with boot := { base.boot with stage := 2 } } = .next t) :=
  ⟨by decide +kernel, by decide +kernel, by decide +kernel, ⟨_, rfl⟩, _, rfl⟩
def spdmState (dbg : Bool) : State :=
  { base with spdm := { version := true, capabilities := true, algorithms := true, transcript := [] },
              rind := { base.rind with debugOpen := dbg } }
theorem wit_AssayServesTheSmbusAndDebugPorts :
    (assayRuns base = true ∧ base.rind.debugOpen = false ∧ base.assay.unlockBarred = false ∧ 63 < Config.nPorts) ∧
    (∀ dbg ∈ [false, true], Answers (spdmState dbg) ∧ assayRuns (spdmState dbg) = true ∧ (spdmState dbg).rind.debugOpen = dbg) ∧
    (∀ k ∈ [0x84, 0xE1, 0xE3, 0x81, 0x82, 0x83, 0xE0], numAt (padTo 36 [0x12, BitVec.ofNat 8 k]) 1 1 = k ∧
      (padTo 36 [0x12, BitVec.ofNat 8 k]).length = 36 ∧ numAt (padTo 36 [0x12, BitVec.ofNat 8 k]) 2 1 = 0 ∧
      numAt (padTo 36 [0x12, BitVec.ofNat 8 k]) 3 1 = 0) ∧
    (assayRuns { base with boot := { base.boot with stage := 1 } } = false ∧ Answers { base with boot := { base.boot with stage := 1 } }) ∧
    alertN { base with alarms := { base.alarms with status := 2 }, smbus := { base.smbus with alertEn := 2 } } = false ∧
    (let s := { base with modulePd := Power.reset 2 }
     s.m3 = false ∧ 2 ≤ s.modulePd.st ∧ smbAddress s ≠ smbAddress s + 1) := by decide +kernel

/-! ## Values from the examples of the spec -/

/-- The plane masks of the traced cell (02, "one 4 × 4-bit cell traced pass by pass"). -/
def traced : SliceBits :=
  { a := 4, w := 4, aKind := 0, wKind := 0, cells := [(0, 0)], groups := [2 ^ 32 - 1], lens := [32],
    aBits := fun _ _ i => nth [7, 4, 7, 10] i 0, wBits := fun _ j => nth [12, 11, 3, 5] j 0 }
theorem test_pass_order : passOrder 4 4 = [(3, 3), (3, 2), (2, 3), (3, 1), (2, 2), (1, 3), (3, 0), (2, 1), (1, 2), (0, 3), (2, 0), (1, 1),
    (0, 2), (1, 0), (0, 1), (0, 0)] := by decide +kernel
theorem test_pass_trace : accAfter traced (passOrder 4 4) = [[-101]] ∧ accAfter traced ((passOrder 4 4).take 4) = [[-128]] ∧
    accAfter traced ((passOrder 4 4).take 8) = [[-104]] := by decide +kernel
/-- 4,096 + 27 × 0.0625 × 0.5 is 4,096.875 in F24 (03, after R83), and 0x4580_0700 as FP32 (R81). -/
theorem test_promotion : promoteCell 0x458000 27 0 0x3D80 0x3F000000 = 0x458007 ∧ f24ToF32 0x458007 = 0x45800700 := by decide +kernel
/-- The zero-point example of 02: x = 11 and 2 under z = 8 against weights 5 and −2: 51 less 8 times the column sum 3. -/
theorem test_zero_point :
    ((List.range 4).map fun j => colTerm 0 4 j (nth [1, 2, 3, 2] j 0) 3).sum = 3 ∧ groupValue 8 51 3 = 27 := by decide +kernel
/-- The codes 36, −80 and 27 for s = 3.5 / 127 (05, R150), and the clipped 7 for 1.95 at s = 0.25. -/
theorem test_quant_codes :
    (quantCode 3 8 0 (f32 0x3F800000) (f32 0x3CE1C387)).code = 36 ∧ (quantCode 3 8 0 (f32 0xC00CCCCD) (f32 0x3CE1C387)).code = -80 ∧
    (quantCode 3 8 0 (f32 0x3F400000) (f32 0x3CE1C387)).code = 27 ∧
    quantCode 0 4 0 (f32 0x3FF9999A) (f32 0x3E800000) = { code := 7, clipped := true, nan := false } := by decide +kernel
/-- 0.75 falls in bin 124 with `E_BASE` 112 (05, R185). -/
theorem test_tally_bin : tallyBin 112 0x3F400000 = 124 := by decide +kernel
/-- The masks 0b1010 and 0b0100 (06, R193). -/
theorem test_quad_masks : maskBits 0b1010 = [1, 3] ∧ maskBits 0b0100 = [2] ∧ badMask 0b0111 = true ∧ badMask 0b0011 = false := by
  decide +kernel
/-- The A-store base of global core 57 (00, R11) and the die of core 737 (01, R26). -/
theorem test_addresses : 512 * storeRow 57 1 0 = 0x01000E500000 ∧ dieOf 737 = 13 := by decide +kernel
theorem test_crc32c : crc32c [0x31, 0x32, 0x33, 0x34, 0x35, 0x36, 0x37, 0x38, 0x39] = 0xE3069283 := by decide +kernel
/-- The points of 14: a die at P1 raised to P0 takes the standby PLL, keeps P2 behind it, and switches once it locks. -/
theorem test_point_raise :
    (let p := lockPll (reachVoltage (aimAt { (getDie base 0).power with point := 1, target := 1, active := 1, standby := 2, mv := pointMv 1 } 0))
     p.point = 0 ∧ p.mv = 850 ∧ p.standby = 1) := by decide +kernel

/-! ## Single steps -/

theorem test_fill_row :
    (match exec (.fill 0) (atEntry (eFill 0)) with
     | .next t => ((getCore t 0).rowJobs.length, (getCore t 0).seq.pos)
     | _ => (0, 0)) = (1, 2) := by decide +kernel
theorem test_loop_load :
    (match exec (.loopLoad 0) (atEntry (eLoop 2)) with
     | .next t => ((getCore t 0).seq.l3.toNat, (getCore t 0).seq.pos)
     | _ => (0, 0)) = (7, 2) := by decide +kernel
/-- A decrement stops at 0 (R336). -/
theorem test_branch_decrement :
    (match exec (.branchDecrement 0) (modCore (atEntry (eLoop 1)) 0 fun co => { co with seq := { co.seq with l3 := 0 } }) with
     | .next t => (getCore t 0).seq.l3.toNat
     | _ => 1) = 0 := by decide +kernel
/-- A row that arrives is stored, tagged full and counted (R250, R252). -/
theorem test_remote_write :
    (match exec (.remoteWriteArrival 0 0) (arriving .write id) with
     | .next t => (isFull t (storeRow 0 2 2047), (tget (getCore t 0).hoops 15 Hoop.reset).counter.toNat, (getCore t 0).inbound.length)
     | _ => (false, 0, 1)) = (true, 1, 0) := by decide +kernel
/-- A signal adds its value modulo 2^32 (R252). -/
theorem test_signal_wraps :
    (match exec (.signalArrival 0 0) (arriving (.signal 2) fun h => { h with counter := 0xFFFFFFFF }) with
     | .next t => (tget (getCore t 0).hoops 15 Hoop.reset).counter.toNat
     | _ => 0) = 1 := by decide +kernel
/-- An arrival at a hoop that is not open counts in the core's count, not the hoop's (R255). -/
theorem test_closed_hoop :
    (match exec (.remoteWriteArrival 0 0) (arriving .write fun h => { h with isOpen := false }) with
     | .next t => ((getCore t 0).hoopRefused, (tget (getCore t 0).hoops 15 Hoop.reset).refused)
     | _ => (0, 1)) = (1, 0) := by decide +kernel
/-- A holder that is current keeps the stamp. -/
theorem test_stamp_lapse :
    (match exec .assayCycle { base with stamp := { base.stamp with
        epoch := 41, mpB := { Processor.reset with held := false, current := true, lastEpoch := 40 } } } with
     | .next t => (t.stamp.epoch.toNat, t.stamp.holder, t.stamp.grantCount)
     | _ => (0, 0, 0)) = (41, 1, 0) := by decide +kernel
/-- The lapse of `MP-A` at epoch 41 gives `MP-B` the stamp with epoch 42 (12, R466 to R471). -/
theorem test_stamp_passes :
    (match exec .assayCycle { base with stamp := { base.stamp with
        epoch := 41, mpA := { base.stamp.mpA with current := false },
        mpB := { Processor.reset with held := false, current := true, lastEpoch := 40 } } } with
     | .next t => (t.stamp.epoch.toNat, t.stamp.holder, t.stamp.mpA.held)
     | _ => (0, 0, false)) = (42, 2, true) := by decide +kernel
theorem test_stale_write :
    (match exec (.hubControlWrite 0 (.retain 0 1)) base with
     | .next t => (t.stamp.staleCount, (getCore t 0).retain.toNat)
     | _ => (0, 1)) = (1, 0) := by decide +kernel
/-- The third failed phase of a die at P0: at 228 A it steps to P1 with `PHASE_LOST` (14, R536, R537). -/
theorem test_phase_step :
    (match exec (.currentExceedsPhaseCapacity 6) (setDie base 6 { getDie base 6 with power :=
        { (getDie base 6).power with point := 0, active := 0, target := 0, standby := 1, mv := 850, livePhases := 11 } }) with
     | .next t => ((getDie t 6).power.phaseCeil, (getDie t 6).power.phaseLost)
     | _ => (none, false)) = (some 1, true) := by decide +kernel
theorem test_sustained_limit :
    (match exec (.assayRequest (.sustained 2801)) base with
     | .next t => (t.assay.sustained, t.assay.answer)
     | _ => (0, none)) = (2800, some false) := by decide +kernel
theorem test_alarm_clear :
    (match exec (.registerWrite 0x40 0x2) { base with alarms := { base.alarms with status := 0x6 } } with
     | .next t => t.alarms.status.toNat
     | _ => 0) = 4 := by decide +kernel
theorem test_create_partition :
    (match exec (.createPartition 1) (withCmd base (cmdBytes 0x10 63 [7])) with
     | .next t => ((getPart t 63).map (·.owner.toNat), (tget? t.cmds 1).map fun c => c.result.map (·.status))
     | _ => (none, none)) = (some 7, some (some 0)) := by decide +kernel
theorem test_set_module_id :
    (match exec (.setModuleId 1) (withCmd base (cmdBytes 0x40 0 [0x34, 0x12])) with
     | .next t => t.moduleId.map (·.toNat)
     | _ => none) = some 0x1234 := by decide +kernel
theorem test_link_down_counts :
    (match exec (.holdTimeout 0) (portIn .hold id) with
     | .next t => ((getPort t 0).link, (getPort t 0).linkLost, (getPort t 0).linkLostCount)
     | _ => (.up, false, 0)) = (.down, true, 1) := by decide +kernel
theorem test_step_empty :
    (match step base with
     | .next t => decide (t = { base with refCount := 1, acc40 := 32768 })
     | _ => false) = true := by decide +kernel

end Sys2Proof.Tests
end

section
/-!
The passes of the Press (R55 to R59): the accumulators after a list of passes are the sums of the passes' terms, the passes of a slice
are all the plane pairs, and a popcount is a sum over positions, so that the two sums may be exchanged.
-/

namespace Sys2Proof.Machine

/-! ## Bits and popcounts as sums over positions -/

theorem bitAt_eq_testBit (n k : Nat) : bitAt n k = n.testBit k := by
  rw [bitAt, Nat.testBit_eq_decide_div_mod_eq, Nat.shiftRight_eq_div_pow]
  rfl

@[simp] theorem bitAt_and (x y k : Nat) : bitAt (x &&& y) k = (bitAt x k && bitAt y k) := by
  simp only [bitAt_eq_testBit, Nat.testBit_and]

@[simp] theorem bitAt_xor (x y k : Nat) : bitAt (x ^^^ y) k = (bitAt x k ^^ bitAt y k) := by
  simp only [bitAt_eq_testBit, Nat.testBit_xor]

theorem bitAt_ones (w k : Nat) : bitAt (2 ^ w - 1) k = decide (k < w) := by
  rw [bitAt_eq_testBit, Nat.testBit_two_pow_sub_one]

theorem bitAt_succ (n k : Nat) : bitAt n (k + 1) = bitAt (n / 2) k := by
  rw [bitAt_eq_testBit, bitAt_eq_testBit, Nat.testBit_succ]

theorem sum_map_range (n : Nat) (f : Nat → Int) : ((List.range n).map f).sum = ∑ k ∈ Finset.range n, f k := by
  rw [← List.sum_toFinset f List.nodup_range, List.toFinset_range]

/-- A popcount counts the positions whose bit is set. -/
theorem popBits_eq_sum (w n : Nat) : (popBits w n : Int) = ∑ k ∈ Finset.range w, if bitAt n k then 1 else 0 := by
  induction w generalizing n with
  | zero => rfl
  | succ w ih =>
    have low : ((n % 2 : Nat) : Int) = if bitAt n 0 then 1 else 0 := by
      rcases Nat.mod_two_eq_zero_or_one n with h | h <;> simp [bitAt, h]
    rw [popBits, Nat.cast_add, ih, low, Finset.sum_range_succ', add_comm]
    simp only [bitAt_succ]

/-! ## The accumulators after a list of passes -/

/-- One value per group and cell, laid out as the accumulators are. -/
def accTable (b : SliceBits) (f : Nat → Nat × Nat → Int) : List (List Int) := b.groups.map fun g => b.cells.map (f g)

theorem passAdd_accTable (b : SliceBits) (f : Nat → Nat × Nat → Int) (p : Nat × Nat) :
    passAdd b (accTable b f) p = accTable b fun g c => f g c + passTerm b g c.1 c.2 p.1 p.2 := by
  simp only [passAdd, accTable, List.zip, List.map_zipWith, List.zipWith_map_left, List.zipWith_self, List.map_map, Function.comp_def]

theorem foldl_passAdd_accTable (b : SliceBits) (ps : List (Nat × Nat)) (f : Nat → Nat × Nat → Int) :
    ps.foldl (passAdd b) (accTable b f) =
      accTable b fun g c => f g c + (ps.map fun p => passTerm b g c.1 c.2 p.1 p.2).sum := by
  induction ps generalizing f with
  | nil => simp
  | cons p ps ih => simp only [List.foldl_cons, passAdd_accTable, ih, List.map_cons, List.sum_cons, add_assoc]

/-- Each accumulator holds the sum of the terms of the passes made (R55). -/
theorem accAfter_eq_accTable (b : SliceBits) (ps : List (Nat × Nat)) :
    accAfter b ps = accTable b fun g c => (ps.map fun p => passTerm b g c.1 c.2 p.1 p.2).sum :=
  (foldl_passAdd_accTable b ps fun _ _ => 0).trans (by simp only [zero_add])

/-- The order of the passes does not change the sum (R59). -/
theorem accAfter_perm (b : SliceBits) {ps qs : List (Nat × Nat)} (h : ps.Perm qs) : accAfter b ps = accAfter b qs := by
  simp only [accAfter_eq_accTable, (h.map _).sum_eq]

/-! ## The passes of a slice are all the plane pairs, each once (R57, R58) -/

/-- The passes whose planes have places of sum `s`, by descending activation plane. -/
def diagonal (a w s : Nat) : List (Nat × Nat) :=
  (List.range a).reverse.filterMap fun i => if i ≤ s && s - i < w then some (i, s - i) else none

theorem passOrder_eq_flatMap (a w : Nat) : passOrder a w = (List.range (a + w - 1)).reverse.flatMap (diagonal a w) := rfl

theorem mem_diagonal {a w s : Nat} {p : Nat × Nat} : p ∈ diagonal a w s ↔ p.1 < a ∧ p.2 < w ∧ p.1 + p.2 = s := by
  obtain ⟨i, j⟩ := p
  simp only [diagonal, List.mem_filterMap, List.mem_reverse, List.mem_range, Bool.and_eq_true, decide_eq_true_eq,
    Option.ite_none_right_eq_some, Option.some.injEq, Prod.mk.injEq]
  constructor
  · rintro ⟨x, hx, ⟨hs, hw⟩, rfl, rfl⟩
    omega
  · rintro ⟨hi, hj, rfl⟩
    exact ⟨i, hi, by omega, rfl, by omega⟩

theorem mem_passOrder {a w : Nat} {p : Nat × Nat} : p ∈ passOrder a w ↔ p.1 < a ∧ p.2 < w := by
  simp only [passOrder_eq_flatMap, List.mem_flatMap, mem_diagonal, List.mem_reverse, List.mem_range]
  constructor
  · rintro ⟨s, -, hi, hj, -⟩
    exact ⟨hi, hj⟩
  · rintro ⟨hi, hj⟩
    exact ⟨p.1 + p.2, by omega, hi, hj, rfl⟩

theorem diagonal_nodup (a w s : Nat) : (diagonal a w s).Nodup := by
  refine List.Nodup.filterMap (fun i i' p hi hi' => ?_) (List.nodup_reverse.2 List.nodup_range)
  simp only [Option.mem_def, Option.ite_none_right_eq_some, Option.some.injEq] at hi hi'
  exact congrArg Prod.fst (hi.2.trans hi'.2.symm)

theorem passOrder_nodup (a w : Nat) : (passOrder a w).Nodup := by
  rw [passOrder_eq_flatMap]
  refine List.nodup_flatMap.2 ⟨fun s _ => diagonal_nodup a w s, ?_⟩
  refine (List.nodup_reverse.2 List.nodup_range).imp fun {s t} hne p hs ht => hne ?_
  obtain ⟨-, -, sum_eq_s⟩ := mem_diagonal.1 hs
  obtain ⟨-, -, sum_eq_t⟩ := mem_diagonal.1 ht
  exact sum_eq_s.symm.trans sum_eq_t

theorem sum_passOrder (a w : Nat) (f : Nat → Nat → Int) :
    ((passOrder a w).map fun p => f p.1 p.2).sum = ∑ i ∈ Finset.range a, ∑ j ∈ Finset.range w, f i j := by
  have pairs : (passOrder a w).toFinset = Finset.range a ×ˢ Finset.range w := by
    ext p
    simp only [List.mem_toFinset, mem_passOrder, Finset.mem_product, Finset.mem_range]
  rw [← List.sum_toFinset _ (passOrder_nodup a w), pairs, Finset.sum_product]

/-! ## The term of one pass, position by position -/

/-- The weight of plane `i` of an operand of `b` planes (R47). -/
def planeWeight (kind b i : Nat) : Int := (if planeNeg kind b i then -1 else 1 : Int) * (2 ^ i : Nat)

/-- What plane `i` adds to the value of the element at position `k`: its weight where the bit of its line is set (R47). -/
def planeValue (kind b i line k : Nat) : Int := if bitAt line k then planeWeight kind b i else 0

/-- The value of a binary element: its bit as +1 or -1 (R47). -/
def binaryValue (line k : Nat) : Int := if bitAt line k then 1 else -1

theorem passSign_eq_mul (b : SliceBits) (i j : Nat) :
    passSign b i j = (if planeNeg b.aKind b.a i then -1 else 1) * (if planeNeg b.wKind b.w j then -1 else 1) := by
  unfold passSign
  cases planeNeg b.aKind b.a i <;> cases planeNeg b.wKind b.w j <;> rfl

theorem passWeight_eq_mul (b : SliceBits) (i j : Nat) :
    passSign b i j * (2 ^ (i + j) : Nat) = planeWeight b.aKind b.a i * planeWeight b.wKind b.w j := by
  rw [passSign_eq_mul, pow_add, Nat.cast_mul, mul_mul_mul_comm, planeWeight, planeWeight]

/-- A pass multiplies the two planes' parts of the elements and adds over the group (R55). -/
theorem passTerm_eq_sum (b : SliceBits) (g m n i j : Nat) (hkind : b.aKind ≠ 2) :
    passTerm b g m n i j = ∑ k ∈ Finset.range 128, if bitAt g k then
      planeValue b.aKind b.a i (b.aBits m n i) k * planeValue b.wKind b.w j (b.wBits n j) k else 0 := by
  rw [passTerm, if_neg hkind, passWeight_eq_mul, popBits_eq_sum, Finset.mul_sum]
  refine Finset.sum_congr rfl fun k _ => ?_
  rw [planeValue, planeValue, ite_zero_mul_ite_zero, ← ite_and, mul_ite, mul_one, mul_zero]
  simp only [bitAt_and, Bool.and_eq_true, and_comm]

/-- XNOR is the product of binary elements (R56). -/
theorem binaryValue_xnor (x y : Nat) {w k : Nat} (hk : k < w) :
    binaryValue (x ^^^ y ^^^ (2 ^ w - 1)) k = binaryValue x k * binaryValue y k := by
  simp only [binaryValue, bitAt_xor, bitAt_ones, hk, decide_true]
  cases bitAt x k <;> cases bitAt y k <;> rfl

/-- Twice the set bits of the group less its positions is the sum of the bits as +1 and -1 (R56). -/
theorem two_mul_popBits_sub (w x g : Nat) :
    2 * (popBits w (x &&& g) : Int) - popBits w g = ∑ k ∈ Finset.range w, if bitAt g k then binaryValue x k else 0 := by
  rw [popBits_eq_sum, popBits_eq_sum, Finset.mul_sum, ← Finset.sum_sub_distrib]
  refine Finset.sum_congr rfl fun k _ => ?_
  rw [bitAt_and, binaryValue]
  cases bitAt g k <;> cases bitAt x k <;> rfl

/-- The XNOR pass multiplies the two binary elements and adds over the group (R56). -/
theorem passTerm_binary_eq_sum (b : SliceBits) (g m n i j : Nat) (hkind : b.aKind = 2) :
    passTerm b g m n i j = ∑ k ∈ Finset.range 128, if bitAt g k then
      binaryValue (b.aBits m n i) k * binaryValue (b.wBits n j) k else 0 := by
  rw [passTerm, if_pos hkind, two_mul_popBits_sub]
  exact Finset.sum_congr rfl fun k hk => by rw [binaryValue_xnor _ _ (Finset.mem_range.1 hk)]

/-! ## The sum of the passes is the dot product -/

/-- The passes of a slice add up, for a group and a cell, to the products of the elements, each the sum of its planes' parts (R59). -/
theorem sum_passTerm_eq_dot (b : SliceBits) (g m n : Nat) (hkind : b.aKind ≠ 2) :
    ((passOrder b.a b.w).map fun p => passTerm b g m n p.1 p.2).sum =
      ∑ k ∈ Finset.range 128, if bitAt g k then
        (∑ i ∈ Finset.range b.a, planeValue b.aKind b.a i (b.aBits m n i) k) *
          ∑ j ∈ Finset.range b.w, planeValue b.wKind b.w j (b.wBits n j) k
      else 0 := by
  rw [sum_passOrder b.a b.w (passTerm b g m n)]
  calc ∑ i ∈ Finset.range b.a, ∑ j ∈ Finset.range b.w, passTerm b g m n i j
      = ∑ i ∈ Finset.range b.a, ∑ j ∈ Finset.range b.w, ∑ k ∈ Finset.range 128, if bitAt g k then
          planeValue b.aKind b.a i (b.aBits m n i) k * planeValue b.wKind b.w j (b.wBits n j) k else 0 := by
        simp only [passTerm_eq_sum b g m n _ _ hkind]
    _ = ∑ k ∈ Finset.range 128, ∑ i ∈ Finset.range b.a, ∑ j ∈ Finset.range b.w, if bitAt g k then
          planeValue b.aKind b.a i (b.aBits m n i) k * planeValue b.wKind b.w j (b.wBits n j) k else 0 :=
        (Finset.sum_congr rfl fun _ _ => Finset.sum_comm).trans Finset.sum_comm
    _ = _ := by
        refine Finset.sum_congr rfl fun k _ => ?_
        split
        · rw [Finset.sum_mul_sum]
        · simp only [Finset.sum_const_zero]

theorem passOrder_one_one : passOrder 1 1 = [(0, 0)] := by decide

/-- Settles O11: the accumulators are the sums of the passes' terms, each term is a sum over positions, and exchanging the sums over
planes and over positions leaves the product of the elements. -/
theorem passesSumToTheDotProduct : Obligations.PassesSumToTheDotProduct := by
  unfold Obligations.PassesSumToTheDotProduct
  refine ⟨fun b hkind => ?_, fun b hkind ha hw => ?_, fun b ps h => accAfter_perm b h⟩
  · simp only [accAfter_eq_accTable, sum_passTerm_eq_dot b _ _ _ hkind, accTable, sum_map_range, planeValue, planeWeight]
  · simp only [accAfter_eq_accTable, ha, hw, passOrder_one_one, List.map_cons, List.map_nil, List.sum_singleton,
      passTerm_binary_eq_sum b _ _ _ _ _ hkind, accTable, sum_map_range, binaryValue]

end Sys2Proof.Machine
end

section
/-!
The skim rail: what a switch that is not confirmed does to a layer that waits for it (R143), and what firmware does to a die's rail
(R133). Each command is stated once, for a core or die that exists.
-/

namespace Sys2Proof.Machine

/-! ## A part that exists is acted on -/

@[simp] theorem onCore_of_lt {c : Nat} (h : c < Config.nCores) (o : Out) : onCore c o = o := if_pos h

@[simp] theorem onDie_of_lt {d : Nat} (h : d < Config.nDies) (o : Out) : onDie d o = o := if_pos h

/-! ## An event does not move the clock -/

@[simp] theorem pushEvent_refCount (s : State) (c : Nat) (r : FaultRec) : (pushEvent s c r).refCount = s.refCount :=
  setCore_refCount s c _

/-! ## Switches that are not confirmed (R143) -/

/-- The event is raised, its time is kept for the count of a day (R445), and the layer goes on past the switch. -/
theorem exec_skimDownUnconfirmed {s : State} {core : Nat} {j : Job} (hcore : core < Config.nCores)
    (hjob : railJob (getCore s core) .railDown = some j) :
    exec (.skimDownUnconfirmed core) s = .next (runJob (modCore (pushEvent s core (mkRec s core
        { code := cSkimFail, unit := uPress, addr := 0, detail := 0 } j.idx j.tag true)) core fun co =>
      { co with skimFails := co.skimFails ++ [s.refCount.toNat] }) core .press { j with micros := j.micros.drop 1 }) := by
  change execSkimDownUnconfirmed core s = _
  simp only [execSkimDownUnconfirmed, hcore, hjob, onCore_of_lt, pushEvent_refCount]

/-- The layer faults. -/
theorem exec_skimBackUnconfirmed {s : State} {core : Nat} {j : Job} (hcore : core < Config.nCores)
    (hjob : railJob (getCore s core) .railBack = some j) :
    exec (.skimBackUnconfirmed core) s =
      .next (raiseFault s core .press j.idx { code := cSkimFail, unit := uPress, addr := 0, detail := 1 }) := by
  change execSkimBackUnconfirmed core s = _
  simp only [execSkimBackUnconfirmed, hcore, hjob, onCore_of_lt]

/-! ## The rail of a die (R133) -/

/-- A value of the rail's range on its grid is taken, and the rail begins to settle. -/
theorem exec_skimRailSet {s : State} {die mv : Nat} (hdie : die < Config.nDies) (hlow : 480 ≤ mv) (hhigh : mv ≤ 600)
    (hgrid : mv % 20 = 0) :
    exec (.skimRailSet die mv) s = .next (setDie s die { getDie s die with skimMv := mv, skimSettling := true }) := by
  change execSkimRailSet die mv s = _
  have hmv : (480 ≤ mv && mv ≤ 600 && mv % 20 = 0 : Bool) = true := by simp [hlow, hhigh, hgrid]
  rw [execSkimRailSet, onDie_of_lt hdie, if_pos hmv, modDie]

theorem exec_skimRailSettled {s : State} {die : Nat} (hdie : die < Config.nDies) :
    exec (.skimRailSettled die) s = .next (setDie s die { getDie s die with skimSettling := false }) := by
  change execSkimRailSettled die s = _
  rw [execSkimRailSettled, onDie_of_lt hdie, modDie]

/-- Settles O25: the effect of each of the four commands, one lemma each; the time kept with the event is that before the event,
because an event does not move the clock. -/
theorem skimRailsSwitch : Obligations.SkimRailsSwitch := by
  unfold Obligations.SkimRailsSwitch
  exact fun s core die mv j => ⟨exec_skimDownUnconfirmed, exec_skimBackUnconfirmed, exec_skimRailSet, exec_skimRailSettled⟩

end Sys2Proof.Machine
end

section
/-!
Arrivals at a hoop (R217, R250 to R255, R258): each command hands the next arrival to one operation, and each operation is stated once
for every verdict of the hoop and every state of the row or queue that the arrival is for.
-/

namespace Sys2Proof.Machine

/-- The hoop that an arrival names. -/
abbrev arrivalHoop (s : State) (core : Nat) (a : Arrival) : Hoop := tget (getCore s core).hoops a.hoop Hoop.reset

/-- The store row that an arrival is for. -/
abbrev hoopRow (s : State) (core : Nat) (a : Arrival) : Nat :=
  storeRow core (arrivalHoop s core a).store ((arrivalHoop s core a).base + a.row)

/-- The verdict of its hoop on an arrival. -/
abbrev arrivalCheck (s : State) (core : Nat) (a : Arrival) : HoopCheck :=
  hoopCheck (getCore s core) a.hoop a.source a.kind a.row 1

/-! ## The commands hand the next arrival to its operation -/

section
variable {s : State} {core k : Nat} {a : Arrival} (hcore : core < Config.nCores) (hnext : nextArrival (getCore s core) k = some a)
include hcore hnext

theorem exec_remoteWriteArrival (hkind : a.kind = .write) :
    exec (.remoteWriteArrival core k) s = .next (arriveWrite s core k a) := by
  change execRemoteWriteArrival core k s = _
  simp only [execRemoteWriteArrival, onCore_of_lt hcore, hnext, if_pos hkind]

theorem exec_reduceAddArrival (hkind : a.kind = .addF32 ∨ a.kind = .addI32) :
    exec (.reduceAddArrival core k) s = .next (arriveAdd s core k a) := by
  change execReduceAddArrival core k s = _
  simp only [execReduceAddArrival, onCore_of_lt hcore, hnext, if_pos hkind]

theorem exec_signalArrival {v : Nat} (hkind : a.kind = .signal v) :
    exec (.signalArrival core k) s = .next (arriveSignal s core k a v) := by
  change execSignalArrival core k s = _
  simp only [execSignalArrival, onCore_of_lt hcore, hnext, hkind]

theorem exec_remoteRead (hkind : a.kind = .read) : exec (.remoteRead core k) s = .next (arriveRead s core k a) := by
  change execRemoteRead core k s = _
  simp only [execRemoteRead, onCore_of_lt hcore, hnext, if_pos hkind]

end

/-! ## Arrivals that the hoop accepts -/

/-- Dropping an arrival changes no word of the memory, so a read finds there what it would have found before. -/
@[simp] theorem readVerdict_modCore (s : State) (c : Nat) (f : Core → Core) (row used : Nat) :
    readVerdict (modCore s c f) row used = readVerdict s row used := rfl

@[simp] theorem isFull_modCore (s : State) (c : Nat) (f : Core → Core) (row : Nat) : isFull (modCore s c f) row = isFull s row := rfl

@[simp] theorem rdBytes_modCore (s : State) (c : Nat) (f : Core → Core) (x n : Nat) : rdBytes (modCore s c f) x n = rdBytes s x n := rfl

section
variable {s : State} {core k : Nat} {a : Arrival} (hok : arrivalCheck s core a = .ok)
include hok

theorem arriveWrite_of_free (hheld : heldAny (getCore s core) (hoopRow s core a) = false)
    (hfree : (arrivalHoop s core a).wrOver = true ∨ isFull s (hoopRow s core a) = false) :
    arriveWrite s core k a = answerApplied (modCore (setTag (putRow s (hoopRow s core a) a.data wholeMask).1 (hoopRow s core a) true) core
      fun co => modHoop (dropArrival co k) a.hoop fun h => { h with counter := h.counter + 1 }) a := by
  have hpass : (heldAny (getCore s core) (hoopRow s core a) ||
      (!(arrivalHoop s core a).wrOver && isFull s (hoopRow s core a))) = false := by
    rcases hfree with hover | hempty
    · simp only [hheld, hover, Bool.not_true, Bool.false_and, Bool.or_false]
    · simp only [hheld, hempty, Bool.and_false, Bool.or_false]
  simp only [arriveWrite, hok, arrivalRow, hpass, Bool.false_eq_true, if_false]

theorem arriveWrite_of_taken (htaken : heldAny (getCore s core) (hoopRow s core a) = true ∨
      ((arrivalHoop s core a).wrOver = false ∧ isFull s (hoopRow s core a) = true)) :
    arriveWrite s core k a = modCore s core fun co => waitAtPort co k a := by
  have hstop : (heldAny (getCore s core) (hoopRow s core a) ||
      (!(arrivalHoop s core a).wrOver && isFull s (hoopRow s core a))) = true := by
    rcases htaken with hheld | ⟨hkeep, hfull⟩
    · simp only [hheld, Bool.true_or]
    · simp only [hkeep, hfull, Bool.not_false, Bool.and_true, Bool.or_true]
  simp only [arriveWrite, hok, arrivalRow, hstop, if_true]

theorem arriveAdd_of_room (hroom : queueRoom (getCore s core) ((arrivalHoop s core a).base + a.row) = true) :
    arriveAdd s core k a = modCore s core fun co => { dropArrival co k with
      cq := (dropArrival co k).cq ++ [{ row := (arrivalHoop s core a).base + a.row, data := a.data, isInt := a.kind == .addI32,
                                        owner := .arrival a.hoop a.sender }] } := by
  simp only [arriveAdd, hok, arrivalRow, hroom, Bool.not_true, Bool.false_eq_true, if_false]

theorem arriveAdd_of_no_room (hroom : queueRoom (getCore s core) ((arrivalHoop s core a).base + a.row) = false) :
    arriveAdd s core k a = modCore s core fun co => waitAtPort co k a := by
  simp only [arriveAdd, hok, arrivalRow, hroom, Bool.not_false, if_true]

theorem arriveSignal_of_ok (v : Nat) :
    arriveSignal s core k a v = answerApplied (modCore s core fun co =>
      modHoop (dropArrival co k) a.hoop fun h => { h with counter := h.counter + BitVec.ofNat 32 v }) a := by
  simp only [arriveSignal, hok]

theorem arriveRead_of_sound (hfull : isFull s (hoopRow s core a) = true)
    (hheld : heldAny (getCore s core) (hoopRow s core a) = false) (hverdict : readVerdict s (hoopRow s core a) 255 = none) :
    arriveRead s core k a = answerRead (modCore
        (if (arrivalHoop s core a).rdTake then
          setTag (checkRead (modCore s core fun co => dropArrival co k) (hoopRow s core a) 255) (hoopRow s core a) false
         else checkRead (modCore s core fun co => dropArrival co k) (hoopRow s core a) 255) core
        fun co => modHoop co a.hoop fun h => { h with counter := h.counter + 1 })
      core a (.row (rdBytes s (hoopRow s core a * 512) 512)) := by
  simp only [arriveRead, hok, isFull_modCore, readVerdict_modCore, rdBytes_modCore, hfull, hheld, hverdict, Bool.not_true,
    Bool.or_false, Bool.false_eq_true, if_false]

theorem arriveRead_of_bad {code mask : Nat} (hfull : isFull s (hoopRow s core a) = true)
    (hheld : heldAny (getCore s core) (hoopRow s core a) = false)
    (hverdict : readVerdict s (hoopRow s core a) 255 = some (code, mask)) :
    arriveRead s core k a = answerRead (checkRead (modCore s core fun co => dropArrival co k) (hoopRow s core a) 255) core a
      (.refused code mask) := by
  simp only [arriveRead, hok, isFull_modCore, readVerdict_modCore, hfull, hheld, hverdict, Bool.not_true, Bool.or_false,
    Bool.false_eq_true, if_false]

theorem arriveRead_of_not_ready (hwait : isFull s (hoopRow s core a) = false ∨ heldAny (getCore s core) (hoopRow s core a) = true) :
    arriveRead s core k a = answerRead (modCore s core fun co => dropArrival co k) core a .notReady := by
  have hstop : (!(isFull s (hoopRow s core a)) || heldAny (getCore s core) (hoopRow s core a)) = true := by
    rcases hwait with hempty | hheld
    · simp only [hempty, Bool.not_false, Bool.true_or]
    · simp only [hheld, Bool.or_true]
  simp only [arriveRead, hok, isFull_modCore, hstop, if_true]

end

/-! ## Arrivals that the hoop does not accept -/

section
variable {s : State} {core k : Nat} {a : Arrival} (hbad : arrivalCheck s core a ≠ .ok)
include hbad

theorem arriveWrite_of_not_ok : arriveWrite s core k a = refuseArrival s core k a (arrivalCheck s core a) := by
  unfold arriveWrite
  dsimp only
  split
  · contradiction
  · rfl

theorem arriveAdd_of_not_ok : arriveAdd s core k a = refuseArrival s core k a (arrivalCheck s core a) := by
  unfold arriveAdd
  dsimp only
  split
  · contradiction
  · rfl

theorem arriveSignal_of_not_ok (v : Nat) : arriveSignal s core k a v = refuseArrival s core k a (arrivalCheck s core a) := by
  unfold arriveSignal
  dsimp only
  split
  · contradiction
  · rfl

theorem arriveRead_of_code {code : Nat} (hcode : checkCode (arrivalCheck s core a) = some code) :
    arriveRead s core k a = answerRead
      (countRefused (modCore s core fun co => dropArrival co k) core a.hoop (arrivalCheck s core a)) core a (.refused code 0) := by
  unfold arriveRead
  dsimp only
  split
  · contradiction
  · rw [hcode]

theorem arriveRead_of_no_code (hcode : checkCode (arrivalCheck s core a) = none) :
    arriveRead s core k a = countRefused (modCore s core fun co => dropArrival co k) core a.hoop (arrivalCheck s core a) := by
  unfold arriveRead
  dsimp only
  split
  · contradiction
  · rw [hcode]

end

/-! ## The verdicts, and what each counts and answers (R255, R257) -/

section
variable {co : Core} {hoop row n : Nat} {source : ArrSource} {kind : ArrKind}

theorem hoopCheck_of_closed (hopen : (tget co.hoops hoop Hoop.reset).isOpen = false) :
    hoopCheck co hoop source kind row n = .closed := by
  simp only [hoopCheck, hopen, Bool.not_false, if_true]

/-- An open hoop turns an arrival away for its source, its kind or its row, or because it has fenced its source (R258). -/
theorem hoopCheck_of_open (hopen : (tget co.hoops hoop Hoop.reset).isOpen = true) :
    hoopCheck co hoop source kind row n = .ok ∨ hoopCheck co hoop source kind row n = .refused none ∨
      hoopCheck co hoop source kind row n = .refused (some cProt) := by
  simp only [hoopCheck, hopen, Bool.not_true, Bool.false_eq_true, if_false]
  split
  · exact .inr (.inr rfl)
  split
  · exact .inr (.inl rfl)
  split
  · exact .inr (.inr rfl)
  split
  · exact .inr (.inr rfl)
  · exact .inl rfl

end

section
variable (s : State) (core k : Nat) (a : Arrival)

theorem refuseArrival_closed :
    refuseArrival s core k a .closed = answerRefused (modCore (modCore s core fun co => dropArrival co k) core
      fun co => { co with hoopRefused := satInc 16 co.hoopRefused }) core a cHoopClosed 0 := rfl

theorem refuseArrival_code (code : Nat) :
    refuseArrival s core k a (.refused (some code)) = answerRefused (modCore (modCore s core fun co => dropArrival co k) core
      fun co => modHoop co a.hoop fun h => { h with refused := satInc 16 h.refused }) core a code 0 := rfl

theorem refuseArrival_fenced :
    refuseArrival s core k a (.refused none) = modCore (modCore s core fun co => dropArrival co k) core
      fun co => modHoop co a.hoop fun h => { h with refused := satInc 16 h.refused } := rfl

end

/-- Settles O27: each command hands its arrival to one operation, which the lemmas above state for every case of an accepted arrival
and for every verdict on one that is not. -/
theorem hoopArrivals : Obligations.HoopArrivals := by
  unfold Obligations.HoopArrivals
  refine ⟨?_, ?_⟩
  · rintro s core k _ a _ ⟨hcore, hnext, hok⟩ rfl rfl
    refine ⟨fun hkind hheld hfree => ?_, fun hkind htaken => ?_, fun hkind hroom => ?_, fun hkind hroom => ?_, fun v hkind => ?_,
      fun hkind hfull hheld hverdict => ?_, fun code mask hkind hfull hheld hverdict => ?_, fun hkind hwait => ?_⟩
    · rw [exec_remoteWriteArrival hcore hnext hkind, arriveWrite_of_free hok hheld hfree]
    · rw [exec_remoteWriteArrival hcore hnext hkind, arriveWrite_of_taken hok htaken]
    · rw [exec_reduceAddArrival hcore hnext hkind, arriveAdd_of_room hok hroom]
    · rw [exec_reduceAddArrival hcore hnext hkind, arriveAdd_of_no_room hok hroom]
    · rw [exec_signalArrival hcore hnext hkind, arriveSignal_of_ok hok]
    · rw [exec_remoteRead hcore hnext hkind, arriveRead_of_sound hok hfull hheld hverdict]
    · rw [exec_remoteRead hcore hnext hkind, arriveRead_of_bad hok hfull hheld hverdict]
    · rw [exec_remoteRead hcore hnext hkind, arriveRead_of_not_ready hok hwait]
  · rintro s core k a chk hcore hnext rfl hbad
    refine ⟨fun hkind => ?_, fun hkind => ?_, fun v hkind => ?_, fun code hkind hcode => ?_, fun hkind hcode => ?_,
      hoopCheck_of_closed, fun hopen => (hoopCheck_of_open hopen).resolve_left hbad, fun hchk => ?_, fun code hchk => ?_, fun hchk => ?_⟩
    · rw [exec_remoteWriteArrival hcore hnext hkind, arriveWrite_of_not_ok hbad]
    · rw [exec_reduceAddArrival hcore hnext hkind, arriveAdd_of_not_ok hbad]
    · rw [exec_signalArrival hcore hnext hkind, arriveSignal_of_not_ok hbad]
    · rw [exec_remoteRead hcore hnext hkind, arriveRead_of_code hbad hcode]
    · rw [exec_remoteRead hcore hnext hkind, arriveRead_of_no_code hbad hcode]
    · rw [hchk, refuseArrival_closed, cHoopClosed]
    · rw [hchk, refuseArrival_code]
    · rw [hchk, refuseArrival_fenced]

end Sys2Proof.Machine
end

section
/-!
Conflict entries and reducer contributions (R97, R99, R114, R218, R220, R347, R429): what an entry that retires leaves, one lemma for
each owner, and what the reducer does with a contribution that reaches it.
-/

namespace Sys2Proof.Machine

/-! ## The conflict queue -/

theorem exec_conflictQueueRetire {s : State} {core k : Nat} {e : CqEntry} (hcore : core < Config.nCores)
    (hfirst : retireIndex s core (getCore s core) = some k) (hentry : (getCore s core).cq[k]? = some e) :
    exec (.conflictQueueRetire core) s = .next (retireOne s core k e) := by
  change execConflictQueueRetire core s = _
  simp only [execConflictQueueRetire, onCore_of_lt hcore, hfirst, hentry]

/-- The row of an entry with the entry's elements added, and whether a sum saturated. -/
abbrev entrySum (s : State) (core : Nat) (e : CqEntry) : List Byte × Bool :=
  addRows e.isInt (rdBytes s (storeRow core 2 e.row * 512) 512) e.data

/-- The state once entry `k` has left the queue and the sum stands in its row (R218). -/
abbrev writtenBack (s : State) (core k : Nat) (e : CqEntry) : State :=
  (putRow (modCore (checkRead s (storeRow core 2 e.row) 255) core fun co =>
    { co with cq := co.cq.take k ++ co.cq.drop (k + 1) }) (storeRow core 2 e.row) (entrySum s core e).1 wholeMask).1

section
variable {s : State} {core k : Nat} {e : CqEntry} (hread : readVerdict s (storeRow core 2 e.row) 255 = none)
include hread

/-- A reduce-add is counted by its hoop and answered (R220). -/
theorem retireOne_of_arrival {hoop : Nat} {sender : Sender} (howner : e.owner = .arrival hoop sender)
    (hsat : (entrySum s core e).2 = false) :
    retireOne s core k e = answerApplied
      (modCore (writtenBack s core k e) core fun co => modHoop co hoop fun h => { h with counter := h.counter + 1 })
      (entryArrival (getCore s core) e hoop sender) := by
  simp only [retireOne, howner, ownEntry, Bool.false_and, hread, hsat, Bool.false_eq_true, if_false]

/-- A row of a spill is held for its layer (R99). -/
theorem retireOne_of_press {idx : Nat} (howner : e.owner = .press idx) (hhoop : inOpenHoop (getCore s core) 2 e.row = false) :
    retireOne s core k e = modCore (writtenBack s core k e) core fun co => addHold co (storeRow core 2 e.row) .press idx := by
  simp only [retireOne, howner, hhoop, Bool.and_false, hread, Bool.false_eq_true, if_false]

/-- A row of a scatter is held for its move, which counts it (R99). -/
theorem retireOne_of_scatter {idx : Nat} (howner : e.owner = .scatter idx) (hhoop : inOpenHoop (getCore s core) 2 e.row = false)
    (hsat : (entrySum s core e).2 = false) :
    retireOne s core k e = modJob (modCore (writtenBack s core k e) core fun co => addHold co (storeRow core 2 e.row) .cdma idx) core
      .cdma idx fun j => { j with applied := j.applied + 1 } := by
  simp only [retireOne, howner, hhoop, Bool.and_false, hread, hsat, Bool.false_eq_true, if_false]

end

/-! ## The reducer -/

/-- The die without contribution `k` of those on their way to its reducer. -/
abbrev withoutTransit (d : Die) (k : Nat) : Die := { d with transit := d.transit.take k ++ d.transit.drop (k + 1) }

/-- Where a contribution differs from the set that is open for it on the die. -/
abbrev setDiffers (d : Die) (c : Contribution) : Option Nat :=
  (d.sets.find? (isSet c.part c.aux c.dieResult.isSome)).bind fun x => redDiffers c.dieResult.isSome c.aux c.desc x.aux x.desc

section
variable {s : State} {die k : Nat} {c : Contribution} (hdie : die < Config.nDies) (harrives : (getDie s die).transit[k]? = some c)
  (hfirst : ((getDie s die).transit.take k).any (sameStream c) = false) (hroom : reducerRoom s die c.part ≠ .full)
include hdie harrives hfirst hroom

/-- A contribution that agrees with its set is taken (R114). -/
theorem exec_reducerContribution_of_agrees (hagrees : setDiffers (getDie s die) c = none) :
    exec (.reducerContribution die k) s = .next (takeRow (setDie s die (withoutTransit (getDie s die) k)) die c
      (if reducerRoom s die c.part = .commonPart then 1 else 0)) := by
  change execReducerContribution die k s = _
  simp only [execReducerContribution, onDie_of_lt hdie, harrives, hfirst, hroom, hagrees, Bool.false_eq_true, decide_false,
    Bool.or_false, if_false]

/-- One that differs from its set faults the move that sent it (R347). -/
theorem exec_reducerContribution_of_differs {p : Nat} {j : Job} (hdiffers : setDiffers (getDie s die) c = some p)
    (hissued : isIssued (getCore s c.core) c.idx = true) (hjob : findJob (getCore s c.core) .cdma c.idx = some j) :
    exec (.reducerContribution die k) s = .next (raiseFault (setDie s die (withoutTransit (getDie s die) k)) c.core .cdma c.idx
      { code := cLayerField, unit := senderUnit (getCore s c.core) .cdma c.idx, addr := fld j.entry 48 48, detail := p }) := by
  change execReducerContribution die k s = _
  simp only [execReducerContribution, onDie_of_lt hdie, harrives, hfirst, hroom, hdiffers, getCore_setDie, hjob, hissued,
    Option.isSome_some, Bool.not_true, Bool.false_eq_true, decide_false, Bool.or_false, if_true, if_false]

end

/-- Settles O28: one lemma for each owner of an entry, and one each for a contribution that agrees with its set and one that differs. -/
theorem conflictEntriesAndContributions : Obligations.ConflictEntriesAndContributions := by
  unfold Obligations.ConflictEntriesAndContributions
  refine fun s core die k e c => ⟨exec_conflictQueueRetire, ?_, fun hdie harrives hfirst hroom => ⟨?_, fun p j => ?_⟩⟩
  · rintro _ _ _ rfl rfl hread rfl
    exact ⟨fun _ _ => retireOne_of_arrival hread, fun _ => retireOne_of_press hread, fun _ => retireOne_of_scatter hread⟩
  · exact exec_reducerContribution_of_agrees hdie harrives hfirst hroom
  · exact exec_reducerContribution_of_differs hdie harrives hfirst hroom

end Sys2Proof.Machine
end

section
/-!
The commands as a whole: what the laws of each operation say is put together over the commands, once for those of the units and once for
the others. The form of memory and the parts outside the units are properties of the two kinds that are kept.
-/

namespace Sys2Proof.Machine

variable {P : State → Prop} {c : Instr} {s : State}

/-- A command of the units keeps what their writes keep. -/
theorem exec_unitCommand_has (hP : UnitClosed P) (hunit : unitCommand c = true) : P s → Out.Has P (exec c s) := by
  cases c with
  | listStart _ => exact execListStart_has hP
  | listFetchReturn _ _ => exact execListFetchReturn_has hP
  | runLayer _ => exact execRunLayer_has hP
  | skimDownUnconfirmed _ => exact execSkimDownUnconfirmed_has hP
  | skimBackUnconfirmed _ => exact execSkimBackUnconfirmed_has hP
  | moveCopy _ => exact execMoveCopy_has hP
  | moveCompress _ => exact execMoveCompress_has hP
  | moveZeroRunStore _ => exact execMoveZeroRunStore_has hP
  | moveMaskTranspose _ => exact execMoveMaskTranspose_has hP
  | moveScatterAdd _ => exact execMoveScatterAdd_has hP
  | moveReduceContribution _ => exact execMoveReduceContribution_has hP
  | moveSelectiveFetch _ => exact execMoveSelectiveFetch_has hP
  | dieDmaMoveStart _ => exact execDieDmaMoveStart_has hP
  | moveComplete _ _ => exact execMoveComplete_has hP
  | hbmWriteAck _ _ => exact execHbmWriteAck_has hP
  | fill _ => exact execFill_has hP
  | markEmpty _ => exact execMarkEmpty_has hP
  | markFull _ => exact execMarkFull_has hP
  | copy _ => exact execCopy_has hP
  | rowEngineComplete _ => exact execRowEngineComplete_has hP
  | waitCount _ => exact execWaitCount_has hP
  | waitCountMet _ => exact execWaitCountMet_has hP
  | waitTag _ => exact execWaitTag_has hP
  | waitTagMet _ => exact execWaitTagMet_has hP
  | signal _ => exact execSignal_has hP
  | signalSend _ => exact execSignalSend_has hP
  | openHoop _ => exact execOpenHoop_has hP
  | hoopOpened _ => exact execHoopOpened_has hP
  | closeHoop _ => exact execCloseHoop_has hP
  | closeHoopComplete _ => exact execCloseHoopComplete_has hP
  | histogramArm _ => exact execHistogramArm_has hP
  | histogramStop _ => exact execHistogramStop_has hP
  | histogramDump _ => exact execHistogramDump_has hP
  | histogramDumpAndClear _ => exact execHistogramDumpAndClear_has hP
  | turn _ => exact execTurn_has hP
  | turnCommitWrite _ => exact execTurnCommitWrite_has hP
  | branchOnCount _ => exact execBranchOnCount_has hP
  | branchDecrement _ => exact execBranchDecrement_has hP
  | loopLoad _ => exact execLoopLoad_has hP
  | quantise _ => exact execQuantise_has hP
  | scaleGradient _ => exact execScaleGradient_has hP
  | optimiserUpdate _ => exact execOptimiserUpdate_has hP
  | topK _ => exact execTopK_has hP
  | rowOperation _ => exact execRowOperation_has hP
  | vectorOpComplete _ => exact execVectorOpComplete_has hP
  | fsuJob _ => exact execFsuJob_has hP
  | fsuJobComplete _ => exact execFsuJobComplete_has hP
  | accessGrantAfterWait _ _ => exact execAccessGrantAfterWait_has hP
  | watchdogExpiry _ _ => exact execWatchdogExpiry_has hP
  | remoteWriteArrival _ _ => exact execRemoteWriteArrival_has hP
  | reduceAddArrival _ _ => exact execReduceAddArrival_has hP
  | signalArrival _ _ => exact execSignalArrival_has hP
  | remoteRead _ _ => exact execRemoteRead_has hP
  | remoteReadRetry _ _ => exact execRemoteReadRetry_has hP
  | conflictQueueRetire _ => exact execConflictQueueRetire_has hP
  | reducerContribution _ _ => exact execReducerContribution_has hP
  | ctuTranslationFill _ _ => exact execCtuTranslationFill_has hP
  | _ => contradiction

/-- A command outside the units keeps what holds of the queue, the form of memory and the rule of the stamp. The law of
`smbusAlertResponse` is given all its arguments: else its elaboration evaluates the alert conditions. -/
theorem exec_otherCommand_keeps (hC : CtlClosed P) (hother : unitCommand c = false) : P s → Out.Has P (exec c s) := by
  cases c with
  | endList _ => exact execEndList_keeps hC
  | layerDrainEnd _ => exact execLayerDrainEnd_keeps hC
  | turnDone _ => exact execTurnDone_keeps hC
  | scrubVisit _ _ => exact execScrubVisit_keeps hC
  | spareCopy _ _ _ => exact execSpareCopy_keeps hC
  | routeEntryFill _ _ => exact execRouteEntryFill_keeps hC
  | hbmPatrolScrub _ _ => exact execHbmPatrolScrub_keeps hC
  | hbmSoftRepair _ => exact execHbmSoftRepair_keeps hC
  | frameReceive _ _ => exact execFrameReceive_keeps hC
  | flitTransmit _ => exact execFlitTransmit_keeps hC
  | recordCloseEarly _ => exact execRecordCloseEarly_keeps hC
  | replayTimeout _ => exact execReplayTimeout_keeps hC
  | packetRoute _ _ => exact execPacketRoute_keeps hC
  | packetArrival _ _ => exact execPacketArrival_keeps hC
  | forwardTimeout _ _ => exact execForwardTimeout_keeps hC
  | appliedResponseSend _ => exact execAppliedResponseSend_keeps hC
  | appliedResponse _ => exact execAppliedResponse_keeps hC
  | refusedResponse _ => exact execRefusedResponse_keeps hC
  | unreachableResponse _ => exact execUnreachableResponse_keeps hC
  | readDataResponse _ => exact execReadDataResponse_keeps hC
  | notReadyResponse _ => exact execNotReadyResponse_keeps hC
  | managementMessage _ => exact execManagementMessage_keeps hC
  | lightDetected _ _ => exact execLightDetected_keeps hC
  | trainingComplete _ _ => exact execTrainingComplete_keeps hC
  | trainingFail _ => exact execTrainingFail_keeps hC
  | frameLockLost _ => exact execFrameLockLost_keeps hC
  | frameLockReturn _ => exact execFrameLockReturn_keeps hC
  | holdTimeout _ => exact execHoldTimeout_keeps hC
  | downRetrain _ => exact execDownRetrain_keeps hC
  | laneDegrade _ _ => exact execLaneDegrade_keeps hC
  | laneMove _ => exact execLaneMove_keeps hC
  | laneTest _ _ _ => exact execLaneTest_keeps hC
  | roleRequest _ => exact execRoleRequest_keeps hC
  | handover _ => exact execHandover_keeps hC
  | roleChangeover _ => exact execRoleChangeover_keeps hC
  | fenceRequest _ => exact execFenceRequest_keeps hC
  | fenceMarker _ _ => exact execFenceMarker_keeps hC
  | fenceTimeout _ => exact execFenceTimeout_keeps hC
  | laserInputLoss _ _ => exact execLaserInputLoss_keeps hC
  | pageZeroiseDone _ => exact execPageZeroiseDone_keeps hC
  | partitionPowerSample _ => exact execPartitionPowerSample_keeps hC
  | powerGating => exact execPowerGating_keeps hC
  | releaseDrainEnd _ => exact execReleaseDrainEnd_keeps hC
  | faultClassify _ => exact execFaultClassify_keeps hC
  | spareSelfTestDone _ _ => exact execSpareSelfTestDone_keeps hC
  | linkRetire _ => exact execLinkRetire_keeps hC
  | coreSelfTestDone _ _ => exact execCoreSelfTestDone_keeps hC
  | darkSpareDailyTest _ => exact execDarkSpareDailyTest_keeps hC
  | heartbeat _ => exact execHeartbeat_keeps hC
  | heartbeatLapse _ => exact execHeartbeatLapse_keeps hC
  | stampClaim _ _ => exact execStampClaim_keeps hC
  | assayCycle => exact execAssayCycle_keeps hC
  | standbyRelease _ => exact execStandbyRelease_keeps hC
  | hubControlWrite _ _ => exact execHubControlWrite_keeps hC
  | assayRequest _ => exact execAssayRequest_keeps hC
  | channelEnable _ _ => exact execChannelEnable_keeps hC
  | channelDisable _ => exact execChannelDisable_keeps hC
  | sqDoorbell _ _ _ => exact execSqDoorbell_keeps hC
  | cqDoorbell _ _ => exact execCqDoorbell_keeps hC
  | commandAccept _ => exact execCommandAccept_keeps hC
  | completionRecordWrite _ => exact execCompletionRecordWrite_keeps hC
  | ledgerAttach _ => exact execLedgerAttach_keeps hC
  | evqEnable _ => exact execEvqEnable_keeps hC
  | evqDisable => exact execEvqDisable_keeps hC
  | evqDoorbell _ => exact execEvqDoorbell_keeps hC
  | eventRecordWrite => exact execEventRecordWrite_keeps hC
  | alarmEnableWrite _ => exact execAlarmEnableWrite_keeps hC
  | assayStatusWrite _ value => exact execAssayStatusWrite_keeps (_value := value) hC
  | registerWrite _ _ => exact execRegisterWrite_keeps hC
  | bar2Read _ _ => exact execBar2Read_keeps hC
  | bar2Write _ _ => exact execBar2Write_keeps hC
  | perstAssert => exact execPerstAssert_keeps hC
  | perstDeassert _ => exact execPerstDeassert_keeps hC
  | hostLinkLoss => exact execHostLinkLoss_keeps hC
  | identify _ => exact execIdentify_keeps hC
  | queryLedger _ => exact execQueryLedger_keeps hC
  | queryCores _ => exact execQueryCores_keeps hC
  | readFault _ => exact execReadFault_keeps hC
  | createPartition _ => exact execCreatePartition_keeps hC
  | destroyPartition _ => exact execDestroyPartition_keeps hC
  | bindResources _ => exact execBindResources_keeps hC
  | releaseResources _ => exact execReleaseResources_keeps hC
  | moveResources _ => exact execMoveResources_keeps hC
  | queryPartition _ => exact execQueryPartition_keeps hC
  | startWork _ => exact execStartWork_keeps hC
  | preemptWork _ => exact execPreemptWork_keeps hC
  | resumeWork _ => exact execResumeWork_keeps hC
  | discardWork _ => exact execDiscardWork_keeps hC
  | openWindow _ => exact execOpenWindow_keeps hC
  | closeWindow _ => exact execCloseWindow_keeps hC
  | readRows _ => exact execReadRows_keeps hC
  | writeRows _ => exact execWriteRows_keeps hC
  | setModuleId _ => exact execSetModuleId_keeps hC
  | setRoutes _ => exact execSetRoutes_keeps hC
  | portDisable _ => exact execPortDisable_keeps hC
  | portEnable _ => exact execPortEnable_keeps hC
  | forwardingOff _ => exact execForwardingOff_keeps hC
  | forwardingOn _ => exact execForwardingOn_keeps hC
  | preferLeader _ => exact execPreferLeader_keeps hC
  | preferFollower _ => exact execPreferFollower_keeps hC
  | encryptionOff _ => exact execEncryptionOff_keeps hC
  | encryptionOn _ => exact execEncryptionOn_keeps hC
  | installKey _ => exact execInstallKey_keeps hC
  | laserRelease _ => exact execLaserRelease_keeps hC
  | laserRestore _ => exact execLaserRestore_keeps hC
  | setReproducible _ => exact execSetReproducible_keeps hC
  | voteCoreState _ => exact execVoteCoreState_keeps hC
  | voteDieState _ => exact execVoteDieState_keeps hC
  | votePhotonicState _ => exact execVotePhotonicState_keeps hC
  | voteModuleState _ => exact execVoteModuleState_keeps hC
  | voteOperatingPoint _ => exact execVoteOperatingPoint_keeps hC
  | voteWithdraw _ => exact execVoteWithdraw_keeps hC
  | requestPowerLimit _ => exact execRequestPowerLimit_keeps hC
  | requestThrottlePoint _ => exact execRequestThrottlePoint_keeps hC
  | readStatus _ => exact execReadStatus_keeps hC
  | clearStatus _ => exact execClearStatus_keeps hC
  | runTestCore _ => exact execRunTestCore_keeps hC
  | runTestLink _ => exact execRunTestLink_keeps hC
  | runTestStack _ => exact execRunTestStack_keeps hC
  | restartStandby _ => exact execRestartStandby_keeps hC
  | domainEntryBegin _ => exact execDomainEntryBegin_keeps hC
  | entryComplete _ => exact execEntryComplete_keeps hC
  | accessWake _ _ => exact execAccessWake_keeps hC
  | wakeComplete _ => exact execWakeComplete_keeps hC
  | pllLock _ => exact execPllLock_keeps hC
  | voltageReached _ => exact execVoltageReached_keeps hC
  | padRelease _ => exact execPadRelease_keeps hC
  | inputPowerSample _ _ _ _ => exact execInputPowerSample_keeps hC
  | powerTransientStep => exact execPowerTransientStep_keeps hC
  | powerSustainedStep => exact execPowerSustainedStep_keeps hC
  | powerCeilingRise => exact execPowerCeilingRise_keeps hC
  | sensorRead _ => exact execSensorRead_keeps hC
  | throttleRepeat _ => exact execThrottleRepeat_keeps hC
  | throttleRise _ => exact execThrottleRise_keeps hC
  | thermTrip _ _ => exact execThermTrip_keeps hC
  | coolantFault => exact execCoolantFault_keeps hC
  | coolantClear => exact execCoolantClear_keeps hC
  | supplyFault _ => exact execSupplyFault_keeps hC
  | vaonLoss => exact execVaonLoss_keeps hC
  | phaseFailOpen _ => exact execPhaseFailOpen_keeps hC
  | phaseSenseMismatch _ => exact execPhaseSenseMismatch_keeps hC
  | phaseStepRepeat _ => exact execPhaseStepRepeat_keeps hC
  | rindAlarm => exact execRindAlarm_keeps hC
  | smbusAddressMatch _ => exact execSmbusAddressMatch_keeps hC
  | aonRst _ => exact execAonRst_keeps hC
  | sysRst => exact execSysRst_keeps hC
  | bootBegin _ _ _ _ => exact execBootBegin_keeps hC
  | assayImageRead _ => exact execAssayImageRead_keeps hC
  | managementImageRead _ => exact execManagementImageRead_keeps hC
  | firmwareReady _ => exact execFirmwareReady_keeps hC
  | bootTimeout => exact execBootTimeout_keeps hC
  | debugUnlock _ => exact execDebugUnlock_keeps hC
  | spdmGetVersion _ => exact execSpdmGetVersion_keeps hC
  | spdmGetCapabilities _ => exact execSpdmGetCapabilities_keeps hC
  | spdmNegotiateAlgorithms _ => exact execSpdmNegotiateAlgorithms_keeps hC
  | spdmGetDigests _ => exact execSpdmGetDigests_keeps hC
  | spdmGetCertificate _ => exact execSpdmGetCertificate_keeps hC
  | spdmChallenge _ => exact execSpdmChallenge_keeps hC
  | spdmGetMeasurements _ => exact execSpdmGetMeasurements_keeps hC
  | smbIdentRead => exact execSmbIdentRead_keeps hC
  | smbStateRead => exact execSmbStateRead_keeps hC
  | smbLatchRead => exact execSmbLatchRead_keeps hC
  | smbLatchWrite _ _ => exact execSmbLatchWrite_keeps hC
  | smbTempRead => exact execSmbTempRead_keeps hC
  | smbPowerRead => exact execSmbPowerRead_keeps hC
  | smbAlarmRead => exact execSmbAlarmRead_keeps hC
  | smbAlertEnRead => exact execSmbAlertEnRead_keeps hC
  | smbAlertEnWrite _ _ => exact execSmbAlertEnWrite_keeps hC
  | smbNonceRead => exact execSmbNonceRead_keeps hC
  | smbusAlertResponse => exact @execSmbusAlertResponse_keeps P hC s
  | smbusTimeout => exact execSmbusTimeout_keeps hC
  | skimRailSet _ _ => exact execSkimRailSet_keeps hC
  | skimRailSettled _ => exact execSkimRailSettled_keeps hC
  | currentExceedsPhaseCapacity _ => exact execCurrentExceedsPhaseCapacity_keeps hC
  | vaonRise _ => exact execVaonRise_keeps hC
  | linkReachesL0 => exact execLinkReachesL0_keeps hC
  | _ => contradiction

theorem exec_keeps (hC : CtlClosed P) : P s → Out.Has P (exec c s) := by
  cases hunit : unitCommand c with
  | true => exact exec_unitCommand_has hC.unit hunit
  | false => exact exec_otherCommand_keeps hC hunit

/-- A step keeps what every command keeps, where taking a command from the queue keeps it too. -/
theorem step_keeps (hC : CtlClosed P) (hqueue : ∀ rest, P { s with pending := rest }) (hs : P s) : Out.Has P (step s) := by
  unfold step
  split
  · exact Out.next_has (idleTick_keeps hC hs)
  · exact exec_keeps hC (hqueue _)

theorem memoryOk_ctlClosed : CtlClosed MemoryOk := ⟨fun hs _ _ hmem => hmem hs⟩

/-- Settles O6: every write keeps the form of memory, and taking a command from the queue changes no cell. -/
theorem everyStepKeepsMemoryForm : Obligations.EveryStepKeepsMemoryForm := by
  unfold Obligations.EveryStepKeepsMemoryForm
  exact fun s t hs hstep => Out.of_next hstep (step_keeps memoryOk_ctlClosed (fun _ => hs) hs)

theorem unitCtl_eq_unitClosed (s₀ : State) : UnitClosed fun t => unitCtl t = unitCtl s₀ := ⟨fun hs hctl _ => hctl.trans hs⟩

/-- Settles O8: agreeing with the state before on what lies outside the units is kept by every command of the units. -/
theorem unitCommandsLeaveTheRest : Obligations.UnitCommandsLeaveTheRest := by
  unfold Obligations.UnitCommandsLeaveTheRest
  intro c s t hunit hexec
  have hkept := exec_unitCommand_has (unitCtl_eq_unitClosed s) hunit rfl
  rw [hexec] at hkept
  exact hkept

end Sys2Proof.Machine
end

section
/-!
Bytes and rows: a write of bytes reads back, marks and counts move no byte, and a row write either merges its bytes into the row or
leaves every byte.
-/

namespace Sys2Proof.Machine

/-! ## Cells -/

/-- A cell list with no cell at an address reads zero there. -/
theorem cellByte_of_forall_ne {l : List Host.Cell} {x : Nat} (h : ∀ c ∈ l, c.1 ≠ x) : cellByte l x = 0 := by
  have hnone : l.find? (fun c => c.1 == x) = none := List.find?_eq_none.2 fun c hc => by simpa using h c hc
  rw [cellByte, hnone]

theorem cellByte_cons (a x : Nat) (b : Byte) (l : List Host.Cell) :
    cellByte ((a, b) :: l) x = if a = x then b else cellByte l x := by
  rw [cellByte, List.find?_cons]
  by_cases hax : a = x
  · simp only [hax, beq_self_eq_true, if_true]
  · simp only [hax, beq_eq_false_iff_ne.2 hax, if_false, cellByte]

theorem cellByte_append_left {l r : List Host.Cell} {x : Nat} (h : ∀ c ∈ r, c.1 ≠ x) : cellByte (l ++ r) x = cellByte l x := by
  have hnone : r.find? (fun c => c.1 == x) = none := List.find?_eq_none.2 fun c hc => by simpa using h c hc
  rw [cellByte, List.find?_append, hnone, Option.or_none, cellByte]

theorem cellByte_append_right {l r : List Host.Cell} {x : Nat} (h : ∀ c ∈ l, c.1 ≠ x) : cellByte (l ++ r) x = cellByte r x := by
  have hnone : l.find? (fun c => c.1 == x) = none := List.find?_eq_none.2 fun c hc => by simpa using h c hc
  rw [cellByte, List.find?_append, hnone, Option.none_or, cellByte]

/-- Leaving out cells of other addresses changes no byte. -/
theorem cellByte_filter {m : List Host.Cell} {p : Host.Cell → Bool} {x : Nat} (h : ∀ c : Host.Cell, c.1 = x → p c = true) :
    cellByte (m.filter p) x = cellByte m x := by
  have hfind : (fun c : Host.Cell => decide (p c = true ∧ (c.1 == x) = true)) = fun c => c.1 == x := by
    funext c
    by_cases hc : c.1 = x
    · simp [hc, h c hc]
    · simp [hc]
  rw [cellByte, List.find?_filter, hfind, cellByte]

/-- The cells of a byte string read back as its bytes. -/
theorem cellByte_cellsOf {a x : Nat} {bs : List Byte} (hlow : a ≤ x) : cellByte (cellsOf a bs) x = nth bs (x - a) 0 := by
  induction bs generalizing a with
  | nil => rfl
  | cons b bs ih =>
    rcases Nat.eq_or_lt_of_le hlow with rfl | hlt
    · have htail : cellByte (cellsOf (a + 1) bs) a = 0 :=
        cellByte_of_forall_ne fun c hc => by have := (mem_cellsOf hc).1; omega
      simp only [nth, Nat.sub_self, List.getD_cons_zero, cellsOf]
      split
      · rw [htail, ‹b = 0›]
      · rw [cellByte_cons, if_pos rfl]
    · have hpos : x - a = x - (a + 1) + 1 := by omega
      have htail : cellByte (cellsOf a (b :: bs)) x = cellByte (cellsOf (a + 1) bs) x := by
        simp only [cellsOf]
        split
        · rfl
        · rw [cellByte_cons, if_neg (Nat.ne_of_lt hlt)]
      rw [htail, ih hlt, hpos]
      rfl

/-- What a read finds after a write of bytes. -/
theorem cellByte_memWrite (m : List Host.Cell) (a x : Nat) (bs : List Byte) :
    cellByte (memWrite m a bs) x = if a ≤ x ∧ x < a + bs.length then nth bs (x - a) 0 else cellByte m x := by
  have hbelow : ∀ c ∈ m.filter (fun c => c.1 < a), c.1 < a := fun c hc => by simpa using (List.mem_filter.1 hc).2
  have habove : ∀ c ∈ m.filter (fun c => a + bs.length ≤ c.1), a + bs.length ≤ c.1 := fun c hc => by
    simpa using (List.mem_filter.1 hc).2
  unfold memWrite
  split
  · rename_i hin
    rw [cellByte_append_left fun c hc => by have := habove c hc; omega,
      cellByte_append_right fun c hc => by have := hbelow c hc; omega, cellByte_cellsOf hin.1]
  · rename_i hout
    rcases Nat.lt_or_ge x a with hlt | hge
    · rw [cellByte_append_left fun c hc => by have := habove c hc; omega,
        cellByte_append_left fun c hc => by have := mem_cellsOf hc; omega]
      exact cellByte_filter fun c hc => by simpa [hc] using hlt
    · have hend : a + bs.length ≤ x := by omega
      rw [List.append_assoc, cellByte_append_right fun c hc => by have := hbelow c hc; omega,
        cellByte_append_right fun c hc => by have := mem_cellsOf hc; omega]
      exact cellByte_filter fun c hc => by simpa [hc] using hend

theorem byteAt_wrBytes (s : State) (a x : Nat) (bs : List Byte) :
    byteAt (wrBytes s a bs) x = if a ≤ x ∧ x < a + bs.length then nth bs (x - a) 0 else byteAt s x :=
  cellByte_memWrite s.mem a x bs

@[simp] theorem length_rdBytes (s : State) (a n : Nat) : (rdBytes s a n).length = n := by simp [rdBytes, memRead]

/-- A read of bytes gives each byte of memory. -/
theorem nth_rdBytes {s : State} {a n i : Nat} (hi : i < n) : nth (rdBytes s a n) i 0 = byteAt s (a + i) := by
  have hrange : i < (List.range n).length := by simpa using hi
  simp only [rdBytes, memRead, nth, List.getD_eq_getElem?_getD, List.getElem?_map, List.getElem?_eq_getElem hrange,
    List.getElem_range, Option.map_some, Option.getD_some]
  exact cellByte_filter fun c hc => by simp [hc, hi]

/-! ## Bytes merged under a mask -/

@[simp] theorem length_mergeBytes (m : Nat) (old new : List Byte) : (mergeBytes m old new).length = old.length := by
  fun_induction mergeBytes m old new with
  | case1 => rfl
  | case2 _ _ _ ih => simp [ih]
  | case3 _ _ _ _ _ ih => simp [ih]

theorem nth_mergeBytes {m i : Nat} {old new : List Byte} (hlen : old.length = new.length) (hi : i < old.length) :
    nth (mergeBytes m old new) i 0 = if bitAt m i then nth new i 0 else nth old i 0 := by
  induction old generalizing m i new with
  | nil => exact absurd hi (Nat.not_lt_zero i)
  | cons o os ih =>
    cases new with
    | nil => exact absurd hlen (Nat.succ_ne_zero os.length)
    | cons n ns =>
      cases i with
      | zero => simp [mergeBytes, nth, bitAt]
      | succ i =>
        rw [bitAt_succ]
        exact ih (Nat.succ.inj hlen) (Nat.lt_of_succ_lt_succ hi)

/-! ## Marks, logs and counts move no byte and no tag -/

/-- A state with the bytes and the tags of another. -/
abbrev SameRows (s t : State) : Prop := t.mem = s.mem ∧ t.full = s.full

theorem sameRows_trans {s t u : State} (hst : SameRows s t) (htu : SameRows t u) : SameRows s u :=
  ⟨htu.1.trans hst.1, htu.2.trans hst.2⟩

theorem markPoison_sameRows (s : State) (row mask : Nat) : SameRows s (markPoison s row mask) :=
  foldl_has (P := SameRows s) (fun _ _ h => h) ⟨rfl, rfl⟩

theorem clearMarks_sameRows (s : State) (row mask : Nat) : SameRows s (clearMarks s row mask) :=
  foldl_has (P := SameRows s) (fun _ _ h => h) ⟨rfl, rfl⟩

theorem logWords_sameRows (s : State) (row mask : Nat) : SameRows s (logWords s row mask) :=
  foldl_has (P := SameRows s) (fun _ _ h => h) ⟨rfl, rfl⟩

theorem noteCorrected_sameRows (s : State) (row ones : Nat) : SameRows s (noteCorrected s row ones) :=
  ite_has (P := SameRows s) ⟨rfl, rfl⟩ ⟨rfl, rfl⟩

theorem weightPoisoned_sameRows (s : State) (c store row mask : Nat) : SameRows s (weightPoisoned s c store row mask) :=
  ite_has (P := SameRows s) ⟨rfl, rfl⟩ ⟨rfl, rfl⟩

theorem checkWords_sameRows (s : State) (row used : Nat) : SameRows s (checkWords s row used) := by
  have hmarked := markPoison_sameRows s row (manyOf s row)
  unfold checkWords
  cases placeOf row with
  | store c st r =>
    exact sameRows_trans (markPoison_sameRows (noteErrors s row (manyOf s row)) row (manyOf s row)) (weightPoisoned_sameRows _ c st r _)
  | hbm => exact sameRows_trans hmarked (sameRows_trans (noteCorrected_sameRows _ row _) (logWords_sameRows _ row _))
  | host => exact hmarked
  | nowhere => exact hmarked

/-! ## Row writes (R271, R321) -/

/-- What a row write may do: it is refused and no byte or tag changes, or its bytes are merged into the row. -/
def RowWritten (s : State) (row : Nat) (data : List Byte) (mask : Nat) (r : State × Option Nat) : Prop :=
  (∃ bad, r.2 = some bad ∧ SameRows s r.1) ∨
  (r.2 = none ∧ ∃ u, SameRows s u ∧ r.1 = wrBytes u (row * 512) (mergeBytes mask (rdBytes u (row * 512) 512) data))

theorem rowWritten_of_merge {s u : State} {row mask : Nat} {data : List Byte} (hu : SameRows s u) :
    RowWritten s row data mask (wrBytes u (row * 512) (mergeBytes mask (rdBytes u (row * 512) 512) data), none) :=
  .inr ⟨rfl, u, hu, rfl⟩

theorem putPart_rowWritten (s : State) (row mask whole : Nat) (data : List Byte) :
    RowWritten s row data mask (putPart s row data mask whole) := by
  unfold putPart
  dsimp only
  split
  · split
    · exact .inl ⟨_, rfl, checkWords_sameRows s row 255⟩
    · exact rowWritten_of_merge (checkWords_sameRows s row 255)
  · have hnoted := noteCorrected_sameRows s row (onesOf s row &&& (wordsTouched mask &&& (255 ^^^ whole)))
    split
    · exact .inl ⟨_, rfl, sameRows_trans hnoted (markPoison_sameRows _ _ _)⟩
    · exact rowWritten_of_merge (sameRows_trans hnoted (clearMarks_sameRows _ _ _))
  · exact rowWritten_of_merge ⟨rfl, rfl⟩

theorem putRow_rowWritten (s : State) (row mask : Nat) (data : List Byte) : RowWritten s row data mask (putRow s row data mask) := by
  have hwhole : RowWritten s row data mask
      (wrBytes (clearMarks s row 255) (row * 512) (mergeBytes mask (rdBytes s (row * 512) 512) data), none) := by
    have hcleared := clearMarks_sameRows s row 255
    have hbytes : rdBytes (clearMarks s row 255) (row * 512) 512 = rdBytes s (row * 512) 512 := congrArg (memRead · _ _) hcleared.1
    rw [← hbytes]
    exact rowWritten_of_merge hcleared
  unfold putRow
  split
  · split
    · exact hwhole
    · exact putPart_rowWritten s row mask _ data
  · exact putPart_rowWritten s row mask _ data

/-- The bytes after a merge of a row's worth of bytes. -/
theorem byteAt_merge {u : State} {row mask x : Nat} {data : List Byte} (hdata : data.length = 512) :
    byteAt (wrBytes u (row * 512) (mergeBytes mask (rdBytes u (row * 512) 512) data)) x =
      if x / 512 = row ∧ bitAt mask (x % 512) then nth data (x % 512) 0 else byteAt u x := by
  rw [byteAt_wrBytes, length_mergeBytes, length_rdBytes]
  by_cases hrow : x / 512 = row
  · have hoff : x - row * 512 = x % 512 := by omega
    have hback : row * 512 + x % 512 = x := by omega
    have hlt : x % 512 < 512 := Nat.mod_lt _ (by decide)
    rw [if_pos (by omega), hoff, nth_mergeBytes (by simp [hdata]) (by simpa using hlt), nth_rdBytes hlt, hback]
    simp only [hrow, true_and]
  · rw [if_neg (by omega), if_neg fun h => hrow h.1]

theorem byteAt_of_rowWritten {s : State} {row mask x : Nat} {data : List Byte} {r : State × Option Nat} (hdata : data.length = 512)
    (h : RowWritten s row data mask r) :
    byteAt r.1 x = if r.2 = none ∧ x / 512 = row ∧ bitAt mask (x % 512) then nth data (x % 512) 0 else byteAt s x := by
  rcases h with ⟨bad, hbad, hmem, -⟩ | ⟨hdone, u, ⟨hmem, -⟩, hwrite⟩
  · simp only [hbad, reduceCtorEq, false_and, if_false, byteAt, hmem]
  · rw [hwrite, byteAt_merge hdata, hdone]
    simp only [true_and, byteAt, hmem]

/-- Settles O9: the cells below, of and above the written bytes are told apart, and a row write that is not refused is a write of the
row's bytes merged under the mask. -/
theorem memoryWritesReadBack : Obligations.MemoryWritesReadBack := by
  unfold Obligations.MemoryWritesReadBack
  exact ⟨cellByte_memWrite, fun s row mask x data hdata => byteAt_of_rowWritten hdata (putRow_rowWritten s row mask data)⟩

end Sys2Proof.Machine
end

section
/-!
A fill row under put (R236, R240): where nothing stands in its way it writes the whole row of a store and tags it full.
-/

namespace Sys2Proof.Machine

/-! ## Tags -/

theorem contains_insNat (l : List Nat) (k r : Nat) : (insNat l k).contains r = (r == k || l.contains r) := by
  induction l with
  | nil => simp only [insNat, List.contains_cons]
  | cons j t ih =>
    unfold insNat
    split
    · simp only [List.contains_cons]
    · split
      · simp only [‹k = j›, List.contains_cons, ← Bool.or_assoc, Bool.or_self]
      · simp only [List.contains_cons, ih, Bool.or_left_comm]

@[simp] theorem byteAt_setTag (s : State) (row x : Nat) (f : Bool) : byteAt (setTag s row f) x = byteAt s x := rfl

@[simp] theorem byteAt_modCore (s : State) (c x : Nat) (f : Core → Core) : byteAt (modCore s c f) x = byteAt s x := rfl

theorem isFull_setTag_true (s : State) (row r : Nat) : isFull (setTag s row true) r = (r == row || isFull s r) :=
  contains_insNat s.full row r

@[simp] theorem wrBytes_full (s : State) (a : Nat) (bs : List Byte) : (wrBytes s a bs).full = s.full := rfl

/-! ## Rows of a store -/

/-- The physical row of a row of a store lies in that store (R228, R229). -/
theorem placeOf_storeRow {core store row : Nat} (hcore : core < Config.nCores) (hstore : store < 3) (hrow : row < storeRows store) :
    placeOf (storeRow core store row) = .store core store row := by
  have hrows : row < 2048 ∧ (store = 1 → row < 1024) := by
    unfold storeRows at hrow
    split at hrow <;> omega
  have hcores : core < 896 := hcore
  obtain ⟨hcoreOf, hrest⟩ : (core * 8192 + (store * 2048 + row)) / 8192 = core ∧
      (core * 8192 + (store * 2048 + row)) % 8192 = store * 2048 + row := (Nat.div_mod_unique (by decide)).2 ⟨by omega, by omega⟩
  obtain ⟨hstoreOf, hrowOf⟩ : (store * 2048 + row) / 2048 = store ∧ (store * 2048 + row) % 2048 = row :=
    (Nat.div_mod_unique (by decide)).2 ⟨by omega, hrows.1⟩
  have hin : (core < Config.nCores && (store * 2048 + row < 2048 || (2048 ≤ store * 2048 + row && store * 2048 + row < 3072) ||
      (4096 ≤ store * 2048 + row && store * 2048 + row < 6144)) : Bool) = true := by
    simp only [Bool.and_eq_true, Bool.or_eq_true, decide_eq_true_eq]
    exact ⟨hcore, by omega⟩
  have hoff : storeRow core store row - 0x80000000 = core * 8192 + (store * 2048 + row) := by unfold storeRow; omega
  unfold placeOf
  rw [if_neg (by unfold storeRow hostRow; omega), if_neg (by unfold storeRow; omega), if_neg (by unfold storeRow; omega)]
  dsimp only
  rw [hoff, hcoreOf, hrest, if_pos hin, hstoreOf, hrowOf]

section
variable {s : State} {core store row : Nat} (hplace : placeOf (storeRow core store row) = .store core store row)
include hplace

theorem asleep_storeRow (hawake : (getPower s (.core core)).st < 2) : asleep s (storeRow core store row) = false := by
  simp only [asleep, hplace, decide_eq_false_iff_not]
  omega

/-- A write of every bit of a store row is not refused, and marks no word (R264). -/
theorem putBits_storeRow_allBits (data : List Byte) :
    putBits s (storeRow core store row) data allBits =
      (wrBytes (clearMarks s (storeRow core store row) 255) (storeRow core store row * 512)
        (mergeBytes wholeMask (rdBytes s (storeRow core store row * 512) 512) data), none) := by
  simp only [putBits, if_true, putRow, hplace]

/-- A whole row that a unit puts into an awake store, its row empty, held by no other operation and in no open hoop (R99, R102, R240). -/
theorem writePhys_put_of_free {w : Who} {addr : Nat} {data : List Byte} (hawake : (getPower s (.core core)).st < 2)
    (hhoop : inOpenHoop (getCore s core) store row = false)
    (hheld : heldByOther (getCore s w.core) (storeRow core store row) w.unit w.idx = false)
    (hempty : isFull s (storeRow core store row) = false) :
    writePhys s w (storeRow core store row) addr .put data allBits true true =
      .ok (modCore (setTag (putBits s (storeRow core store row) data allBits).1 (storeRow core store row) true) w.core
        fun co => dropHold co (storeRow core store row)) [] := by
  have hdone := putBits_storeRow_allBits (s := s) hplace data
  unfold writePhys
  simp only [asleep_storeRow hplace hawake, hplace, hhoop, hheld, hempty, hdone, Bool.false_eq_true, if_false, if_true, Bool.and_false,
    Bool.false_and]
  rfl

end

/-! ## The pattern of a fill -/

/-- The 512 bytes of a fill row. -/
abbrev fillBytes (pattern : Nat) : List Byte := (List.range 128).flatMap fun _ => leBytes 4 pattern

theorem leBytes_four (n : Nat) :
    leBytes 4 n = [BitVec.ofNat 8 n, BitVec.ofNat 8 (n / 256), BitVec.ofNat 8 (n / 256 / 256), BitVec.ofNat 8 (n / 256 / 256 / 256)] := rfl

theorem flatMap_leBytes_succ (n pattern : Nat) :
    (List.range (n + 1)).flatMap (fun _ => leBytes 4 pattern) = leBytes 4 pattern ++ (List.range n).flatMap fun _ => leBytes 4 pattern := by
  rw [List.range_succ_eq_map, List.flatMap_cons, List.flatMap_map]

theorem length_fillBytes (pattern : Nat) : (fillBytes pattern).length = 512 := by
  simp [fillBytes, List.length_flatMap, leBytes_four]

theorem nth_leBytes_four (pattern : Nat) {i : Nat} (hi : i < 4) : nth (leBytes 4 pattern) i 0 = BitVec.ofNat 8 (pattern / 256 ^ i) := by
  simp only [leBytes_four, nth, Nat.div_div_eq_div_mul]
  interval_cases i <;> simp

/-- Every fourth byte of a repeated pattern is the same byte of it. -/
theorem nth_flatMap_leBytes (pattern : Nat) {n i : Nat} (hi : i < 4 * n) :
    nth ((List.range n).flatMap fun _ => leBytes 4 pattern) i 0 = BitVec.ofNat 8 (pattern / 256 ^ (i % 4)) := by
  induction n generalizing i with
  | zero => omega
  | succ n ih =>
    rw [flatMap_leBytes_succ]
    rcases Nat.lt_or_ge i 4 with hlt | hge
    · rw [nth, List.getD_append _ _ _ _ (by simpa [leBytes_four] using hlt), Nat.mod_eq_of_lt hlt]
      exact nth_leBytes_four pattern hlt
    · rw [nth, List.getD_append_right _ _ _ _ (by simpa [leBytes_four] using hge), Nat.mod_eq_sub_mod hge]
      exact ih (by simp only [leBytes_four, List.length_cons, List.length_nil]; omega)

/-- The state that a fill row leaves when nothing stands in its way. -/
def filled (s : State) (w : Who) (row pattern : Nat) : State :=
  modCore (setTag (putBits s row (fillBytes pattern) allBits).1 row true) w.core fun co => dropHold co row

section
variable {s : State} {core store row : Nat} (hplace : placeOf (storeRow core store row) = .store core store row)
include hplace

theorem microStep_fillRow_of_free {w : Who} {j : Job} {pattern : Nat} (hw : w.core = core)
    (hawake : (getPower s (.core core)).st < 2) (hhoop : inOpenHoop (getCore s core) store row = false)
    (hheld : heldByOther (getCore s core) (storeRow core store row) w.unit w.idx = false) (hcached : ownMiss s w store row = none)
    (hempty : isFull s (storeRow core store row) = false) :
    microStep s w j (.fillRow store row .put pattern) = .ok (filled s w (storeRow core store row) pattern) j := by
  subst hw
  simp only [microStep, writeLoc, hcached, writePhys_put_of_free hplace hawake hhoop hheld hempty, filled]

theorem byteAt_filled (w : Who) (pattern x : Nat) :
    byteAt (filled s w (storeRow core store row) pattern) x =
      if x / 512 = storeRow core store row then BitVec.ofNat 8 (pattern / 256 ^ (x % 4)) else byteAt s x := by
  have hcleared := clearMarks_sameRows s (storeRow core store row) 255
  have hbytes : rdBytes s (storeRow core store row * 512) 512 =
      rdBytes (clearMarks s (storeRow core store row) 255) (storeRow core store row * 512) 512 :=
    congrArg (memRead · _ _) hcleared.1.symm
  have hbit : bitAt wholeMask (x % 512) = true := by
    rw [wholeMask, bitAt_ones]
    simp [Nat.mod_lt]
  have hmod : x % 512 % 4 = x % 4 := Nat.mod_mod_of_dvd x (by decide)
  rw [filled, byteAt_modCore, byteAt_setTag, putBits_storeRow_allBits hplace, hbytes, byteAt_merge (length_fillBytes pattern), hbit,
    nth_flatMap_leBytes pattern (Nat.mod_lt _ (by decide)), hmod]
  simp only [and_true, byteAt, hcleared.1]

theorem isFull_filled (w : Who) (pattern r : Nat) :
    isFull (filled s w (storeRow core store row) pattern) r = (r == storeRow core store row || isFull s r) := by
  have hfull : (clearMarks s (storeRow core store row) 255).full = s.full := (clearMarks_sameRows s _ _).2
  rw [filled, isFull_modCore, isFull_setTag_true, putBits_storeRow_allBits hplace, isFull, wrBytes_full, hfull, isFull]

end

/-- Settles O10: the micro-operation leaves `filled`, whose bytes are those of a whole-row write of the pattern. -/
theorem fillWritesItsPattern : Obligations.FillWritesItsPattern := by
  unfold Obligations.FillWritesItsPattern
  intro s core store row pattern j w hw hcore hstore hrow hawake hhoop hheld hcached hempty
  have hplace := placeOf_storeRow hcore hstore hrow
  exact ⟨filled s w (storeRow core store row) pattern, microStep_fillRow_of_free hplace hw hawake hhoop hheld hcached hempty,
    byteAt_filled hplace w pattern, isFull_filled hplace w pattern⟩

end Sys2Proof.Machine
end

section
/-!
Operations that wait (R242, R254, R313, R338, R345): each command hands what it frees to one operation, which goes on.
-/

namespace Sys2Proof.Machine

/-- An operation of a unit other than the die DMA engine goes on where it stands; only moves of that engine wait for a turn (R307). -/
theorem resume_of_ne_dieDma (s : State) (core : Nat) (u : CoreUnit) (j : Job) (hu : u ≠ .dieDma) :
    resume s core u j = runJob s core u j := by
  rw [resume, if_neg (by simpa using hu)]

section
variable {s : State} {core : Nat} {u : CoreUnit} (hcore : core < Config.nCores)
include hcore

/-! ## Grants (R242) -/

/-- The operations that wait are granted in turn. -/
theorem exec_accessGrantAfterWait {t : State}
    (ht : t = (waitingJobs (getCore s core) u).foldl (fun t j => grantTo core u t j.idx) s) :
    exec (.accessGrantAfterWait core u) s = .next (if u == .tally then reapTally t core else t) := by
  change execAccessGrantAfterWait core u s = _
  rw [execAccessGrantAfterWait, onCore_of_lt hcore, List.foldl_map, ht]

omit hcore in
theorem grantTo_of_grantable {j : Job} {x : Wait} (hfind : findJob (getCore s core) u j.idx = some j) (hwait : j.st = .waiting x)
    (hgrant : grantable x.kind = true) : grantTo core u s j.idx = resume s core u j := by
  simp only [grantTo, hfind, grantsJob, hwait, hgrant, if_true]

/-- One operation that waits runs on. -/
theorem exec_accessGrantAfterWait_of_one {j : Job} {x : Wait} (hone : waitingJobs (getCore s core) u = [j])
    (hfind : findJob (getCore s core) u j.idx = some j) (hwait : j.st = .waiting x) (hgrant : grantable x.kind = true) :
    exec (.accessGrantAfterWait core u) s =
      .next (if u == .tally then reapTally (resume s core u j) core else resume s core u j) :=
  exec_accessGrantAfterWait hcore (by rw [hone, List.foldl_cons, List.foldl_nil, grantTo_of_grantable hfind hwait hgrant])

/-! ## Translations (R313) -/

/-- What an operation, or a descriptor read ahead (R345), missed. -/
theorem exec_ctuTranslationFill_of_job {j : Job} {k : Nat} (hseq : u ≠ .sequencer) (hsignal : u ≠ .signal)
    (hawaited : awaited s core u = some (j, k)) :
    exec (.ctuTranslationFill core u) s = .next (if j.st = .queued
      then readAhead (setCore s core (ctuFill (getCore s core) k)) core
      else resume (setCore s core (ctuFill (getCore s core) k)) core u j) := by
  change execCtuTranslationFill core u s = _
  simp only [execCtuTranslationFill, onCore_of_lt hcore, beq_eq_false_iff_ne.2 hseq, beq_eq_false_iff_ne.2 hsignal, hawaited,
    Bool.false_eq_true, if_false]

/-- What the sequencer missed for its entry. -/
theorem exec_ctuTranslationFill_of_sequencer {k : Nat} (hmiss : missingKey s core (seqAddrs (getCore s core)) = some k) :
    exec (.ctuTranslationFill core .sequencer) s = .next (setCore s core (ctuFill (getCore s core) k)) := by
  change execCtuTranslationFill core .sequencer s = _
  simp only [execCtuTranslationFill, onCore_of_lt hcore, beq_self_eq_true, if_true, hmiss]

/-- What the first signal that is not sent missed. -/
theorem exec_ctuTranslationFill_of_signal {g : SignalJob} {k : Nat}
    (hfirst : ((getCore s core).signals.find? fun g => !g.sent) = some g)
    (hmiss : hoopDest s core (if bitAt g.entry 64 then some (fld g.entry 48 16) else none) (hoopCore (fld g.entry 0 48))
      (hoopNum (fld g.entry 0 48)) (hoopReserved (fld g.entry 0 48)) = .miss k) :
    exec (.ctuTranslationFill core .signal) s = .next (setCore s core (ctuFill (getCore s core) k)) := by
  have hunit : (CoreUnit.signal == CoreUnit.sequencer) = false := rfl
  change execCtuTranslationFill core .signal s = _
  simp only [execCtuTranslationFill, onCore_of_lt hcore, hunit, Bool.false_eq_true, if_false, beq_self_eq_true, if_true, hfirst, hmiss]

/-! ## Reads answered not ready (R254) -/

theorem exec_remoteReadRetry {j : Job} (hfirst : ((unitJobs (getCore s core) u).find? fun j => j.remote == .notReady) = some j) :
    exec (.remoteReadRetry core u) s = .next (resume s core u { j with remote := .none }) := by
  change execRemoteReadRetry core u s = _
  simp only [execRemoteReadRetry, onCore_of_lt hcore, hfirst]

/-! ## The watchdog (R338, R371) -/

theorem exec_watchdogExpiry {idx un n : Nat} {x : Wait} (hwait : unitWait s core u = some (idx, un, x))
    (hcode : timeoutCode x.kind = some n) :
    exec (.watchdogExpiry core u) s = .next (raiseFault s core u idx
      (timeoutBad (getCore s core) u idx { code := cTimeout, unit := un, addr := x.addr, detail := n })) := by
  change execWatchdogExpiry core u s = _
  simp only [execWatchdogExpiry, onCore_of_lt hcore, hwait, hcode]

end

theorem timeoutBad_of_none {co : Core} {u : CoreUnit} {idx : Nat} (b : Bad) (hnone : findJob co u idx = none) :
    timeoutBad co u idx b = b := by
  simp only [timeoutBad, hnone]

theorem timeoutBad_of_some {co : Core} {u : CoreUnit} {idx : Nat} {j : Job} (b : Bad) (hfind : findJob co u idx = some j) :
    timeoutBad co u idx b = faultOf co j u b := by
  simp only [timeoutBad, hfind]

/-- Settles O24: one lemma for each command and each unit that it may serve. -/
theorem waitingOperationsGoOn : Obligations.WaitingOperationsGoOn := by
  unfold Obligations.WaitingOperationsGoOn
  refine ⟨fun s t core k u j x hcore => ⟨exec_accessGrantAfterWait_of_one hcore, exec_accessGrantAfterWait hcore, ?_, ?_, ?_,
    exec_remoteReadRetry hcore, fun idx un n hwait hcode hnone => ?_, fun idx un n hwait hcode hfind => ?_⟩, resume_of_ne_dieDma⟩
  · rintro hseq hsignal hawaited rfl
    exact exec_ctuTranslationFill_of_job hcore hseq hsignal hawaited
  · rintro rfl hmiss
    exact exec_ctuTranslationFill_of_sequencer hcore hmiss
  · rintro g rfl hfirst hmiss
    exact exec_ctuTranslationFill_of_signal hcore hfirst hmiss
  · rw [exec_watchdogExpiry hcore hwait hcode, timeoutBad_of_none _ hnone, cTimeout]
  · rw [exec_watchdogExpiry hcore hwait hcode, timeoutBad_of_some _ hfind, cTimeout]

end Sys2Proof.Machine
end

section
/-!
Service of stored words: the scrubber (R265, R269), row sparing (R274 to R276), the patrol scrub and soft repair of HBM (R322, R461) and
page zeroising (R436).
-/

namespace Sys2Proof.Machine

@[simp] theorem onStack_of_lt {k : Nat} (h : k < Config.nStacks) (o : Out) : onStack k o = o := if_pos h

/-! ## The scrubber (R265, R269) -/

section
variable {s u : State} {core : Nat} {us : List Upset} (hcore : core < Config.nCores) (hu : u = applyUpsets s us)
  (hawake : (getPower u (.core core)).st < 2)
include hcore hu hawake

/-- A row that a read found in error comes first. -/
theorem exec_scrubVisit_of_found {r : Nat} (hfound : u.scrubNext.find? (rowOfCore core) = some r) :
    exec (.scrubVisit core us) s = .next (visitRow { u with scrubNext := u.scrubNext.filter fun x => !(x == r) } core r) := by
  subst hu
  change execScrubVisit core us s = _
  simp only [execScrubVisit, onCore_of_lt hcore, if_neg (Nat.not_le_of_lt hawake), hfound]

/-- With none left the scrubber goes on through its rows. -/
theorem exec_scrubVisit_of_none (hnone : u.scrubNext.find? (rowOfCore core) = none) :
    exec (.scrubVisit core us) s = .next (visitRow
      (modCore u core fun co => { co with scrubRow := ((getCore u core).scrubRow + 1) % 5120 }) core
      (storeRow core (scrubPlace (getCore u core).scrubRow).1 (scrubPlace (getCore u core).scrubRow).2)) := by
  subst hu
  change execScrubVisit core us s = _
  simp only [execScrubVisit, onCore_of_lt hcore, if_neg (Nat.not_le_of_lt hawake), hnone]

end

/-! ## Sparing (R274 to R276) -/

section
variable {s : State} {core store row : Nat} (hcore : core < Config.nCores) (hservice : (getCore s core).service ≠ .fenced)
  (hmust : mustSpare s (storeRow core store row) = true)
include hcore hservice hmust

theorem exec_spareCopy_of_left (hleft : (tget s.spares (bankKey core store row) []).length < 4) :
    exec (.spareCopy core store row) s = .next (spareRow s core store row) := by
  change execSpareCopy core store row s = _
  simp only [execSpareCopy, onCore_of_lt hcore, hmust, hservice, hleft, decide_false, Bool.not_true, Bool.or_false,
    Bool.false_eq_true, if_false, if_true]

theorem exec_spareCopy_of_exhausted (hused : 4 ≤ (tget s.spares (bankKey core store row) []).length) :
    exec (.spareCopy core store row) s = .next (modCore s core fun co => { co with spErr := { co.spErr with
      spareExhausted := true, spareExCount := satInc 16 co.spErr.spareExCount } }) := by
  change execSpareCopy core store row s = _
  simp only [execSpareCopy, onCore_of_lt hcore, hmust, hservice, Nat.not_lt_of_le hused, decide_false, Bool.not_true, Bool.or_false,
    Bool.false_eq_true, if_false]

end

/-- Marking words poisoned gives no row a spare. -/
theorem markPoison_spares (s : State) (row mask : Nat) : (markPoison s row mask).spares = s.spares :=
  foldl_has (P := fun t => t.spares = s.spares) (fun _ _ h => h) rfl

theorem weightPoisoned_spares (s : State) (c store row mask : Nat) : (weightPoisoned s c store row mask).spares = s.spares :=
  ite_has (P := fun t => t.spares = s.spares) rfl rfl

theorem spareRow_sameRows (s : State) (c store row : Nat) : SameRows s (spareRow s c store row) := by
  unfold spareRow
  refine sameRows_trans ?_ (weightPoisoned_sameRows _ _ _ _ _)
  exact markPoison_sameRows _ _ _

theorem spareRow_spares (s : State) (c store row : Nat) :
    (spareRow s c store row).spares = tput s.spares (bankKey c store row) (mapRow (tget s.spares (bankKey c store row) []) row) := by
  simp only [spareRow, weightPoisoned_spares, markPoison_spares, modCore_spares]

/-! ## HBM (R319, R320, R322, R461) -/

/-- A stack after its words have been read, before the corrections enter its history. -/
abbrev patrolled (u : State) (stack : Nat) : State :=
  (u.errMany.filter (wordOfStack stack)).foldl (fun x w => logPoison x [w] (ownerOf x w)) { modStack
    { u with freeCtr := u.freeCtr + 1 } stack (fun k => { k with onDieCount := Config.freeNat u.freeCtr % 2 ^ 32 }) with
      errOne := u.errOne.filter (fun w => !(wordOfStack stack w)), errMany := u.errMany.filter (fun w => !(wordOfStack stack w)),
      poison := (u.errMany.filter (wordOfStack stack)).foldl insNat u.poison }

/-- The corrected words of a stack enter its history with the time (R461). -/
abbrev datedCorrections (v : State) (stack : Nat) (ones : List Nat) : State :=
  modStack v stack fun k => { k with corrected := ones.foldl (fun l w => tput l w v.refCount.toNat) k.corrected }

section
variable {s : State} {stack : Nat} {us : List Upset} (hstack : stack < Config.nStacks)
include hstack

theorem exec_hbmPatrolScrub :
    exec (.hbmPatrolScrub stack us) s = .next
      (if ((applyUpsets s us).errOne.filter (wordOfStack stack)).isEmpty then patrolled (applyUpsets s us) stack
       else datedCorrections (patrolled (applyUpsets s us) stack) stack ((applyUpsets s us).errOne.filter (wordOfStack stack))) := by
  change execHbmPatrolScrub stack us s = _
  rw [execHbmPatrolScrub, onStack_of_lt hstack, apply_ite Host.Outcome.next]
  rfl

theorem exec_pageZeroiseDone {pg : Nat} {rest : List Nat} (hqueue : (getStack s stack).zeroQueue = pg :: rest) :
    exec (.pageZeroiseDone stack) s = .next (modStack (zeroPage s pg) stack fun k => { k with zeroQueue := rest }) := by
  change execPageZeroiseDone stack s = _
  simp only [execPageZeroiseDone, onStack_of_lt hstack, hqueue]

end

/-- The uncorrectable words of a half row. -/
abbrev badHalfWords (s : State) (half : Nat) : List Nat := (halfWords half).filter fun w => s.errMany.contains w

/-- The state once firmware has logged the words of a half row that are newly marked. -/
abbrev repairLogged (s : State) (addr : Nat) : State :=
  logWords s (addr / 512) (maskOf (((badHalfWords s (addr / 256)).filter fun w => !(s.poison.contains w)).map (· % 8)))

/-- A half row of HBM after its soft repair. -/
abbrev repaired (s : State) (addr : Nat) : State :=
  modStack { repairLogged s addr with
      errOne := (repairLogged s addr).errOne.filter (fun x => !(x / 4 == addr / 256)),
      errMany := (repairLogged s addr).errMany.filter (fun x => !(x / 4 == addr / 256)),
      poison := (badHalfWords s (addr / 256)).foldl insNat (repairLogged s addr).poison } (stackOf addr)
    fun k => { k with repairLog := k.repairLog ++ [addr / 256], corrected := k.corrected.filter fun w => !(w.1 / 4 == addr / 256) }

/-- Only a half row of HBM that must be repaired is. -/
theorem exec_hbmSoftRepair (s : State) (addr : Nat) :
    exec (.hbmSoftRepair addr) s =
      .next (if placeOf (addr / 512) = .hbm ∧ mustRepair s (addr / 256) = true then repaired s addr else s) := by
  change execHbmSoftRepair addr s = _
  rw [execHbmSoftRepair, apply_ite Host.Outcome.next]

theorem mem_insNat_of_mem {l : List Nat} {k w : Nat} (h : w ∈ l) : w ∈ insNat l k := by
  have hcontains := contains_insNat l k w
  rw [List.contains_iff_mem.2 h, Bool.or_true] at hcontains
  exact List.contains_iff_mem.1 hcontains

/-- Entering words keeps every word that is there. -/
theorem mem_foldl_insNat_of_mem {ks l : List Nat} {w : Nat} (h : w ∈ l) : w ∈ ks.foldl insNat l := by
  induction ks generalizing l with
  | nil => exact h
  | cons k ks ih => exact ih (mem_insNat_of_mem h)

theorem logWords_poison (s : State) (row mask : Nat) : (logWords s row mask).poison = s.poison :=
  foldl_has (P := fun t => t.poison = s.poison) (fun _ _ h => h) rfl

/-- A soft repair takes no poison mark away. -/
theorem mem_poison_of_exec_hbmSoftRepair {s t : State} {addr w : Nat} (hexec : exec (.hbmSoftRepair addr) s = .next t)
    (hw : w ∈ s.poison) : w ∈ t.poison := by
  rw [exec_hbmSoftRepair, Host.Outcome.next.injEq] at hexec
  subst hexec
  split
  · refine mem_foldl_insNat_of_mem (l := (repairLogged s addr).poison) ?_
    rw [logWords_poison]
    exact hw
  · exact hw

/-- Settles O29: one lemma for each command in each of its cases; a spare takes over the row's bytes and tag. -/
theorem storedWordsAreServed : Obligations.StoredWordsAreServed := by
  unfold Obligations.StoredWordsAreServed
  refine fun s u core store row stack addr us => ⟨fun hcore hu hawake => ⟨fun r => exec_scrubVisit_of_found hcore hu hawake,
    exec_scrubVisit_of_none hcore hu hawake⟩, fun hcore hservice hmust => ⟨fun hleft => ?_,
    exec_spareCopy_of_exhausted hcore hservice hmust⟩, ?_, ?_, fun t hexec w => mem_poison_of_exec_hbmSoftRepair hexec,
    fun pg rest hstack => exec_pageZeroiseDone hstack⟩
  · obtain ⟨hmem, hfull⟩ := spareRow_sameRows s core store row
    exact ⟨exec_spareCopy_of_left hcore hservice hmust hleft, hmem, hfull, spareRow_spares s core store row⟩
  · rintro ones many v hstack rfl rfl rfl rfl
    refine ⟨fun hnone => ?_, fun hsome => ?_⟩
    · rw [exec_hbmPatrolScrub hstack, hnone, List.isEmpty_nil, if_pos rfl]
    · rw [exec_hbmPatrolScrub hstack, if_neg (by simpa only [List.isEmpty_iff] using hsome)]
  · rintro many v hplace hmust rfl rfl
    rw [exec_hbmSoftRepair, if_pos ⟨hplace, hmust⟩]

end Sys2Proof.Machine
end

section
/-!
A patrol scrub of an HBM stack (R322): what it leaves of the marks of words, and that it moves no byte and no tag.
-/

namespace Sys2Proof.Machine

/-- A state with the poison marks, the bytes and the tags of another. -/
abbrev SamePoisonRows (s t : State) : Prop := t.poison = s.poison ∧ SameRows s t

/-- A state that has the errors of another as well. -/
abbrev SameWords (s t : State) : Prop := t.errOne = s.errOne ∧ t.errMany = s.errMany ∧ SamePoisonRows s t

theorem foldl_logPoison_sameWords (s : State) (ws : List Nat) :
    SameWords s (ws.foldl (fun x w => logPoison x [w] (ownerOf x w)) s) :=
  foldl_has (P := SameWords s) (fun _ _ h => h) ⟨rfl, rfl, rfl, rfl, rfl⟩

/-- An upset marks a word in error and does nothing else (R264). -/
theorem applyUpsets_samePoisonRows (s : State) (us : List Upset) : SamePoisonRows s (applyUpsets s us) :=
  foldl_has (P := SamePoisonRows s)
    (fun _ _ ht => ite_has (P := SamePoisonRows s) ht (ite_has (P := SamePoisonRows s) ht ht)) ⟨rfl, rfl, rfl⟩

/-- Entering words enters each of them. -/
theorem mem_foldl_insNat {ks l : List Nat} {w : Nat} (h : w ∈ ks) : w ∈ ks.foldl insNat l := by
  induction ks generalizing l with
  | nil => exact absurd h List.not_mem_nil
  | cons k ks ih =>
    rcases List.mem_cons.1 h with rfl | htail
    · have hentered : w ∈ insNat l w := by
        rw [← List.contains_iff_mem, contains_insNat, beq_self_eq_true, Bool.true_or]
      exact mem_foldl_insNat_of_mem (ks := ks) hentered
    · exact ih htail

/-- The words of a state after a stack of it has been read: no error is latent in the stack, and its uncorrectable words are poisoned. -/
abbrev scrubbedWords (u : State) (stack : Nat) : State :=
  { u with
      errOne := u.errOne.filter (fun w => !(wordOfStack stack w)), errMany := u.errMany.filter (fun w => !(wordOfStack stack w)),
      poison := (u.errMany.filter (wordOfStack stack)).foldl insNat u.poison }

/-- The log and the history of corrections are all that the scrub writes besides. -/
theorem sameWords_of_exec_hbmPatrolScrub {s t : State} {stack : Nat} {us : List Upset} (hstack : stack < Config.nStacks)
    (hexec : exec (.hbmPatrolScrub stack us) s = .next t) : SameWords (scrubbedWords (applyUpsets s us) stack) t := by
  rw [exec_hbmPatrolScrub hstack, Host.Outcome.next.injEq] at hexec
  subst hexec
  have hpatrolled : SameWords (scrubbedWords (applyUpsets s us) stack) (patrolled (applyUpsets s us) stack) :=
    foldl_logPoison_sameWords _ _
  exact ite_has (P := SameWords (scrubbedWords (applyUpsets s us) stack)) hpatrolled hpatrolled

/-- Settles O30: the scrub filters the stack's words out of both error lists and enters the uncorrectable ones among the poisoned;
poison, bytes and tags are kept by the upsets before it. -/
theorem patrolScrubClearsItsStack : Obligations.PatrolScrubClearsItsStack := by
  unfold Obligations.PatrolScrubClearsItsStack
  intro s t stack us hstack hexec
  obtain ⟨hone, hmany, hpoison, hmem, hfull⟩ := sameWords_of_exec_hbmPatrolScrub hstack hexec
  obtain ⟨hpoisonKept, hmemKept, hfullKept⟩ := applyUpsets_samePoisonRows s us
  refine ⟨fun w hw => ⟨?_, ?_⟩, fun w hw hbad => ?_, fun w hw => ?_, hmem.trans hmemKept, hfull.trans hfullKept⟩
  · simp [hone, hw]
  · simp [hmany, hw]
  · rw [hpoison]
    exact mem_foldl_insNat (List.mem_filter.2 ⟨hbad, hw⟩)
  · rw [hpoison]
    exact mem_foldl_insNat_of_mem (hpoisonKept ▸ hw)

end Sys2Proof.Machine
end

section
/-!
Issue of an entry by the command of its kind (R327 to R331), and of a move to its engines (R306, R307).
-/

namespace Sys2Proof.Machine

/-- An entry that is ready issues when its unit has room. -/
theorem issueAt_of_ready {s : State} {core kind e : Nat} {sel : Nat → Bool} {room : Core → Nat → Bool} {act : Nat → Nat → State}
    (hready : Ready s core kind e) (hsel : sel e = true) (hroom : room (getCore s core) e = true) :
    issueAt core kind s sel room act = .next (act (nextIssue s core) e) := by
  obtain ⟨hcore, hcurrent, hkind, hcheck, hsync⟩ := hready
  have hfree : (enSync e && !(getCore s core).seq.issued.isEmpty) = false := by
    rcases hsync with hsync | hissued
    · rw [hsync, Bool.false_and]
    · rw [hissued, List.isEmpty_nil, Bool.not_true, Bool.and_false]
  simp [issueAt, hcore, hcurrent, hkind, hfree, hroom, hcheck, hsel]

/-- The die DMA has room for four moves of a core; a move of the core's own engines finds room later, when its sides are known. -/
theorem moveIssue_of_ready {s : State} {core e : Nat} (hready : Ready s core 2 e)
    (hroom : bitAt e 100 = true → (getCore s core).dieJobs.length < 4) :
    moveIssue core (fld e 96 4) s = .next (issueMove s core (nextIssue s core) e) := by
  refine issueAt_of_ready hready (beq_self_eq_true _) ?_
  cases hdie : bitAt e 100 with
  | false => rfl
  | true => simpa using hroom hdie

/-- Engines that have room for a move do not hold it back (R327). -/
theorem engineFull_eq_false {co : Core} {eng : Engines} (hroom : engineRoom co eng) :
    ((if eng == .outOnly then false else engineJobs co .inOnly ≥ 3) ||
      (if eng == .inOnly then false else engineJobs co .outOnly ≥ 3) : Bool) = false := by
  obtain ⟨hin, hout⟩ := hroom
  cases eng with
  | inOnly => simpa using hin
  | outOnly => simpa using hout
  | both => simpa using And.intro hin hout

/-- What a move's unit gets: its entry, its engines and its two descriptors. -/
abbrev moveJob (idx e : Nat) (eng : Engines) (src dst : List Byte) : Job := newJob idx e eng [.start] (leNat src) (leNat dst)

/-- The destination of a move lies in a hoop. -/
abbrev movesToHoop (dst : List Byte) : Bool := region (tdBase (leNat dst)) == 3

section
variable {s s1 s2 : State} {core e idx : Nat} {src dst : List Byte}
  (hsrc : readBlock s (seqWho core) (fld e 0 48) 64 = .ok s1 src) (hdst : readBlock s1 (seqWho core) (fld e 48 48) 64 = .ok s2 dst)
include hsrc hdst

/-- `MOVE_DIE` sends a move to the die DMA (R307). -/
theorem issueMove_of_die (hdie : bitAt e 100 = true) :
    issueMove s core idx e = issueJob s2 core .dieDma (moveJob idx e .both src dst) 2 (movesToHoop dst) := by
  simp only [issueMove, hsrc, hdst, hdie, if_true]

/-- A move without `MOVE_DIE` goes to the engines of its sides that lie in the core's own stores (R306). -/
theorem issueMove_of_engines {eng : Engines} (hdie : bitAt e 100 = false)
    (heng : enginesOf (getCore s2 core) (leNat src) (leNat dst) = some eng) (hroom : engineRoom (getCore s2 core) eng) :
    issueMove s core idx e = issueJob s2 core .cdma (moveJob idx e eng src dst) 2 (movesToHoop dst) := by
  have hfree := engineFull_eq_false hroom
  simp only [issueMove, hsrc, hdst, hdie, Bool.false_eq_true, if_false]
  unfold enginesOf at heng
  split at heng
  · exact absurd heng.symm (Option.some_ne_none eng)
  all_goals
    obtain rfl := Option.some.inj heng
    simp only [*]
    exact if_neg (Bool.eq_false_iff.1 hfree)

end

/-- The command of each function of a move. -/
abbrev moveCommands (core : Nat) : List (Nat × Instr) :=
  [(0, .moveCopy core), (1, .moveCompress core), (2, .moveZeroRunStore core), (3, .moveMaskTranspose core), (4, .moveScatterAdd core),
    (5, .moveReduceContribution core), (6, .moveSelectiveFetch core)]

theorem exec_moveCommand {s : State} {core : Nat} : ∀ x ∈ moveCommands core, exec x.2 s = moveIssue core x.1 s := by
  simp only [moveCommands, List.forall_mem_cons]
  exact ⟨rfl, rfl, rfl, rfl, rfl, rfl, rfl, List.forall_mem_nil _⟩

/-- Settles O18: each command issues the moves of its function, and the move's own flag and sides name its engines. -/
theorem movesIssue : Obligations.MovesIssue := by
  unfold Obligations.MovesIssue
  intro s s1 s2 core e src dst hready hsrc hdst x hx hfn
  refine ⟨fun hdie hroom => ?_, fun eng hdie heng hroom => ?_⟩
  · rw [exec_moveCommand x hx, ← hfn, moveIssue_of_ready hready fun _ => hroom, issueMove_of_die hsrc hdst hdie]
  · rw [exec_moveCommand x hx, ← hfn, moveIssue_of_ready hready fun h => absurd (hdie.symm.trans h) Bool.false_ne_true,
      issueMove_of_engines hsrc hdst hdie heng hroom]

end Sys2Proof.Machine
end

section
/-!
Byte strings and the numbers that they hold (R9, R11), and the commit record of a turn (R362, R363).
-/

namespace Sys2Proof.Machine

/-! ## Bytes of a number -/

@[simp] theorem length_leBytes (k n : Nat) : (leBytes k n).length = k := by
  induction k generalizing n with
  | zero => rfl
  | succ k ih => rw [leBytes, List.length_cons, ih]

theorem take_leBytes {w k : Nat} (h : w ≤ k) (n : Nat) : (leBytes k n).take w = leBytes w n := by
  induction w generalizing k n with
  | zero => rfl
  | succ w ih =>
    obtain ⟨k, rfl⟩ := Nat.exists_eq_succ_of_ne_zero (Nat.ne_of_gt (Nat.lt_of_lt_of_le w.succ_pos h))
    rw [leBytes, leBytes, List.take_succ_cons, ih (Nat.le_of_succ_le_succ h)]

theorem drop_leBytes (o k n : Nat) : (leBytes k n).drop o = leBytes (k - o) (n / 256 ^ o) := by
  induction o generalizing k n with
  | zero => rw [List.drop_zero, Nat.sub_zero, pow_zero, Nat.div_one]
  | succ o ih =>
    cases k with
    | zero => rw [leBytes, List.drop_nil, Nat.zero_sub, leBytes]
    | succ k => rw [leBytes, List.drop_succ_cons, ih, Nat.succ_sub_succ, Nat.div_div_eq_div_mul, ← pow_succ']

theorem leNat_leBytes (k n : Nat) : leNat (leBytes k n) = n % 256 ^ k := by
  induction k generalizing n with
  | zero => rw [leBytes, leNat, pow_zero, Nat.mod_one]
  | succ k ih => rw [leBytes, leNat, ih, BitVec.toNat_ofNat, pow_succ' 256, Nat.mod_mul]

theorem leNat_append (as bs : List Byte) : leNat (as ++ bs) = leNat as + 256 ^ as.length * leNat bs := by
  induction as with
  | nil => simp [leNat]
  | cons a as ih => rw [List.cons_append, leNat, leNat, ih, List.length_cons, pow_succ']; ring

/-! ## Fields of a number and of its bytes -/

theorem fld_lt (n lo w : Nat) : fld n lo w < 2 ^ w := Nat.mod_lt _ (Nat.two_pow_pos w)

theorem fld_mod_two_pow {n lo w k : Nat} (h : lo + w ≤ k) : fld (n % 2 ^ k) lo w = fld n lo w := by
  refine Nat.eq_of_testBit_eq fun i => ?_
  simp only [fld, Nat.testBit_mod_two_pow, Nat.testBit_shiftRight]
  rcases Nat.lt_or_ge i w with hi | hi
  · rw [decide_eq_true (show lo + i < k by omega), Bool.true_and]
  · rw [decide_eq_false (Nat.not_lt_of_ge hi), Bool.false_and, Bool.false_and]

theorem pow_256_eq_two_pow (k : Nat) : 256 ^ k = 2 ^ (8 * k) := by rw [pow_mul]; norm_num

/-- The bytes of a number give back the fields that lie within them. -/
theorem fld_leNat_leBytes_append {k n lo w : Nat} (bs : List Byte) (h : lo + w ≤ 8 * k) :
    fld (leNat (leBytes k n ++ bs)) lo w = fld n lo w := by
  rw [← fld_mod_two_pow h, leNat_append, leNat_leBytes, length_leBytes, pow_256_eq_two_pow, Nat.add_mul_mod_self_left,
    Nat.mod_mod, fld_mod_two_pow h]

/-- Bytes of a number's string are a field of it. -/
theorem numAt_leBytes {o w k : Nat} (h : o + w ≤ k) (n : Nat) : numAt (leBytes k n) o w = fld n (8 * o) (8 * w) := by
  rw [numAt, drop_leBytes, take_leBytes (Nat.le_sub_of_add_le' h), leNat_leBytes, fld, Nat.shiftRight_eq_div_pow,
    pow_256_eq_two_pow, pow_256_eq_two_pow]

theorem numAt_append_left {as : List Byte} {o w : Nat} (h : o + w ≤ as.length) (bs : List Byte) :
    numAt (as ++ bs) o w = numAt as o w := by
  rw [numAt, numAt, List.drop_append_of_le_length (Nat.le_of_add_right_le h), List.take_append_of_le_length]
  rw [List.length_drop]
  exact Nat.le_sub_of_add_le' h

theorem numAt_append_length (as bs : List Byte) {o : Nat} (h : as.length = o) : numAt (as ++ bs) o bs.length = leNat bs := by
  rw [numAt, List.drop_left' h, List.take_length]

/-! ## CRC-32C stays within 32 bits -/

theorem crcBits_lt {c : Nat} (h : c < 2 ^ 32) (k : Nat) : crcBits k c < 2 ^ 32 := by
  induction k generalizing c with
  | zero => exact h
  | succ k ih =>
    have hhalf : c / 2 < 2 ^ 32 := Nat.lt_of_le_of_lt (Nat.div_le_self c 2) h
    rw [crcBits]
    split
    · exact ih (Nat.xor_lt_two_pow hhalf (by decide))
    · exact ih hhalf

theorem foldl_crcByte_lt (bs : List Byte) {c : Nat} (h : c < 2 ^ 32) : bs.foldl crcByte c < 2 ^ 32 := by
  induction bs generalizing c with
  | nil => exact h
  | cons b bs ih => exact ih (crcBits_lt (Nat.xor_lt_two_pow h (Nat.lt_trans b.isLt (by decide))) 8)

theorem crc32c_lt (bs : List Byte) : crc32c bs < 2 ^ 32 := Nat.xor_lt_two_pow (foldl_crcByte_lt bs (by decide)) (by decide)

/-! ## Fields packed one above the other -/

/-- The number whose fields, from bit 0 up, have the given widths and values. -/
def packFields : List (Nat × Nat) → Nat
  | [] => 0
  | (w, v) :: l => v % 2 ^ w + 2 ^ w * packFields l

theorem fld_packFields_head (w v : Nat) (l : List (Nat × Nat)) : fld (packFields ((w, v) :: l)) 0 w = v % 2 ^ w := by
  rw [packFields, fld, Nat.shiftRight_zero, Nat.add_mul_mod_self_left, Nat.mod_mod]

theorem fld_packFields_tail {w lo : Nat} (h : w ≤ lo) (v k : Nat) (l : List (Nat × Nat)) :
    fld (packFields ((w, v) :: l)) lo k = fld (packFields l) (lo - w) k := by
  have hdrop : packFields ((w, v) :: l) / 2 ^ w = packFields l := by
    rw [packFields, Nat.add_mul_div_left _ _ (Nat.two_pow_pos w), Nat.div_eq_of_lt (Nat.mod_lt _ (Nat.two_pow_pos w)), Nat.zero_add]
  rw [fld, fld, ← hdrop, ← Nat.shiftRight_eq_div_pow, ← Nat.shiftRight_add, Nat.add_sub_cancel' h]

/-! ## The commit record (R362, R363) -/

section
variable (co : Core) (idx e turn : Nat)

/-- The fields of a commit record before its check, with their widths (R362). -/
theorem commitBody_eq_packFields :
    commitBody co idx e turn = packFields [(32, co.seq.listId), (16, turn), (24, idx + 1), (24, fld e 48 24), (10, co.place),
      (22, 0), (64, co.seq.workSeq), (32, co.seq.l0.toNat), (32, co.seq.l1.toNat), (32, co.seq.l2.toNat),
      (32, co.seq.l3.toNat)] := by
  simp only [commitBody, packFields, Nat.shiftLeft_eq, Nat.mod_eq_of_lt (fld_lt e 48 24), Nat.mod_eq_of_lt (BitVec.isLt _)]
  omega

/-- A field of a commit record, given by the record's bytes. -/
theorem fld_commitRecord {lo w : Nat} (h : lo + w ≤ 480) :
    fld (leNat (commitRecord co idx e turn)) lo w = fld (commitBody co idx e turn) lo w :=
  fld_leNat_leBytes_append _ h

theorem numAt_commitRecord {o w : Nat} (h : o + w ≤ 60) :
    numAt (commitRecord co idx e turn) o w = fld (commitBody co idx e turn) (8 * o) (8 * w) := by
  rw [commitRecord, numAt_append_left (by rwa [length_leBytes]), numAt_leBytes h]

theorem length_commitRecord : (commitRecord co idx e turn).length = 64 := by
  rw [commitRecord, List.length_append, length_leBytes, length_leBytes]

/-- The last four bytes of a record are the check of the others. -/
theorem numAt_commitRecord_check : numAt (commitRecord co idx e turn) 60 4 = crc32c ((commitRecord co idx e turn).take 60) := by
  have hbody : (leBytes 60 (commitBody co idx e turn)).length = 60 := length_leBytes _ _
  have hcheck := numAt_append_length _ (leBytes 4 (crc32c (leBytes 60 (commitBody co idx e turn)))) hbody
  rw [length_leBytes, leNat_leBytes, pow_256_eq_two_pow, Nat.mod_eq_of_lt (crc32c_lt _)] at hcheck
  rw [commitRecord, List.take_left' hbody, hcheck]

/-- A record as a turn writes it is valid for its list and its work (R363). -/
theorem recordValid_commitRecord :
    recordValid (commitRecord co idx e turn) (co.seq.listId % 2 ^ 32) (co.seq.workSeq % 2 ^ 64) = true := by
  have hlist : numAt (commitRecord co idx e turn) 0 4 = co.seq.listId % 2 ^ 32 := by
    rw [numAt_commitRecord co idx e turn (by decide), commitBody_eq_packFields]
    exact fld_packFields_head _ _ _
  have hwork : numAt (commitRecord co idx e turn) 16 8 = co.seq.workSeq % 2 ^ 64 := by
    rw [numAt_commitRecord co idx e turn (by decide), commitBody_eq_packFields]
    simp [fld_packFields_tail, fld_packFields_head]
  simp only [recordValid, numAt_commitRecord_check, hlist, hwork, beq_self_eq_true, Bool.and_self]

end

/-- Settles O12: the record's bytes are its packed fields and their check, so each field is read back at its place. -/
theorem commitRecordReadsBack : Obligations.CommitRecordReadsBack := by
  unfold Obligations.CommitRecordReadsBack
  intro co idx e turn
  refine ⟨length_commitRecord co idx e turn, recordValid_commitRecord co idx e turn, ?_⟩
  have hresume : fld e 48 24 < 16777216 := fld_lt e 48 24
  have hword (v : Word) : v.toNat < 4294967296 := v.isLt
  simp [crTurn, fld_commitRecord, commitBody_eq_packFields, fld_packFields_tail, fld_packFields_head, hresume, hword]

end Sys2Proof.Machine
end

section
/-!
A list starts from its header, and its rows are fetched (R325, R326).
-/

namespace Sys2Proof.Machine

section
variable {s s1 : State} {core : Nat} {r : StartReq} {data : List Byte} (hcore : core < Config.nCores)
  (hawake : (getPower s (.core core)).st < 2) (hentry : (getPower s (.core core)).entry = none)
  (hreq : (getCore s core).startReq = some r) (hbase : baseOk (getCore s core) r.base = true)
  (hfetch : fetchRow s core (r.base / 512) = .ok s1 data)
include hcore hawake hentry hreq hbase hfetch

/-- A header with no refused field starts the list (R325, R364). -/
theorem exec_listStart_of_sound (hsound : headerBad (numAt data (r.base % 512) 16) = []) :
    exec (.listStart core) s = .next (modCore s1 core fun co =>
      { co with startReq := none, seq := startedSeq co.seq r (numAt data (r.base % 512) 16) (r.base / 512, data) }) := by
  change execListStart core s = _
  simp [execListStart, onCore_of_lt hcore, Nat.not_le_of_lt hawake, hentry, hreq, hbase, hfetch, hsound, minPos]

/-- A header with a refused field faults with the lowest (R325, R602). -/
theorem exec_listStart_of_refused {p : Nat} (hbad : minPos (headerBad (numAt data (r.base % 512) 16)) = some p) :
    exec (.listStart core) s = .next (raiseFault (modCore s1 core fun co =>
        { co with startReq := none, seq := refusedSeq co.seq r (lhId (numAt data (r.base % 512) 16)) }) core .sequencer 0
      { code := cLayerField, unit := uSeq, addr := r.base, detail := p }) := by
  change execListStart core s = _
  simp [execListStart, onCore_of_lt hcore, Nat.not_le_of_lt hawake, hentry, hreq, hbase, hfetch, hbad]

end

/-- A row that the fetch buffer does not hold, of the next entry or one of the three rows after, enters it (R326). -/
theorem exec_listFetchReturn_of_missing {s s1 : State} {core ahead row : Nat} {data : List Byte} (hcore : core < Config.nCores)
    (hahead : ahead < 4) (hrunning : (getCore s core).seq.running = true) (hstopped : (getCore s core).seq.stopped = false)
    (hrow : row = ((getCore s core).seq.base + 16 * (getCore s core).seq.pos) / 512 + ahead)
    (hmissing : ((getCore s core).seq.fetch.any fun e => e.1 == row) = false)
    (hlist : row ≤ ((getCore s core).seq.base + 16 * (getCore s core).seq.listLen) / 512)
    (hfetch : fetchRow s core row = .ok s1 data) :
    exec (.listFetchReturn core ahead) s = .next (modCore s1 core fun co =>
      { co with seq := { co.seq with fetch := ((row, data) :: co.seq.fetch).take 4 } }) := by
  subst hrow
  change execListFetchReturn core ahead s = _
  simp only [execListFetchReturn, onCore_of_lt hcore, hrunning, hstopped, hmissing, hfetch, ge_iff_le, gt_iff_lt,
    Nat.not_le_of_lt hahead, Nat.not_lt_of_le hlist, decide_false, Bool.not_true, Bool.or_false, Bool.false_eq_true, if_false]

/-- Settles O16: one lemma for a header that is sound, one for a refused header and one for a row that arrives. -/
theorem listsStart : Obligations.ListsStart := by
  unfold Obligations.ListsStart
  refine ⟨fun s s1 core h r data hcore hawake hentry hreq hbase hfetch hheader => ?_,
    fun s s1 core ahead row data => exec_listFetchReturn_of_missing⟩
  subst hheader
  exact ⟨exec_listStart_of_sound hcore hawake hentry hreq hbase hfetch,
    fun p => exec_listStart_of_refused hcore hawake hentry hreq hbase hfetch⟩

end Sys2Proof.Machine
end

section
/-!
Entries for the units of a core issue (R186, R327), and finished operations complete (R146, R307, R327, R403).
-/

namespace Sys2Proof.Machine

/-! ## Issue to a unit (R327) -/

/-- The commands of a fill or mark entry, by what the entry does (R236, R239). -/
abbrev rowCommands (core : Nat) : List (Nat × Instr) := [(0, .fill core), (1, .markEmpty core), (2, .markFull core)]

/-- The command of each operation of the vector unit. -/
abbrev vectorCommands (core : Nat) : List (Nat × Instr) :=
  [(0, .quantise core), (1, .scaleGradient core), (2, .optimiserUpdate core), (3, .topK core), (4, .rowOperation core)]

/-- The commands of a histogram dump: its number in the entry, and whether it clears the bins (R186). -/
abbrev dumpCommands (core : Nat) : List (Nat × Bool × Instr) :=
  [(2, false, .histogramDump core), (3, true, .histogramDumpAndClear core)]

theorem exec_rowCommand {s : State} {core : Nat} : ∀ x ∈ rowCommands core,
    exec x.2 s = issueAt core 3 s (fun e => fld e 92 2 == x.1) rowRoom fun idx e =>
      issueJob s core .row (newJob idx e .both [.start] 0 0) 3 false := by
  simp only [rowCommands, List.forall_mem_cons]
  exact ⟨rfl, rfl, rfl, List.forall_mem_nil _⟩

theorem exec_vectorCommand {s : State} {core : Nat} : ∀ x ∈ vectorCommands core, exec x.2 s = vecIssue core x.1 s := by
  simp only [vectorCommands, List.forall_mem_cons]
  exact ⟨rfl, rfl, rfl, rfl, rfl, List.forall_mem_nil _⟩

theorem exec_dumpCommand {s : State} {core : Nat} : ∀ x ∈ dumpCommands core,
    exec x.2.2 s = issueAt core 10 s (fun e => fld e 2 2 == x.1) anyRoom fun idx e => issueDump s core idx e x.2.1 := by
  simp only [dumpCommands, List.forall_mem_cons]
  exact ⟨rfl, rfl, List.forall_mem_nil _⟩

section
variable {s : State} {core e : Nat}

theorem exec_runLayer_of_ready (hready : Ready s core 1 e) (hroom : (getCore s core).press.length < 2) :
    exec (.runLayer core) s = .next (issueJob s core .press (unitJob s core e) 1 false) := by
  change execRunLayer core s = _
  exact issueAt_of_ready hready rfl (decide_eq_true hroom)

theorem exec_rowCommand_of_ready (hready : Ready s core 3 e) (hroom : (getCore s core).rowJobs.length < 2) :
    ∀ x ∈ rowCommands core, fld e 92 2 = x.1 → exec x.2 s = .next (issueJob s core .row (unitJob s core e) 3 false) := by
  intro x hx hsel
  rw [exec_rowCommand x hx]
  exact issueAt_of_ready hready (beq_iff_eq.2 hsel) (decide_eq_true hroom)

theorem exec_copy_of_ready (hready : Ready s core 4 e) (hroom : (getCore s core).rowJobs.length < 2) :
    exec (.copy core) s = .next (issueJob s core .row (unitJob s core e) 4 false) := by
  change execCopy core s = _
  exact issueAt_of_ready hready rfl (decide_eq_true hroom)

theorem exec_vectorCommand_of_ready (hready : Ready s core 13 e) (hroom : (getCore s core).vecJobs.length < 2) :
    ∀ x ∈ vectorCommands core, fld e 48 3 = x.1 →
      exec x.2 s = .next (issueJob s core .vector (unitJob s core e) 13 false) := by
  intro x hx hsel
  rw [exec_vectorCommand x hx]
  exact issueAt_of_ready hready (beq_iff_eq.2 hsel) (decide_eq_true hroom)

theorem exec_fsuJob_of_ready (hready : Ready s core 14 e) (hroom : (getCore s core).fsuJobs.length < 2) :
    exec (.fsuJob core) s = .next (issueJob s core .fsu (unitJob s core e) 14 false) := by
  change execFsuJob core s = _
  exact issueAt_of_ready hready rfl (decide_eq_true hroom)

theorem exec_dumpCommand_of_ready (hready : Ready s core 10 e) :
    ∀ x ∈ dumpCommands core, fld e 2 2 = x.1 → exec x.2.2 s = .next (issueDump s core (nextIssue s core) e x.2.1) := by
  intro x hx hsel
  rw [exec_dumpCommand x hx]
  exact issueAt_of_ready hready (beq_iff_eq.2 hsel) rfl

end

/-- Settles O17: each command hands an entry that is ready, and has room, to its unit. -/
theorem unitEntriesIssue : Obligations.UnitEntriesIssue := by
  unfold Obligations.UnitEntriesIssue
  exact fun s core e => ⟨exec_runLayer_of_ready, fun x hx hready hroom => exec_rowCommand_of_ready hready hroom x hx,
    exec_copy_of_ready, fun x hx hready hroom => exec_vectorCommand_of_ready hready hroom x hx, exec_fsuJob_of_ready,
    fun x hx hready => exec_dumpCommand_of_ready hready x hx⟩

/-! ## Completion (R327) -/

/-- The command that completes the operations of each unit besides the Press and the DMA engines. -/
abbrev completeCommands (core : Nat) : List (CoreUnit × Instr) :=
  [(.row, .rowEngineComplete core), (.vector, .vectorOpComplete core), (.fsu, .fsuJobComplete core)]

theorem exec_completeCommand {s : State} {core : Nat} : ∀ x ∈ completeCommands core,
    exec x.2 s = onCore core (.next (completeHead s core x.1)) := by
  simp only [completeCommands, List.forall_mem_cons]
  exact ⟨rfl, rfl, rfl, List.forall_mem_nil _⟩

/-- The operation at the head of a unit completes once it is done. -/
theorem completeHead_of_done {s : State} {core : Nat} {u : CoreUnit} {j : Job} {js : List Job}
    (hjobs : unitJobs (getCore s core) u = j :: js) (hdone : j.st = .done) : completeHead s core u = finishJob s core u j.idx := by
  simp only [completeHead, hjobs, hdone, if_true]

section
variable {s : State} {core idx : Nat} {j : Job} {js : List Job} (hcore : core < Config.nCores)
include hcore

theorem exec_completeCommand_of_done : ∀ x ∈ completeCommands core, unitJobs (getCore s core) x.1 = j :: js → j.st = .done →
    exec x.2 s = .next (finishJob s core x.1 j.idx) := by
  intro x hx hjobs hdone
  rw [exec_completeCommand x hx, onCore_of_lt hcore, completeHead_of_done hjobs hdone]

/-- A layer that drains may be the last that a set_reproducible command waits for (R146). -/
theorem exec_layerDrainEnd_of_done (hjobs : (getCore s core).press = j :: js) (hdone : j.st = .done) :
    exec (.layerDrainEnd core) s = .next (settleRepro (finishJob s core .press j.idx)) := by
  change execLayerDrainEnd core s = _
  rw [execLayerDrainEnd, onCore_of_lt hcore, completeHead_of_done (u := .press) hjobs hdone]

theorem exec_moveComplete_of_cdma (hfind : findJob (getCore s core) .cdma idx = some j)
    (hdone : moveDone (getCore s core) .cdma j = true) : exec (.moveComplete core idx) s = .next (finishJob s core .cdma idx) := by
  change execMoveComplete core idx s = _
  simp only [execMoveComplete, onCore_of_lt hcore, hfind, hdone, if_true]

/-- A move of the die DMA engine completes in issue order (R307). -/
theorem exec_moveComplete_of_dieDma (hnone : findJob (getCore s core) .cdma idx = none)
    (hjobs : (getCore s core).dieJobs = j :: js) (hidx : j.idx = idx) (hdone : moveDone (getCore s core) .dieDma j = true) :
    exec (.moveComplete core idx) s =
      .next (modCore s core fun co => completeEntry (dropHoldsOf (dropJob co .dieDma idx) .dieDma idx) idx) := by
  change execMoveComplete core idx s = _
  simp only [execMoveComplete, onCore_of_lt hcore, hnone, hjobs, hidx, hdone, and_self, if_true]

theorem exec_dieDmaMoveStart_of_next (hnext : nextDieMove (getCore s core).dieJobs = some j) :
    exec (.dieDmaMoveStart core) s = .next (resume s core .dieDma j) := by
  change execDieDmaMoveStart core s = _
  simp only [execDieDmaMoveStart, onCore_of_lt hcore, hnext]

theorem exec_hbmWriteAck {stack : Nat} (hstack : stack < Config.nStacks) :
    exec (.hbmWriteAck core stack) s =
      .next (modCore s core fun co => { co with unacked := dropFirst (fun x => x.1 == stack) co.unacked }) := by
  change execHbmWriteAck core stack s = _
  rw [execHbmWriteAck, onCore_of_lt hcore, onStack_of_lt hstack]

end

/-- Settles O19: the units' heads complete through one lemma; moves, starts and acknowledgements have one each. -/
theorem unitOperationsComplete : Obligations.UnitOperationsComplete := by
  unfold Obligations.UnitOperationsComplete
  exact fun s core idx stack j js hcore => ⟨exec_completeCommand_of_done hcore, exec_layerDrainEnd_of_done hcore,
    exec_moveComplete_of_cdma hcore, exec_moveComplete_of_dieDma hcore, exec_dieDmaMoveStart_of_next hcore,
    exec_hbmWriteAck hcore⟩

end Sys2Proof.Machine
end

section
/-!
Entries that the sequencer carries out itself: waits (R244, R253, R328), the Tally's entries and loop registers (R186, R336),
signals (R314, R339) and hoops (R247, R248, R256).
-/

namespace Sys2Proof.Machine

/-! ## Entries that block issue (R328) -/

/-- The commands of entries that only block issue until their condition is met, with the kinds of the entries. -/
abbrev waitCommands (core : Nat) : List (Nat × Instr) := [(5, .waitCount core), (6, .waitTag core), (8, .openHoop core)]

theorem exec_waitCommand {s : State} {core : Nat} : ∀ x ∈ waitCommands core,
    exec x.2 s = issueAt core x.1 s anySel anyRoom fun idx e => blockOn s core idx e 0 := by
  simp only [waitCommands, List.forall_mem_cons]
  exact ⟨rfl, rfl, rfl, List.forall_mem_nil _⟩

theorem exec_waitCommand_of_ready {s : State} {core e : Nat} : ∀ x ∈ waitCommands core, Ready s core x.1 e →
    exec x.2 s = .next (blockOn s core (nextIssue s core) e 0) := by
  intro x hx hready
  rw [exec_waitCommand x hx]
  exact issueAt_of_ready hready rfl rfl

section
variable {s : State} {core : Nat} {b : SeqBlock}

/-- A wait-count ends once the counter has reached its target (R253). -/
theorem exec_waitCountMet_of_met (hblocks : Blocks s core 5 b)
    (hmet : countMet (tget (getCore s core).hoops (fld b.entry 0 4) Hoop.reset).counter (fld b.entry 4 32) = true) :
    exec (.waitCountMet core) s = .next (nextEntry s core) := by
  obtain ⟨hcore, hblocked⟩ := hblocks
  change execWaitCountMet core s = _
  simp only [execWaitCountMet, onCore_of_lt hcore, hblocked, hmet, if_true]

/-- A wait-tag ends once its row has the awaited tag (R244). -/
theorem exec_waitTagMet_of_met {store row : Nat} (hblocks : Blocks s core 6 b)
    (hrow : ownScratch (getCore s core) (fld b.entry 0 48) = some (store, row))
    (htag : isFull s (storeRow core store row) = bitAt b.entry 48) :
    exec (.waitTagMet core) s = .next (nextEntry s core) := by
  obtain ⟨hcore, hblocked⟩ := hblocks
  change execWaitTagMet core s = _
  simp only [execWaitTagMet, onCore_of_lt hcore, hblocked, hrow, htag, if_true]

end

/-! ## Entries carried out on registers (R186, R336) -/

section
variable {s : State} {core e : Nat}

theorem exec_histogramArm_of_ready (hready : Ready s core 10 e) (hsel : fld e 2 2 = 0) :
    exec (.histogramArm core) s = .next (nextEntry (modCore s core fun co => modEngine co (fld e 0 2) fun _ =>
      { armed := true, tap := fld e 4 3, eBase := fld e 7 8, bins := [] }) core) := by
  change execHistogramArm core s = _
  exact issueAt_of_ready hready (beq_iff_eq.2 hsel) rfl

theorem exec_histogramStop_of_ready (hready : Ready s core 10 e) (hsel : fld e 2 2 = 1) :
    exec (.histogramStop core) s = .next (nextEntry
      (modCore s core fun co => modEngine co (fld e 0 2) fun t => { t with armed := false }) core) := by
  change execHistogramStop core s = _
  exact issueAt_of_ready hready (beq_iff_eq.2 hsel) rfl

theorem exec_loopLoad_of_ready (hready : Ready s core 12 e) (hsel : fld e 9 2 = 2) :
    exec (.loopLoad core) s = .next (nextEntry (modCore s core fun co =>
      { co with seq := setLoop co.seq (fld e 0 6 - 32) (BitVec.ofNat 32 (fld e 11 32)) }) core) := by
  change execLoopLoad core s = _
  exact issueAt_of_ready hready (beq_iff_eq.2 hsel) rfl

end

/-- Settles O20: the two waits block as every waiting entry does, each ends by its own condition, and each register entry is carried
out as it issues. -/
theorem waitsAndRegisterEntries : Obligations.WaitsAndRegisterEntries := by
  unfold Obligations.WaitsAndRegisterEntries
  refine ⟨fun s core e store row b => ⟨?_, fun hblocks hmet => exec_waitCountMet_of_met hblocks (decide_eq_true hmet),
    exec_waitTagMet_of_met⟩,
    fun s core e => ⟨exec_histogramArm_of_ready, exec_histogramStop_of_ready, exec_loopLoad_of_ready⟩⟩
  exact fun x hx => exec_waitCommand_of_ready x (List.mem_append_left [_] hx)

/-! ## Signals (R314, R339) -/

theorem exec_signal_of_ready {s : State} {core e : Nat} (hready : Ready s core 7 e) (hroom : (getCore s core).signals.length < 4) :
    exec (.signal core) s = .next (nextEntry (modCore s core fun co =>
      { noteIssued co (nextIssue s core) 7 false with
          signals := co.signals ++ [{ idx := nextIssue s core, entry := e, sent := false }] }) core) := by
  change execSignal core s = _
  exact issueAt_of_ready hready rfl (decide_eq_true hroom)

/-- Where the hoop address of a signal leads. -/
abbrev signalDest (s : State) (core : Nat) (g : SignalJob) : HoopDest :=
  hoopDest s core (if bitAt g.entry 64 then some (fld g.entry 48 16) else none) (hoopCore (fld g.entry 0 48))
    (hoopNum (fld g.entry 0 48)) (hoopReserved (fld g.entry 0 48))

section
variable {s : State} {core : Nat} {g : SignalJob} (hcore : core < Config.nCores)
  (hfirst : ((getCore s core).signals.find? fun g => !g.sent) = some g) (hfree : signalFree (getCore s core) g.idx = true)
include hcore hfirst hfree

/-- A signal whose address translates leaves for its hoop, in this module or another. -/
theorem exec_signalSend_of_translated
    (hdest : (∃ k, signalDest s core g = .here k) ∨ (∃ m, signalDest s core g = .module m)) :
    exec (.signalSend core) s = .next (sendHoop (modCore s core fun co =>
        { co with signals := co.signals.map fun h => if h.idx == g.idx then { h with sent := true } else h })
      (signalWho core g.idx) (.signal (fld g.entry 65 16)) (signalDest s core g) (hoopCore (fld g.entry 0 48))
      (hoopNum (fld g.entry 0 48)) (hoopRowOf (fld g.entry 0 48)) []) := by
  change execSignalSend core s = _
  rcases hdest with ⟨k, hdest⟩ | ⟨m, hdest⟩ <;>
    simp only [execSignalSend, onCore_of_lt hcore, hfirst, hfree, hdest, Bool.not_true, Bool.false_eq_true, if_false]

theorem exec_signalSend_of_bad (hdest : signalDest s core g = .bad) :
    exec (.signalSend core) s = .next (raiseFault s core .signal g.idx
      { code := cXlate, unit := uSeq, addr := fld g.entry 0 48, detail := 0 }) := by
  change execSignalSend core s = _
  simp only [execSignalSend, onCore_of_lt hcore, hfirst, hfree, hdest, Bool.not_true, Bool.false_eq_true, if_false]

end

/-! ## Hoops (R247, R248, R256) -/

section
variable {s : State} {core : Nat} {b : SeqBlock}

/-- The hoop of the entry opens once no operation holds a row of its range (R248). -/
theorem exec_hoopOpened_of_free (hblocks : Blocks s core 8 b)
    (hfree : rangeHeld core (getCore s core) (fld b.entry 4 2) (fld b.entry 6 11) (fld b.entry 17 12) = false) :
    exec (.hoopOpened core) s = .next (nextEntry
      (setCore (if fld b.entry 29 2 = 1 then markRemote s core (fld b.entry 31 16) else s) core
        { getCore s core with
          hoops := tput (getCore s core).hoops (fld b.entry 0 4) (hoopOf s (getCore s core) b.entry) }) core) := by
  obtain ⟨hcore, hblocked⟩ := hblocks
  change execHoopOpened core s = _
  simp only [execHoopOpened, onCore_of_lt hcore, hblocked]
  exact if_neg (Bool.eq_false_iff.1 hfree)

theorem exec_closeHoop_of_ready {e : Nat} (hready : Ready s core 9 e) :
    exec (.closeHoop core) s = .next (blockOn (modCore s core fun co =>
      modHoop co (fld e 0 4) fun h => { h with isOpen := false }) core (nextIssue s core) e 0) := by
  change execCloseHoop core s = _
  exact issueAt_of_ready hready rfl rfl

/-- The close ends when the hoop has no granted reduce-add left (R256). -/
theorem exec_closeHoopComplete_of_idle (hblocks : Blocks s core 9 b)
    (hidle : hoopBusy (getCore s core) (fun h => h == fld b.entry 0 4) = false) :
    exec (.closeHoopComplete core) s = .next (nextEntry s core) := by
  obtain ⟨hcore, hblocked⟩ := hblocks
  change execCloseHoopComplete core s = _
  simp only [execCloseHoopComplete, onCore_of_lt hcore, hblocked, hidle, Bool.false_eq_true, if_false]

end

/-- Settles O21: a signal's queueing and its two ways to end, and the two entries of a hoop with what ends each. -/
theorem signalsAndHoops : Obligations.SignalsAndHoops := by
  unfold Obligations.SignalsAndHoops
  refine ⟨fun s core e g dest => ⟨exec_signal_of_ready, fun hcore hfirst hfree hdest => ?_⟩, fun s core e b =>
    ⟨exec_waitCommand_of_ready (8, .openHoop core) (by simp), exec_hoopOpened_of_free, exec_closeHoop_of_ready,
      exec_closeHoopComplete_of_idle⟩⟩
  subst hdest
  exact ⟨exec_signalSend_of_translated hcore hfirst hfree, exec_signalSend_of_bad hcore hfirst hfree⟩

end Sys2Proof.Machine
end

section
/-!
Where the sequencer goes on to (R333 to R337), how a turn is made (R361, R362) and how a list ends (R340).
-/

namespace Sys2Proof.Machine

/-! ## Going on (R337) -/

/-- The state of a core whose sequencer has gone on to entry `pos`. -/
abbrev movedTo (s : State) (core pos : Nat) : State :=
  setCore s core { getCore s core with
    seq := { (getCore s core).seq with pos := pos, serial := (getCore s core).seq.serial + 1, block := none } }

section
variable {s : State} {core pos : Nat} (hruns : (getCore s core).seq.stopped = false)
include hruns

theorem goTo_of_le (hpos : pos ≤ (getCore s core).seq.listLen) : goTo s core pos = movedTo s core pos := by
  simp only [goTo]
  rw [if_neg (Bool.eq_false_iff.1 hruns), if_neg (Nat.not_lt_of_le hpos)]

/-- Past the last entry there is no field to name, and the fault is at the entry (R337, R602). -/
theorem goTo_of_lt (hpos : (getCore s core).seq.listLen < pos) :
    goTo s core pos = raiseFault (movedTo s core pos) core .sequencer pos
      { code := cLayerField, unit := uSeq, addr := entryAddr (getCore s core) pos, detail := 0xFFFFFFFF } := by
  simp only [goTo]
  rw [if_neg (Bool.eq_false_iff.1 hruns), if_pos hpos, entryFault, entryAddr, entryAddr, getCore_setCore]

end

/-! ## Branches (R335 to R337) -/

section
variable {s : State} {core e : Nat}

theorem exec_branchOnCount_of_ready (hready : Ready s core 12 e) (hsel : fld e 9 2 = 0)
    (hcounter : counterReady (getCore s core) (fld e 0 6) = true) :
    exec (.branchOnCount core) s = .next (branchGo s core (nextIssue s core) e
      (branchTaken (fld e 6 3) (fld e 0 6) (branchCounter (getCore s core) (fld e 0 6)) (fld e 11 32))) := by
  change execBranchOnCount core s = _
  exact issueAt_of_ready hready (beq_iff_eq.2 hsel) hcounter

theorem exec_branchDecrement_of_ready {v : Word} (hready : Ready s core 12 e) (hsel : fld e 9 2 = 1)
    (hv : v = lessOne (loopReg (getCore s core).seq (fld e 0 6 - 32))) :
    exec (.branchDecrement core) s = .next (branchGo
      (modCore s core fun co => { co with seq := setLoop co.seq (fld e 0 6 - 32) v }) core (nextIssue s core) e
      (branchTaken (fld e 6 3) (fld e 0 6) v.toNat (fld e 11 32))) := by
  subst hv
  change execBranchDecrement core s = _
  exact issueAt_of_ready hready (beq_iff_eq.2 hsel) rfl

end

section
variable {s : State} {core idx e : Nat} {t : Int} (ht : t = (getCore s core).seq.pos + signed 24 (fld e 43 24))
include ht

theorem branchGo_of_inside (hruns : (getCore s core).seq.stopped = false) (hlow : 1 ≤ t)
    (hhigh : t ≤ (getCore s core).seq.listLen) : branchGo s core idx e true = movedTo s core t.toNat := by
  subst ht
  simp only [branchGo, if_true, gt_iff_lt, Bool.or_eq_true, decide_eq_true_eq]
  rw [if_neg (not_or.2 ⟨Int.not_lt.2 hlow, Int.not_lt.2 hhigh⟩)]
  exact goTo_of_le hruns (Int.toNat_le.2 hhigh)

theorem branchGo_of_outside (hout : t < 1 ∨ (getCore s core).seq.listLen < t) :
    branchGo s core idx e true = raiseFault s core .sequencer idx
      { code := cLayerField, unit := uSeq, addr := (getCore s core).seq.base, detail := 36 } := by
  subst ht
  simp only [branchGo, if_true, gt_iff_lt, Bool.or_eq_true, decide_eq_true_eq, if_pos hout]

end

/-- Settles O22: the two branches compare as they issue, and going on has one lemma within the list and one past its end. -/
theorem branchesGoWhereTheyShould : Obligations.BranchesGoWhereTheyShould := by
  unfold Obligations.BranchesGoWhereTheyShould
  refine ⟨fun s core e => ⟨exec_branchOnCount_of_ready, fun v => exec_branchDecrement_of_ready⟩, fun s core idx e t hruns =>
    ⟨fun hpos => goTo_of_le hruns (Nat.succ_le_of_lt hpos), fun hpos => goTo_of_lt hruns (Nat.lt_succ_of_le hpos), fun ht =>
      ⟨branchGo_of_inside ht hruns, branchGo_of_outside ht⟩, ?_⟩⟩
  simp only [branchGo, Bool.false_eq_true, if_false]

/-! ## Turns (R361, R362) -/

/-- A turn that follows every earlier entry issues, and an open hoop decides what it does. -/
theorem exec_turn_of_ready {s : State} {core e : Nat} (hready : Ready s core 11 e) (hissued : (getCore s core).seq.issued = []) :
    exec (.turn core) s = .next (if (getCore s core).hoops.any (fun h => h.2.isOpen) then
      entryFault s core (nextIssue s core) 0xFFFFFFFF else blockOn s core (nextIssue s core) e 1) := by
  change execTurn core s = _
  exact issueAt_of_ready hready rfl (by rw [hissued, List.isEmpty_nil])

/-- The record of a turn and its event `TURN_DONE` (R361, R371). -/
abbrev turnRecorded (s : State) (core : Nat) (b : SeqBlock) : State :=
  pushEvent (writeCommit s core b) core (mkRec (writeCommit s core b) core
    { code := cTurnDone, unit := uSeq, addr := fld b.entry 0 48, detail := (getCore s core).seq.turn.toNat } b.idx 0 true)

section
variable {s : State} {core : Nat} {b : SeqBlock} (hblocks : Blocks s core 11 b)
include hblocks

/-- With every HBM write acknowledged and the slot reachable, the counter rises and the record is on its way (R361). -/
theorem exec_turnCommitWrite_of_acked {c : Word} {row : Nat} (hstage : b.stage = 1) (hacked : (getCore s core).unacked = [])
    (hc : c = (getCore s core).seq.turn + 1) (hslot : translate s core (commitSlot b.entry c.toNat) true = .ok row)
    (hawake : asleep s row = false) :
    exec (.turnCommitWrite core) s = .next (modCore s core fun co =>
      { co with seq := { co.seq with turn := c, block := some { b with stage := 2 } } }) := by
  obtain ⟨hcore, hblocked⟩ := hblocks
  subst hc
  change execTurnCommitWrite core s = _
  simp only [execTurnCommitWrite, onCore_of_lt hcore, hblocked, hstage, hacked, hslot, hawake, List.isEmpty_nil, bne_self_eq_false,
    Bool.not_true, Bool.or_self, Bool.false_eq_true, if_false]

theorem exec_turnDone_of_no_work (hstage : b.stage = 2) (hwork : workOf (turnRecorded s core b) core = none) :
    exec (.turnDone core) s = .next (nextEntry (turnRecorded s core b) core) := by
  obtain ⟨hcore, hblocked⟩ := hblocks
  change execTurnDone core s = _
  simp only [execTurnDone, onCore_of_lt hcore, hblocked, hstage, hwork, bne_self_eq_false, Bool.false_eq_true, if_false]

/-- Firmware learns the commit slots of the list, which leaves its recovery window (R371, R456). -/
theorem exec_turnDone_of_work {k : Nat} {w : Work} (hstage : b.stage = 2)
    (hwork : workOf (turnRecorded s core b) core = some (k, w)) (hseq : (getCore s core).seq.workSeq = k) :
    exec (.turnDone core) s = .next (nextEntry (putWork (turnRecorded s core b) k (leaveWindow (modList w core fun l =>
      { l with commit := some (fld b.entry 0 48), listId := (getCore s core).seq.listId }) core)) core) := by
  obtain ⟨hcore, hblocked⟩ := hblocks
  change execTurnDone core s = _
  simp only [execTurnDone, onCore_of_lt hcore, hblocked, hstage, hwork, hseq, bne_self_eq_false,
    Bool.false_eq_true, if_false, if_true]

end

theorem writeCommit_of_ok {s : State} {core row : Nat} {b : SeqBlock}
    (hrow : tableLookup s (getCore s core).part (commitSlot b.entry (getCore s core).seq.turn.toNat) true = .ok row) :
    writeCommit s core b = (putRow s row
      (padTo 512 (zeros (commitSlot b.entry (getCore s core).seq.turn.toNat % 512) ++
        commitRecord (getCore s core) b.idx b.entry (getCore s core).seq.turn.toNat))
      ((2 ^ 64 - 1) <<< (commitSlot b.entry (getCore s core).seq.turn.toNat % 512))).1 := by
  simp only [writeCommit, hrow]

/-! ## The end of a list (R340) -/

/-- Every hoop of a core closes. -/
abbrev hoopsClosed (s : State) (core : Nat) : State :=
  modCore s core fun co => { co with hoops := co.hoops.map fun h => (h.1, { h.2 with isOpen := false }) }

theorem exec_endList_of_ready {s : State} {core e : Nat} (hready : Ready s core 0 e) (hissued : (getCore s core).seq.issued = [])
    (hfree : blocked (getCore s core) 0 = none) :
    exec (.endList core) s = .next (if hoopBusy (getCore (hoopsClosed s core) core) (fun _ => true) then
      blockOn (hoopsClosed s core) core (nextIssue s core) e 0 else endDone (hoopsClosed s core) core e) := by
  change execEndList core s = _
  rw [execEndList, hfree]
  exact issueAt_of_ready hready rfl (by rw [hissued, List.isEmpty_nil])

theorem exec_endList_of_idle {s : State} {core : Nat} {b : SeqBlock} (hblocks : Blocks s core 0 b)
    (hidle : hoopBusy (getCore s core) (fun _ => true) = false) : exec (.endList core) s = .next (endDone s core b.entry) := by
  obtain ⟨hcore, hblocked⟩ := hblocks
  change execEndList core s = _
  simp only [execEndList, hblocked, onCore_of_lt hcore, hidle, Bool.false_eq_true, if_false]

/-- Settles O23: the turn's issue, its commit and its end, the record's write, and the end entry with and without arrivals left. -/
theorem turnsAndEnds : Obligations.TurnsAndEnds := by
  unfold Obligations.TurnsAndEnds
  refine ⟨fun s core e row b => ⟨fun hready hissued hclosed => ?_, fun hready hissued hopen => ?_, ?_, ?_, ?_⟩,
    fun s t core e b => ⟨?_, exec_endList_of_idle⟩⟩
  · rw [exec_turn_of_ready hready hissued, hclosed]
    rfl
  · rw [exec_turn_of_ready hready hissued, if_pos hopen]
  · rintro c a hblocks hstage hacked hc rfl hslot hawake
    exact exec_turnCommitWrite_of_acked hblocks hstage hacked hc hslot hawake
  · rintro a rfl hrow
    exact writeCommit_of_ok hrow
  · rintro t u rfl rfl hblocks hstage
    exact ⟨exec_turnDone_of_no_work hblocks hstage, fun k w => exec_turnDone_of_work hblocks hstage⟩
  · rintro hready hissued hfree rfl
    exact exec_endList_of_ready hready hissued hfree

end Sys2Proof.Machine
end

section
/-!
Transport packets on the fibre (R396): the header is the packet's fields, packed one above the other.
-/

namespace Sys2Proof.Machine

/-- The fields of a packet's header from bit 0 up, with their widths; bits 83 to 64 are 0 (R396). -/
theorem packetHeader_eq_packFields (p : Packet) :
    packetHeader p = packFields [(3, p.rows.length - 1), (11, p.row), (4, p.hoop), (10, p.core), (16, p.src), (16, p.dest),
      (4, p.op), (20, 0), (16, p.value), (12, p.mtag), (2, p.seng), (10, p.score), (4, p.hops)] := by
  simp only [packetHeader, packFields, Nat.shiftLeft_eq]
  omega

/-- Settles O14: each field is read back at its place in the packed header, and is the packet's where its width admits the value. -/
theorem packetHeaderReadsBack : Obligations.PacketHeaderReadsBack := by
  unfold Obligations.PacketHeaderReadsBack
  intro p hhops hscore hseng hmtag hvalue hop hdest hsrc hcore hhoop hrow
  simp [packetOf, packetHeader_eq_packFields, fld_packFields_tail, fld_packFields_head, Nat.mod_eq_of_lt, *]

end Sys2Proof.Machine
end

section
/-!
Flits of a port that is `UP` (R378, R384, R387, R388, R414, R415): what each command of a port does, what a container slot carries,
when a port goes `DOWN` for its records or resends, and what a sequenced flit does.
-/

namespace Sys2Proof.Machine

@[simp] theorem onPort_of_lt {p : Nat} (h : p < Config.nPorts) (o : Out) : onPort p o = o := if_pos h

/-! ## The commands -/

section
variable {s : State} {port : Nat} (hup : PortIs s port .up)
include hup

theorem exec_flitTransmit_of_up :
    exec (.flitTransmit port) s = .next (settleRecords (setPort s port (transmit (getPort s port))) port) := by
  obtain ⟨hport, hlink⟩ := hup
  change execFlitTransmit port s = _
  rw [execFlitTransmit, onPort_of_lt hport, if_pos hlink, modPort]

/-- The tag flit needs a slot that carries nothing else and room to be kept for a resend (R388, R414). -/
theorem exec_recordCloseEarly_of_open (henc : (getPort s port).encOn = true) (hopen : (getPort s port).txOpen ≠ [])
    (hresend : (getPort s port).resend = none) (hroom : (getPort s port).replay.length < 2048) :
    exec (.recordCloseEarly port) s = .next (settleRecords (setPort s port (sendTag (getPort s port))) port) := by
  obtain ⟨hport, hlink⟩ := hup
  change execRecordCloseEarly port s = _
  simp [execRecordCloseEarly, hport, hlink, henc, hopen, hresend, hroom]

theorem exec_replayTimeout_of_up :
    exec (.replayTimeout port) s = .next (settleResends (modPort s port beginResend) port) := by
  obtain ⟨hport, hlink⟩ := hup
  change execReplayTimeout port s = _
  rw [execReplayTimeout, onPort_of_lt hport, if_pos hlink]

/-- The port and whether it must go `DOWN`, after the containers of a frame up to the one that takes it down. -/
abbrev frameTaken (p : Port) (frame : List Container) : Port × Bool :=
  frame.foldl (fun (acc : Port × Bool) c => if acc.2 then acc else takeContainer acc.1 c)
    ({ p with fecUncorr := satAdd 32 p.fecUncorr (badCodewords frame) }, false)

theorem exec_frameReceive_of_up (frame : List Container) :
    exec (.frameReceive port frame) s = .next (if (frameTaken (getPort s port) frame).2
      then goDown (setPort s port (frameTaken (getPort s port) frame).1) port
      else settleResends (setPort s port (frameTaken (getPort s port) frame).1) port) := by
  obtain ⟨hport, hlink⟩ := hup
  have hcarries : ((getPort s port).link != .up && (getPort s port).link != .training) = false := by rw [hlink]; rfl
  have htrained : ((getPort s port).link == .training) = false := by rw [hlink]; rfl
  change execFrameReceive port frame s = _
  simp only [execFrameReceive, onPort_of_lt hport, hcarries, htrained, Bool.false_eq_true, if_false]

end

/-! ## A port that goes `DOWN` for its records or its resends (R388, R415) -/

section
variable {s : State} {port : Nat}

theorem settleRecords_of_spent (henc : (getPort s port).encOn = true) (hspent : 2 ^ 33 ≤ (getPort s port).txRecord) :
    settleRecords s port = goDown s port := by
  rw [settleRecords, henc, Bool.true_and, if_pos (decide_eq_true hspent)]

theorem settleRecords_of_left (hleft : (getPort s port).txRecord < 2 ^ 33) : settleRecords s port = s := by
  rw [settleRecords, decide_eq_false (Nat.not_le_of_gt hleft), Bool.and_false, if_neg Bool.false_ne_true]

theorem settleResends_of_spent (hspent : 16 < (getPort s port).resends) : settleResends s port = goDown s port := if_pos hspent

theorem settleResends_of_left (hleft : (getPort s port).resends ≤ 16) : settleResends s port = s := if_neg (Nat.not_lt_of_ge hleft)

end

/-! ## What a container slot carries (R384, R388, R414) -/

section
variable {p : Port}

theorem transmit_of_resend {i : Nat} (hresend : p.resend = some i) : transmit p = sendAgain p i := by
  simp only [transmit, hresend]

section
variable (hresend : p.resend = none)
include hresend

theorem transmit_of_full (hfull : 2048 ≤ p.replay.length) : transmit p = sendContainer p 0 0 0 [] := by
  simp only [transmit, hresend, ge_iff_le, if_pos hfull]

theorem transmit_of_record_full (hroom : p.replay.length < 2048) (henc : p.encOn = true) (hrecord : 128 ≤ p.txOpen.length) :
    transmit p = sendTag p := by
  simp only [transmit, hresend, henc, ge_iff_le, if_neg (Nat.not_le_of_gt hroom), Bool.true_and, decide_eq_true hrecord, if_true]

theorem transmit_of_data {c : Nat} (hroom : p.replay.length < 2048) (henc : p.encOn = false) (hpick : pickVc p = some c) :
    transmit p = sendData p c := by
  simp only [transmit, hresend, henc, hpick, ge_iff_le, if_neg (Nat.not_le_of_gt hroom), Bool.false_and, Bool.false_eq_true, if_false]

end

/-! ## Resends (R388) -/

section
variable (hkept : p.replay ≠ [])
include hkept

theorem beginResend_of_left (hleft : p.resends < 16) :
    beginResend p = { p with resend := some 0, resends := p.resends + 1, replayCount := satInc 32 p.replayCount } := by
  rw [beginResend, List.isEmpty_eq_false_iff.mpr hkept, if_neg Bool.false_ne_true, if_neg (Nat.not_le_of_gt hleft)]

theorem beginResend_of_spent (hspent : 16 ≤ p.resends) : beginResend p = { p with resends := 17 } := by
  rw [beginResend, List.isEmpty_eq_false_iff.mpr hkept, if_neg Bool.false_ne_true, if_pos hspent]

end

/-! ## Flits that arrive (R387) -/

variable {vc seq : Nat} {body : List Byte}

theorem takeSequenced_of_ne {isTag : Bool} (hseq : seq ≠ p.rxSeq) : takeSequenced p isTag vc seq body = (rejectFlit p, false) := by
  rw [takeSequenced, if_pos (bne_iff_ne.mpr hseq)]

theorem takeSequenced_of_plain (hseq : seq = p.rxSeq) (henc : p.encOn = false) :
    takeSequenced p false vc seq body = (storeBody { p with rxSeq := nextSeq seq, discarding := false } vc body, false) := by
  simp only [takeSequenced, hseq, henc, bne_self_eq_false, Bool.false_eq_true, if_false]

end

/-- Settles O31: the four commands of a port that is `UP`, the two counts that take it down, and the operations they are made of, one
lemma for each case. -/
theorem portsExchangeFlits : Obligations.PortsExchangeFlits := by
  unfold Obligations.PortsExchangeFlits
  refine ⟨fun s port frame hup => ?_, fun p vc seq body => ?_⟩
  · refine ⟨exec_flitTransmit_of_up hup, exec_recordCloseEarly_of_open hup, exec_replayTimeout_of_up hup, settleRecords_of_spent,
      settleRecords_of_left, settleResends_of_spent, settleResends_of_left, ?_⟩
    rintro _ rfl
    exact exec_frameReceive_of_up hup frame
  · exact ⟨fun i => transmit_of_resend, transmit_of_full, transmit_of_record_full,
      fun c hresend => transmit_of_data hresend, beginResend_of_left, beginResend_of_spent, takeSequenced_of_ne, takeSequenced_of_plain⟩

end Sys2Proof.Machine
end

section
/-!
Packets on their way out (R402, R409 to R411): the next packet of a unit meets its route, a route entry enters a die's cache, a track
answers, and a packet that waited too long for a forwarding port is dropped.
-/

namespace Sys2Proof.Machine

/-- The state once a packet has left its sending engine. -/
abbrev withoutPacket (s : State) (core : Nat) (o : OutPacket) : State :=
  setCore s core { getCore s core with outPackets := dropFirst (fun x => x == o) (getCore s core).outPackets }

section
variable {s : State} {core : Nat} {u : CoreUnit} {o : OutPacket} (hcore : core < Config.nCores)
  (hwait : waitingPacket (getCore s core) u = some o) (hcached : routeCached s (dieOf core) o.packet.dest = true)
include hcore hwait hcached

theorem exec_packetRoute_of_port {port : Nat} (hroute : rtValid (routeEntry s o.packet.dest) = true)
    (hport : pickPort s (routeEntry s o.packet.dest) (fun p => p.part == (getCore s core).part) = some port) :
    exec (.packetRoute core u) s =
      .next (queuePacket (withoutPacket s core o) port { o.packet with hops := rtHops (routeEntry s o.packet.dest) }) := by
  change execPacketRoute core u s = _
  simp only [execPacketRoute, onCore_of_lt hcore, hwait, hcached, hroute, hport, Bool.not_true, Bool.false_eq_true, if_false]

theorem exec_packetRoute_of_no_route (hroute : rtValid (routeEntry s o.packet.dest) = false) :
    exec (.packetRoute core u) s = .next (raiseFault (withoutPacket s core o) core u o.idx
      { code := cXlate, unit := senderUnit (getCore s core) u o.idx,
        addr := hoopAddr o.packet.core o.packet.hoop o.packet.row, detail := 0 }) := by
  change execPacketRoute core u s = _
  simp only [execPacketRoute, onCore_of_lt hcore, hwait, hcached, hroute, Bool.not_true, Bool.not_false, Bool.false_eq_true,
    if_false, if_true]

end

theorem exec_routeEntryFill_of_wanted {s : State} {die id : Nat} (hdie : die < Config.nDies)
    (hwanted : s.cores.any (fun e => dieOf e.1 == die && e.2.outPackets.any fun o => o.closed && o.packet.dest == id) = true)
    (hmissing : routeCached s die id = false) :
    exec (.routeEntryFill die id) s = .next (setDie s die { getDie s die with
      routeCache := ((id, tget s.routes id 0) :: (getDie s die).routeCache).take 1024 }) := by
  change execRouteEntryFill die id s = _
  simp only [execRouteEntryFill, onDie_of_lt hdie, hwanted, hmissing, Bool.not_true, Bool.or_false, Bool.false_eq_true, if_false, modDie]

theorem exec_appliedResponseSend_of_finished {s : State} {k : Nat} {t : RxTrack} (htrack : tget? s.rxTracks k = some t)
    (hleft : t.left = 0) : exec (.appliedResponseSend k) s = .next (sendAnswer s k t (t.answer.getD (finalAnswer s t))) := by
  change execAppliedResponseSend k s = _
  simp only [execAppliedResponseSend, htrack, hleft, if_true]

theorem exec_forwardTimeout_of_waiting {s : State} {port vc : Nat} {x : Nat × Packet} (hport : port < Config.nPorts)
    (hwait : (s.forwards.find? fun e => e.1 == port && channelOf e.2.op == vc) = some x) :
    exec (.forwardTimeout port vc) s = .next (sendUnreachable (dropCount
      { s with forwards := dropFirst (fun y => y == x) s.forwards } port) port x.2) := by
  change execForwardTimeout port vc s = _
  simp only [execForwardTimeout, onPort_of_lt hport, hwait]

/-- Settles O32: a packet with and without a route, the entry it waits for, a track's answer and a packet given up, one lemma each. -/
theorem packetsAreSent : Obligations.PacketsAreSent := by
  unfold Obligations.PacketsAreSent
  exact fun s core die id port vc k u o t x =>
    ⟨fun hcore hwait hcached =>
      ⟨exec_packetRoute_of_port hcore hwait hcached, exec_packetRoute_of_no_route hcore hwait hcached⟩,
     exec_routeEntryFill_of_wanted, exec_appliedResponseSend_of_finished, exec_forwardTimeout_of_waiting⟩

end Sys2Proof.Machine
end

section
/-!
Packets and responses that arrive (R254, R397 to R400, R403, R406, R411, R435): the next whole packet of a channel leaves the receive
buffer, and a response reaches the operation that its fields name.
-/

namespace Sys2Proof.Machine

/-! ## The next packet of a channel -/

/-- A packet received at a port. -/
abbrev receivedPacket (port h : Nat) (rows : List (List Byte)) : Packet := { packetOf h rows with via := port }

section
variable {s : State} {port vc h freed : Nat} {rows rx : List (List Byte)} (hport : port < Config.nPorts)
  (htake : takePacket (vcOf (getPort s port) vc).rx = some (h, rows, rx, freed)) (hfree : channelBusy s port vc = false)
include hport htake hfree

theorem exec_packetArrival_of_malformed (hbad : headerRefused h = true) :
    exec (.packetArrival port vc) s = .next (answerPacket (dropCount (tookPacket s port vc rx freed) port) port
      (receivedPacket port h rows) opRefused cLayerField []) := by
  change execPacketArrival port vc s = _
  simp only [execPacketArrival, onPort_of_lt hport, hfree, htake, hbad, Bool.false_eq_true, if_false, if_true]

section
variable (hsound : headerRefused h = false) (hvc : vc < 3)
include hsound hvc

/-- A fenced port discards what is no marker (R435). -/
theorem exec_packetArrival_of_fencing (hfence : (getPort s port).fencing = true) (hop : fld h 60 4 ≠ opManagement) :
    exec (.packetArrival port vc) s =
      .next (discardPacket (tookPacket s port vc rx freed) port (receivedPacket port h rows)) := by
  have hdata : ((packetOf h rows).op != opManagement) = true := bne_iff_ne.mpr hop
  change execPacketArrival port vc s = _
  simp only [execPacketArrival, onPort_of_lt hport, hfree, htake, hsound, if_neg (Nat.ne_of_lt hvc), hfence, hdata, Bool.and_self,
    Bool.false_eq_true, if_false, if_true]

section
variable {own : Half} (hfence : (getPort s port).fencing = false) (hown : s.moduleId = some own)
include hfence hown

theorem exec_packetArrival_of_other_module (hdest : own.toNat ≠ fld h 44 16) :
    exec (.packetArrival port vc) s =
      .next (forwardPacket (tookPacket s port vc rx freed) port (receivedPacket port h rows)) := by
  have hother : (own.toNat != (packetOf h rows).dest) = true := bne_iff_ne.mpr hdest
  change execPacketArrival port vc s = _
  simp only [execPacketArrival, onPort_of_lt hport, hfree, htake, hsound, if_neg (Nat.ne_of_lt hvc), hfence, hown, hother,
    Bool.false_and, Bool.false_eq_true, if_false, if_true]

theorem exec_packetArrival_of_request (hdest : own.toNat = fld h 44 16) (hop : fld h 60 4 ≤ opRead) :
    exec (.packetArrival port vc) s =
      .next (deliverPacket (tookPacket s port vc rx freed) port (receivedPacket port h rows)) := by
  have hmine : (own.toNat != (packetOf h rows).dest) = false := bne_eq_false_iff_eq.mpr hdest
  have hrequest : isRequest (packetOf h rows).op = true := decide_eq_true hop
  change execPacketArrival port vc s = _
  simp only [execPacketArrival, onPort_of_lt hport, hfree, htake, hsound, if_neg (Nat.ne_of_lt hvc), hfence, hown, hmine, hrequest,
    Bool.false_and, Bool.false_eq_true, if_false, if_true]

end

end

end

/-- A management packet goes to firmware when it names this module, or when the module has no ID yet (R397). -/
theorem exec_managementMessage_of_own {s : State} {port h freed : Nat} {rows rx : List (List Byte)} (hport : port < Config.nPorts)
    (htake : takePacket (vcOf (getPort s port) 3).rx = some (h, rows, rx, freed)) (hop : fld h 60 4 = opManagement)
    (hsound : headerRefused h = false) (hdest : fld h 44 16 = ownId s ∨ s.moduleId = none) :
    exec (.managementMessage port) s = .next (agreeKey (modPort (tookPacket s port 3 rx freed) port fun p =>
      { p with mgmtIn := p.mgmtIn ++ [packetOf h rows] }) port) := by
  have hmine : ((packetOf h rows).op = opManagement && !(headerRefused h) &&
      ((packetOf h rows).dest = ownId s || s.moduleId.isNone) : Bool) = true := by
    simpa [packetOf, hop, hsound] using hdest
  change execManagementMessage port s = _
  simp only [execManagementMessage, onPort_of_lt hport, htake, hmine, if_true]

/-! ## Responses -/

section
variable {s s1 : State} {port idx : Nat} {p : Packet} (hport : port < Config.nPorts) (hcore : p.score < Config.nCores)
  (hissue : responseIssue (getCore s1 p.score) p = some idx)
include hport hcore hissue

/-- A response whose core exists and whose operation is issued acts on that operation (R403). -/
theorem onResponse_of_issued {op : Nat} (act : State → Nat → CoreUnit → Nat → Packet → State)
    (hnext : nextResponse s port op = some (p, s1)) :
    onResponse port op s act = .next (act s1 p.score (engUnit p.seng) idx p) := by
  simp only [onResponse, onPort_of_lt hport, hnext, if_pos hcore, hissue]

theorem exec_appliedResponse_of_issued (hnext : nextResponse s port opApplied = some (p, s1)) :
    exec (.appliedResponse port) s = .next (if engUnit p.seng == .signal then modCore s1 p.score fun co => completeSignal co idx
      else modJob s1 p.score (engUnit p.seng) idx fun j => { j with applied := j.applied + p.value }) := by
  change execAppliedResponse port s = _
  rw [execAppliedResponse, onResponse_of_issued hport hcore hissue _ hnext]

theorem exec_refusedResponse_of_issued (hnext : nextResponse s port opRefused = some (p, s1)) :
    exec (.refusedResponse port) s = .next (responseFault s1 p.score (engUnit p.seng) idx (p.value % 256)) := by
  change execRefusedResponse port s = _
  rw [execRefusedResponse, onResponse_of_issued hport hcore hissue _ hnext]

theorem exec_unreachableResponse_of_issued (hnext : nextResponse s port opUnreachable = some (p, s1)) :
    exec (.unreachableResponse port) s = .next (responseFault s1 p.score (engUnit p.seng) idx cXlate) := by
  change execUnreachableResponse port s = _
  rw [execUnreachableResponse, onResponse_of_issued hport hcore hissue _ hnext]

theorem exec_readDataResponse_of_issued (hnext : nextResponse s port opData = some (p, s1)) :
    exec (.readDataResponse port) s = .next (modJob s1 p.score (engUnit p.seng) idx fun j =>
      if j.remote == .asked then { j with remote := .row (p.rows.headD (zeros 512)) } else j) := by
  change execReadDataResponse port s = _
  rw [execReadDataResponse, onResponse_of_issued hport hcore hissue _ hnext]

theorem exec_notReadyResponse_of_issued (hnext : nextResponse s port opNotReady = some (p, s1)) :
    exec (.notReadyResponse port) s =
      .next (modJob s1 p.score (engUnit p.seng) idx fun j => if j.remote == .asked then { j with remote := .notReady } else j) := by
  change execNotReadyResponse port s = _
  rw [execNotReadyResponse, onResponse_of_issued hport hcore hissue _ hnext]

end

/-- Settles O33: the fates of the next packet of a channel, one lemma each, and the five responses, which act alike on the operation
that they name. -/
theorem packetsAndResponsesArrive : Obligations.PacketsAndResponsesArrive := by
  unfold Obligations.PacketsAndResponsesArrive
  refine ⟨fun s port vc h freed rows rx hport htake => ⟨?_, ?_, ?_, ?_⟩, fun s s1 port idx p u hport hcore hunit hissue => ?_⟩
  · exact exec_packetArrival_of_malformed hport htake
  · exact fun own hfree hsound hvc hfence hown => ⟨exec_packetArrival_of_other_module hport htake hfree hsound hvc hfence hown,
      exec_packetArrival_of_request hport htake hfree hsound hvc hfence hown⟩
  · exact exec_packetArrival_of_fencing hport htake
  · rintro rfl
    exact exec_managementMessage_of_own hport htake
  · subst hunit
    exact ⟨exec_appliedResponse_of_issued hport hcore hissue, exec_refusedResponse_of_issued hport hcore hissue,
      exec_unreachableResponse_of_issued hport hcore hissue, exec_readDataResponse_of_issued hport hcore hissue,
      exec_notReadyResponse_of_issued hport hcore hissue⟩

end Sys2Proof.Machine
end

section
/-!
The commands on links (R390, R394, R408, R409, R411, R413, R438, R561, R564): an accepted command that may begin acts on its bytes, and
one that names a port does so unless a release or move locks the port.
-/

namespace Sys2Proof.Machine

section
variable {s : State} {seq op : Nat} {bs : List Byte}

theorem runCmd_of_begins {sel : List Byte → Bool} {act : List Byte → State} (hbegins : Begins s seq op bs) (hsel : sel bs = true) :
    runCmd s seq op sel act = .next (act bs) := by
  obtain ⟨c, hmay, rfl⟩ := Option.map_eq_some_iff.mp hbegins
  simp only [runCmd, hmay, hsel, if_true]

theorem runCmd_anyCmd_of_begins {act : List Byte → State} (hbegins : Begins s seq op bs) :
    runCmd s seq op anyCmd act = .next (act bs) :=
  runCmd_of_begins hbegins rfl

/-! ## Module ID and routes (R408, R409) -/

theorem exec_setModuleId_of_begins (hbegins : Begins s seq 0x40 bs) :
    exec (.setModuleId seq) s = .next (fixResult { s with moduleId := some (BitVec.ofNat 16 (numAt bs 16 2)) } seq 0x00 []) := by
  change execSetModuleId seq s = _
  rw [execSetModuleId, runCmd_anyCmd_of_begins hbegins, stOk]

/-- The routes that a command carries, read from host memory. -/
abbrev routeData (s : State) (bs : List Byte) : List Byte := hostRead s (numAt bs 16 8) (4 * numAt bs 28 4)

/-- The first route of a command that firmware refuses. -/
abbrev firstRefusedRoute (s : State) (bs : List Byte) : Option Nat :=
  (List.range (numAt bs 28 4)).find? fun i => routeRefused (numAt (routeData s bs) (4 * i) 4)

/-- The state with every route of a command written. -/
abbrev routesWritten (s : State) (bs : List Byte) : State :=
  (List.range (numAt bs 28 4)).foldl (fun x i =>
    writeRoute x (numAt bs 24 4 + i) (BitVec.ofNat 32 (numAt (routeData s bs) (4 * i) 4))) s

theorem exec_setRoutes_of_sound (hbegins : Begins s seq 0x41 bs) (hsound : firstRefusedRoute s bs = none) :
    exec (.setRoutes seq) s = .next (fixResult (retryForwards (routesWritten s bs)) seq 0x00 []) := by
  change execSetRoutes seq s = _
  simp only [execSetRoutes, runCmd_anyCmd_of_begins hbegins, hsound, stOk]

theorem exec_setRoutes_of_refused {i : Nat} (hbegins : Begins s seq 0x41 bs) (hrefused : firstRefusedRoute s bs = some i) :
    exec (.setRoutes seq) s = .next (refuseField s seq 16 i) := by
  change execSetRoutes seq s = _
  simp only [execSetRoutes, runCmd_anyCmd_of_begins hbegins, hrefused]

/-! ## Commands that name a port (R438) -/

/-- The commands of port_control, by their action. -/
abbrev portCommands (seq : Nat) : List (Nat × Instr) :=
  [(0, .portDisable seq), (1, .portEnable seq), (2, .forwardingOff seq), (3, .forwardingOn seq), (4, .preferLeader seq),
    (5, .preferFollower seq), (6, .encryptionOff seq), (7, .encryptionOn seq)]

theorem portAction_of_eq {k : Nat} (haction : numAt bs 17 1 = k) : portAction k bs = true := beq_iff_eq.mpr haction

/-- Each of them waits while its port is locked. -/
theorem exec_portCommand : ∀ x ∈ portCommands seq,
    ∃ act : List Byte → State, exec x.2 s = runCmd s seq 0x42 (portAction x.1) fun bs => onFreePort s bs (act bs) := by
  simp only [portCommands, List.forall_mem_cons]
  exact ⟨⟨_, show execPortDisable seq s = _ from rfl⟩, ⟨_, show execPortEnable seq s = _ from rfl⟩,
    ⟨_, show execForwardingOff seq s = _ from rfl⟩, ⟨_, show execForwardingOn seq s = _ from rfl⟩,
    ⟨_, show execPreferLeader seq s = _ from rfl⟩, ⟨_, show execPreferFollower seq s = _ from rfl⟩,
    ⟨_, show execEncryptionOff seq s = _ from rfl⟩, ⟨_, show execEncryptionOn seq s = _ from rfl⟩, List.forall_mem_nil _⟩

theorem exec_portCommand_of_locked (hlocked : portLocked s (numAt bs 16 1) = true) : ∀ x ∈ portCommands seq,
    Begins s seq 0x42 bs → numAt bs 17 1 = x.1 → exec x.2 s = .next s := by
  intro x hx hbegins haction
  obtain ⟨act, hexec⟩ := exec_portCommand (s := s) x hx
  rw [hexec, runCmd_of_begins hbegins (portAction_of_eq haction), onFreePort, portOf, if_pos hlocked]

section
variable (hfree : portLocked s (numAt bs 16 1) = false)
include hfree

theorem onFreePort_of_free (act : State) : onFreePort s bs act = act := by
  rw [onFreePort, portOf, hfree, if_neg Bool.false_ne_true]

theorem runCmd_portAction_of_free {k : Nat} {act : List Byte → State} (hbegins : Begins s seq 0x42 bs) (haction : numAt bs 17 1 = k) :
    runCmd s seq 0x42 (portAction k) (fun bs => onFreePort s bs (act bs)) = .next (act bs) := by
  rw [runCmd_of_begins hbegins (portAction_of_eq haction), onFreePort_of_free hfree]

/-! ## port_control (R390, R394, R411, R413) -/

section
variable (hbegins : Begins s seq 0x42 bs)
include hbegins

theorem exec_portDisable_of_begins (haction : numAt bs 17 1 = 0) : exec (.portDisable seq) s = .next (fixResult
    (modPort (leaveUp s (numAt bs 16 1) .disabled) (numAt bs 16 1) fun p => { p with enabled := false }) seq 0x00 []) := by
  change execPortDisable seq s = _
  rw [execPortDisable, runCmd_portAction_of_free hfree hbegins haction, portOf, stOk]

theorem exec_portEnable_of_disabled (haction : numAt bs 17 1 = 1) (hlink : (getPort s (numAt bs 16 1)).link = .disabled) :
    exec (.portEnable seq) s = .next (fixResult (setPort s (numAt bs 16 1)
      { getPort s (numAt bs 16 1) with link := .dark, enabled := true }) seq 0x00 []) := by
  change execPortEnable seq s = _
  rw [execPortEnable, runCmd_portAction_of_free hfree hbegins haction, portOf, modPort, if_pos hlink, stOk]

theorem exec_forwardingOff_of_begins (haction : numAt bs 17 1 = 2) : exec (.forwardingOff seq) s = .next (fixResult
    (setPort s (numAt bs 16 1) { getPort s (numAt bs 16 1) with forwarding := false }) seq 0x00 []) := by
  change execForwardingOff seq s = _
  rw [execForwardingOff, runCmd_portAction_of_free hfree hbegins haction, portOf, modPort, stOk]

theorem exec_forwardingOn_of_begins (haction : numAt bs 17 1 = 3) : exec (.forwardingOn seq) s = .next (fixResult
    (retryForwards (setPort s (numAt bs 16 1) { getPort s (numAt bs 16 1) with forwarding := true })) seq 0x00 []) := by
  change execForwardingOn seq s = _
  rw [execForwardingOn, runCmd_portAction_of_free hfree hbegins haction, portOf, modPort, stOk]

theorem exec_preferLeader_of_begins (haction : numAt bs 17 1 = 4) : exec (.preferLeader seq) s = .next (fixResult
    (setPort s (numAt bs 16 1) { getPort s (numAt bs 16 1) with
      policy := 1, requestPending := (getPort s (numAt bs 16 1)).requestPending ||
        ((getPort s (numAt bs 16 1)).link == .up && !(getPort s (numAt bs 16 1)).leader) }) seq 0x00 []) := by
  change execPreferLeader seq s = _
  rw [execPreferLeader, runCmd_portAction_of_free hfree hbegins haction, portOf, modPort, stOk]

theorem exec_preferFollower_of_begins (haction : numAt bs 17 1 = 5) : exec (.preferFollower seq) s = .next (fixResult
    (setPort s (numAt bs 16 1) { getPort s (numAt bs 16 1) with
      policy := 2, requestPending := (getPort s (numAt bs 16 1)).requestPending ||
        ((getPort s (numAt bs 16 1)).link == .up && (getPort s (numAt bs 16 1)).leader) }) seq 0x00 []) := by
  change execPreferFollower seq s = _
  rw [execPreferFollower, runCmd_portAction_of_free hfree hbegins haction, portOf, modPort, stOk]

theorem exec_encryptionOff_of_begins (haction : numAt bs 17 1 = 6) : exec (.encryptionOff seq) s = .next (fixResult
    (setPort s (numAt bs 16 1) { getPort s (numAt bs 16 1) with encWanted := false }) seq 0x00 []) := by
  change execEncryptionOff seq s = _
  rw [execEncryptionOff, runCmd_portAction_of_free hfree hbegins haction, portOf, modPort, stOk]

theorem exec_encryptionOn_of_closed (haction : numAt bs 17 1 = 7) (hdebug : s.rind.debugOpen = false) :
    exec (.encryptionOn seq) s = .next (fixResult
      (setPort s (numAt bs 16 1) { getPort s (numAt bs 16 1) with encWanted := true }) seq 0x00 []) := by
  change execEncryptionOn seq s = _
  rw [execEncryptionOn, runCmd_portAction_of_free hfree hbegins haction, hdebug, if_neg Bool.false_ne_true, portOf, modPort, stOk]

theorem exec_encryptionOn_of_debug (haction : numAt bs 17 1 = 7) (hdebug : s.rind.debugOpen = true) :
    exec (.encryptionOn seq) s = .next (refuseState s seq 16) := by
  change execEncryptionOn seq s = _
  rw [execEncryptionOn, runCmd_portAction_of_free hfree hbegins haction, hdebug, if_pos rfl]

end

/-! ## install_key (R561, R564) -/

/-- The wrapped key that a command names, in host memory. -/
abbrev keyData (s : State) (bs : List Byte) : List Byte := hostRead s (numAt bs 24 8) 146

/-- What unwraps from it for the port, with the agreement key of the module. -/
abbrev unwrapped (s : State) (bs : List Byte) : Option (List Byte) :=
  Config.unwrapKey s.boot.agreement (((keyData s bs).drop 1).take 97) s.fuses.serial (BitVec.ofNat 8 (numAt bs 16 1))
    ((keyData s bs).drop 98)

section
variable (hbegins : Begins s seq 0x43 bs)
include hbegins

theorem exec_installKey_of_debug (hdebug : s.rind.debugOpen = true) : exec (.installKey seq) s = .next (refuseState s seq 16) := by
  change execInstallKey seq s = _
  simp only [execInstallKey, runCmd_anyCmd_of_begins hbegins, onFreePort_of_free hfree, hdebug, if_true]

section
variable (hdebug : s.rind.debugOpen = false) (hformat : numAt (keyData s bs) 0 1 = 1)
include hdebug hformat

theorem exec_installKey_of_none (hkey : unwrapped s bs = none) :
    exec (.installKey seq) s = .next (fixResult s seq 0x04 (addrDetail 0 0)) := by
  change execInstallKey seq s = _
  simp only [execInstallKey, runCmd_anyCmd_of_begins hbegins, onFreePort_of_free hfree, hdebug, hformat, portOf, hkey,
    bne_self_eq_false, Bool.false_eq_true, if_false, refusePerm, stPerm]

theorem exec_installKey_of_some {k : List Byte} (hkey : unwrapped s bs = some k) :
    exec (.installKey seq) s = .next (fixResult (setPort s (numAt bs 16 1)
      { getPort s (numAt bs 16 1) with keyNext := some (linkKeyOf k) }) seq 0x00 []) := by
  change execInstallKey seq s = _
  simp only [execInstallKey, runCmd_anyCmd_of_begins hbegins, onFreePort_of_free hfree, hdebug, hformat, portOf, hkey,
    bne_self_eq_false, Bool.false_eq_true, if_false, modPort, stOk]

end

end

end

end

/-- Settles O52: each command as its own lemma states it, and the eight of port_control together while their port is locked. -/
theorem linkSettingsAreMade : Obligations.LinkSettingsAreMade := by
  unfold Obligations.LinkSettingsAreMade
  rintro s seq _ bs data rfl
  refine ⟨exec_setModuleId_of_begins, ?_, ?_, fun x hx hbegins haction hlocked => exec_portCommand_of_locked hlocked x hx hbegins haction,
    fun hfree => ⟨exec_portDisable_of_begins hfree, exec_portEnable_of_disabled hfree, exec_forwardingOff_of_begins hfree,
      exec_forwardingOn_of_begins hfree, exec_preferLeader_of_begins hfree, exec_preferFollower_of_begins hfree,
      exec_encryptionOff_of_begins hfree, exec_encryptionOn_of_closed hfree, exec_encryptionOn_of_debug hfree, ?_,
      exec_installKey_of_debug hfree⟩⟩
  · rintro hbegins rfl hsound
    exact exec_setRoutes_of_sound hbegins hsound
  · rintro i hbegins rfl hrefused
    exact exec_setRoutes_of_refused hbegins hrefused
  · rintro hbegins hdebug rfl hformat
    cases hkey : unwrapped s bs with
    | none => rw [exec_installKey_of_none hfree hbegins hdebug hformat hkey]; simp only [hkey]
    | some k => rw [exec_installKey_of_some hfree hbegins hdebug hformat hkey]; simp only [hkey]

end Sys2Proof.Machine
end

section
/-!
Lanes, the leader role, fences and laser inputs of the ports (R374 to R376, R394, R417 to R419, R435): each command is stated once for
each state of its port or photonic die that the statement names.
-/

namespace Sys2Proof.Machine

@[simp] theorem onPd_of_lt {k : Nat} (h : k < Config.nPhotonic) (o : Out) : onPd k o = o := if_pos h

/-! ## Lanes (R374 to R376) -/

section
variable {s : State} {port lane : Nat} (hup : PortIs s port .up)
include hup

theorem exec_laneDegrade_of_first (hspare : (getPort s port).failedWl = 0xF) (hmoving : (getPort s port).moving = none) :
    exec (.laneDegrade port lane) s = .next (setPort s port { getPort s port with moving := some lane }) := by
  obtain ⟨hport, hlink⟩ := hup
  have hcarries : ((getPort s port).link != .up && (getPort s port).link != .hold) = false := by rw [hlink]; rfl
  have hfirst : ((getPort s port).failedWl = 0xF && (getPort s port).moving.isNone : Bool) = true := by rw [hspare, hmoving]; rfl
  change execLaneDegrade port lane s = _
  simp only [execLaneDegrade, onPort_of_lt hport, hcarries, hfirst, Bool.false_eq_true, if_false, if_true]

/-- With `WL8` in use the port goes `DOWN`, and the wavelength that the lane leaves is to be tested too. -/
theorem exec_laneDegrade_of_second (hspare : (getPort s port).failedWl ≠ 0xF) (hmoving : (getPort s port).moving = none) :
    exec (.laneDegrade port lane) s = .next (goDown (setPort s port { getPort s port with
      laneDown := true, laneFailed := (getPort s port).laneFailed ++ [laneWl (getPort s port) lane], lanePassed := [] }) port) := by
  obtain ⟨hport, hlink⟩ := hup
  have hcarries : ((getPort s port).link != .up && (getPort s port).link != .hold) = false := by rw [hlink]; rfl
  change execLaneDegrade port lane s = _
  simp only [execLaneDegrade, onPort_of_lt hport, hcarries, hmoving, decide_eq_false hspare, Bool.false_and, reduceCtorEq,
    List.nil_append, Bool.false_eq_true, if_false]

theorem exec_laneMove_of_moving (hmoving : (getPort s port).moving = some lane) :
    exec (.laneMove port) s = .next (setPort s port (seeLaneSpared { getPort s port with
      failedWl := lane, moving := none, laneFailed := [lane] })) := by
  obtain ⟨hport, hlink⟩ := hup
  change execLaneMove port s = _
  simp only [execLaneMove, onPort_of_lt hport, hmoving, hlink, if_true]

end

section
variable {s : State} {port wl : Nat} (hport : port < Config.nPorts)
include hport

theorem exec_laneTest_of_all_passed (hdown : (getPort s port).laneDown = true)
    (hall : ∀ x ∈ (getPort s port).laneFailed, x ∈ insNat (getPort s port).lanePassed wl) :
    exec (.laneTest port wl true) s = .next (setPort s port { getPort s port with
      failedWl := 0xF, laneFailed := [], lanePassed := [] }) := by
  have hpassed : (getPort s port).laneFailed.all (fun x => (insNat (getPort s port).lanePassed wl).contains x) = true :=
    List.all_eq_true.mpr fun x hx => List.contains_iff_mem.mpr (hall x hx)
  change execLaneTest port wl true s = _
  simp only [execLaneTest, onPort_of_lt hport, hdown, hpassed, Bool.and_self, if_true]

theorem exec_laneTest_of_not_down (hdown : (getPort s port).laneDown = false) :
    exec (.laneTest port wl true) s = .next (setPort s port { getPort s port with
      lanePassed := insNat (getPort s port).lanePassed wl }) := by
  change execLaneTest port wl true s = _
  simp only [execLaneTest, onPort_of_lt hport, hdown, Bool.false_and, Bool.false_eq_true, if_false, if_true]

end

/-! ## The leader role (R394) -/

theorem enterHold_of_up {p : Port} (hlink : p.link = .up) : enterHold p = seeHold { p with link := .hold, frameLocked := false } :=
  if_pos hlink

section
variable {s : State} {port : Nat} (hup : PortIs s port .up)
include hup

theorem exec_roleRequest_of_leader (hleader : (getPort s port).leader = true) (hidle : (getPort s port).requestPending = false) :
    exec (.roleRequest port) s = .next (setPort s port { getPort s port with changeover := some false }) := by
  obtain ⟨hport, hlink⟩ := hup
  change execRoleRequest port s = _
  simp only [execRoleRequest, onPort_of_lt hport, hlink, hleader, hidle, bne_self_eq_false, Bool.not_true, Bool.or_self,
    Bool.false_eq_true, if_false]

theorem exec_handover_of_follower (hleader : (getPort s port).leader = false) (hidle : (getPort s port).requestPending = false)
    (hpolicy : (getPort s port).policy ≠ 2) :
    exec (.handover port) s = .next (setPort s port { getPort s port with changeover := some true }) := by
  obtain ⟨hport, hlink⟩ := hup
  change execHandover port s = _
  simp only [execHandover, onPort_of_lt hport, hlink, hleader, hidle, if_neg hpolicy, bne_self_eq_false, Bool.or_self,
    Bool.false_eq_true, if_false]

theorem exec_roleChangeover_of_granted {b : Bool} (hgranted : (getPort s port).changeover = some b) :
    exec (.roleChangeover port) s = .next (setPort s port { getPort s port with
      leader := b, changeover := none, requestPending := false, link := .hold, frameLocked := false, holdSeen := true,
      holdSeenCount := satInc 32 (getPort s port).holdSeenCount }) := by
  obtain ⟨hport, hlink⟩ := hup
  have hcarries : ((getPort s port).link != .up) = false := by rw [hlink]; rfl
  change execRoleChangeover port s = _
  simp only [execRoleChangeover, onPort_of_lt hport, hcarries, hgranted, Bool.false_eq_true, if_false]
  rw [enterHold_of_up, seeHold]
  exact hlink

/-- The answer of the other end to an own message is a free value (log 27). -/
theorem exec_roleChangeover_of_pending (hgranted : (getPort s port).changeover = none)
    (hpending : (getPort s port).requestPending = true) :
    exec (.roleChangeover port) s = .next (setPort { s with freeCtr := s.freeCtr + 1 } port
      (if Config.freeNat s.freeCtr % 2 = 0 then { getPort s port with
         leader := !(getPort s port).leader, requestPending := false, link := .hold, frameLocked := false, holdSeen := true,
         holdSeenCount := satInc 32 (getPort s port).holdSeenCount }
       else { getPort s port with requestPending := false })) := by
  obtain ⟨hport, hlink⟩ := hup
  have hcarries : ((getPort s port).link != .up) = false := by rw [hlink]; rfl
  change execRoleChangeover port s = _
  simp only [execRoleChangeover, onPort_of_lt hport, hcarries, hgranted, hpending, Bool.not_true, Bool.false_eq_true, if_false, takeFree]
  rw [enterHold_of_up, seeHold]
  exact hlink

end

/-! ## Fences (R435) -/

section
variable {s : State} {port : Nat} (hport : port < Config.nPorts)
include hport

theorem exec_fenceRequest : exec (.fenceRequest port) s = .next (setPort s port
    ([0, 1, 2].foldl (fun q c => modVc q c fun v => { v with txq := v.txq ++ [managementPacket s (getPort s port)] })
      (getPort s port))) := by
  change execFenceRequest port s = _
  rw [execFenceRequest, onPort_of_lt hport, modPort]

/-- A port that has the marker of one more channel. -/
abbrev withMarker (p : Port) (vc : Nat) : Port := modVc p vc fun v => { v with marker := true }

section
variable (hfence : (getPort s port).fencing = true)
include hfence

theorem exec_fenceMarker_of_fencing {vc : Nat} (hvc : vc ≠ 3) : exec (.fenceMarker port vc) s =
    .next (modPort (takeMarker s port vc) port fun p =>
      if fenceDone (withMarker p vc) then { withMarker p vc with fencing := false } else withMarker p vc) := by
  change execFenceMarker port vc s = _
  simp only [execFenceMarker, onPort_of_lt hport, hfence, decide_eq_false hvc, Bool.not_true, Bool.or_self, Bool.false_eq_true, if_false]

theorem exec_fenceTimeout_of_fencing
    (hlink : (getPort s port).link = .up ∨ (getPort s port).link = .hold ∨ (getPort s port).link = .training) :
    exec (.fenceTimeout port) s =
      .next (discardHeld (goDown (setPort s port { getPort s port with fencing := false }) port) port) := by
  have hfalls : (carries (getPort s port) || (getPort s port).link == .training) = true := by
    rcases hlink with h | h | h <;> rw [carries, h] <;> rfl
  change execFenceTimeout port s = _
  simp only [execFenceTimeout, onPort_of_lt hport, hfence, hfalls, if_true]

end

end

/-! ## Laser inputs (R417 to R419) -/

/-- The ports that LS-A fed change over through `HOLD`, and LS-B feeds all sixteen at full output (R418). -/
theorem exec_laserInputLoss_of_other {s : State} {pd : Nat} (hpd : pd < Config.nPhotonic) (hother : laserOk (getPd s pd).lsB = true) :
    exec (.laserInputLoss pd 0) s = .next (modPd
      ((List.range 16).foldl (fun x i => if fedByB (getPd s pd) i = false then modPort x (16 * pd + i) enterHold else x)
        (setPd s pd { getPd s pd with lsA := { (getPd s pd).lsA with failed := true, full := false } })) pd fun d =>
      { d with lowerB := true, upperB := true, lsB := { d.lsB with full := true } }) := by
  change execLaserInputLoss pd 0 s = _
  simp only [execLaserInputLoss, onPd_of_lt hpd, hother, if_true, bne_self_eq_false, beq_self_eq_true]

theorem laserOf_setLaser_same (d : Photonic) (b : Bool) (l : Laser) : laserOf (setLaser d b l) b = l := by cases b <;> rfl

theorem laserOf_setLaser_not (d : Photonic) (b : Bool) (l : Laser) : laserOf (setLaser d (!b) l) b = laserOf d b := by
  cases b <;> rfl

/-- The inputs, and not the service that the die is in. -/
theorem laserOf_with_service (d : Photonic) (b : Bool) (x : Option Bool) : laserOf { d with service := x } b = laserOf d b := by
  cases b <;> rfl

/-- A photonic die whose input `b` is powered down for service, and whose other input feeds all its ports. -/
abbrev laserReleased (d : Photonic) (b : Bool) : Photonic :=
  let d' := setLaser d b { present := false, full := false, failed := false }
  { setLaser d' (!b) { laserOf d' (!b) with full := true } with service := some b }

/-- A photonic die whose input `b` is back from service. -/
abbrev laserRestored (d : Photonic) (b : Bool) : Photonic :=
  { setLaser (setLaser d b { present := true, full := false, failed := false }) (!b)
      { laserOf d (!b) with full := false } with service := none }

/-- The laser input that a laser_service command names: LS-B, or else LS-A. -/
abbrev serviceInput (bs : List Byte) : Bool := numAt bs 17 1 == 1

section
variable {s : State} {seq : Nat} {bs : List Byte} (hbegins : Begins s seq 0x44 bs)
include hbegins

theorem exec_laserRelease_of_ok (haction : numAt bs 18 1 = 0) (hfree : (getPd s (numAt bs 16 1)).service = none)
    (hpresent : (laserOf (getPd s (numAt bs 16 1)) (serviceInput bs)).present = true)
    (hother : laserOk (laserOf (getPd s (numAt bs 16 1)) (!(serviceInput bs))) = true) :
    exec (.laserRelease seq) s = .next (fixResult (modPd
      (switchInputs s (numAt bs 16 1) (!(serviceInput bs)) (!(serviceInput bs))) (numAt bs 16 1)
      (laserReleased · (serviceInput bs))) seq 0x00 []) := by
  have hsel : laserAction 0 bs = true := beq_iff_eq.mpr haction
  change execLaserRelease seq s = _
  simp only [execLaserRelease, runCmd_of_begins hbegins hsel, hfree, hpresent, hother, Option.isSome_none, Bool.not_true, Bool.or_self,
    Bool.false_eq_true, if_false, stOk]

/-- Whether the new laser module passes its check is a free value. -/
theorem exec_laserRestore_of_service (haction : numAt bs 18 1 = 1)
    (hservice : (getPd s (numAt bs 16 1)).service = some (serviceInput bs)) :
    exec (.laserRestore seq) s = .next (if Config.freeNat s.freeCtr % 2 = 0
      then fixResult { s with freeCtr := s.freeCtr + 1 } seq 0x0C (leBytes 4 (numAt bs 16 1))
      else fixResult (switchInputs (setPd { s with freeCtr := s.freeCtr + 1 } (numAt bs 16 1)
        (laserRestored (getPd s (numAt bs 16 1)) (serviceInput bs))) (numAt bs 16 1) false true) seq 0x00 []) := by
  have hsel : laserAction 1 bs = true := beq_iff_eq.mpr haction
  change execLaserRestore seq s = _
  simp only [execLaserRestore, runCmd_of_begins hbegins hsel, hservice, bne_self_eq_false, Bool.false_eq_true, if_false, takeFree,
    stOk, stHwFail]
  rfl

end

/-- Settles O35: the commands of lanes, of the role, of fences and of laser inputs, one lemma for each case; a die after a release or a
restore has the inputs that the command gave it. -/
theorem lanesRolesFencesAndLasers : Obligations.LanesRolesFencesAndLasers := by
  unfold Obligations.LanesRolesFencesAndLasers
  refine ⟨?_, fun s port vc pd seq bs => ⟨exec_fenceRequest, fun hport hfence => exec_fenceMarker_of_fencing hport hfence,
    fun hport hfence => exec_fenceTimeout_of_fencing hport hfence, exec_laserInputLoss_of_other, ?_, ?_⟩⟩
  · rintro s port lane wl _ rfl
    exact ⟨exec_laneDegrade_of_first, exec_laneDegrade_of_second, exec_laneMove_of_moving, exec_laneTest_of_all_passed,
      exec_laneTest_of_not_down, exec_roleRequest_of_leader, exec_handover_of_follower,
      fun b hup hgranted => exec_roleChangeover_of_granted hup hgranted, exec_roleChangeover_of_pending⟩
  · intro hbegins haction hfree hpresent hother
    refine ⟨_, exec_laserRelease_of_ok hbegins haction hfree hpresent hother, rfl, ?_, ?_⟩
    · rw [laserOf_with_service, laserOf_setLaser_not, laserOf_setLaser_same]
    · rw [laserOf_with_service, laserOf_setLaser_same]
  · intro hbegins haction hservice
    refine ⟨laserRestored (getPd s (numAt bs 16 1)) (serviceInput bs), rfl, ?_,
      exec_laserRestore_of_service hbegins haction hservice⟩
    rw [laserOf_with_service, laserOf_setLaser_not, laserOf_setLaser_same]

end Sys2Proof.Machine
end

section
/-!
Partitions (R424, R427, R491), the lists of records that bind, release and move their resources (R426, R430, R432, R460, R492), and the
gating by their power (R442, R443): each command is stated once for each case that a statement names.
-/

namespace Sys2Proof.Machine

/-! ## What fixing a result leaves -/

theorem putLedger_partitions (s : State) (seq : Nat) (e : LedgerEntry) : (putLedger s seq e).partitions = s.partitions := by
  unfold putLedger
  split
  · rfl
  · dsimp only
    split <;> rfl

theorem tget?_putLedger_ne (s : State) {seq k : Nat} (e : LedgerEntry) (hne : k ≠ seq) :
    tget? (putLedger s seq e).ledger.entries k = tget? s.ledger.entries k := by
  unfold putLedger
  split
  · rfl
  · dsimp only
    split <;> exact tget?_tput_ne _ _ hne

theorem modLedger_partitions (s : State) (seq : Nat) (f : LedgerEntry → LedgerEntry) :
    (modLedger s seq f).partitions = s.partitions := by
  unfold modLedger
  split
  · exact putLedger_partitions _ _ _
  · rfl

theorem tget?_modLedger_ne (s : State) {seq k : Nat} (f : LedgerEntry → LedgerEntry) (hne : k ≠ seq) :
    tget? (modLedger s seq f).ledger.entries k = tget? s.ledger.entries k := by
  unfold modLedger
  split
  · exact tget?_putLedger_ne _ _ hne
  · rfl

/-- Nothing changes, or else commands and the command's own entry do. -/
theorem fixResult_eq_or (s : State) (seq status : Nat) (detail : List Byte) :
    fixResult s seq status detail = s ∨
      ∃ cs f, fixResult s seq status detail = modLedger { s with cmds := cs } seq f := by
  unfold fixResult
  split
  · exact .inl rfl
  · split
    · exact .inl rfl
    · exact .inr ⟨_, _, rfl⟩

@[simp] theorem getPart_fixResult (s : State) (seq status : Nat) (detail : List Byte) (part : Nat) :
    getPart (fixResult s seq status detail) part = getPart s part := by
  obtain h | ⟨cs, f, h⟩ := fixResult_eq_or s seq status detail
  · rw [h]
  · rw [h, getPart, modLedger_partitions, getPart]

@[simp] theorem getPart_refuseState (s : State) (seq off part : Nat) : getPart (refuseState s seq off) part = getPart s part :=
  getPart_fixResult _ _ _ _ _

theorem tget?_fixResult_ne (s : State) {seq k : Nat} (status : Nat) (detail : List Byte) (hne : k ≠ seq) :
    tget? (fixResult s seq status detail).ledger.entries k = tget? s.ledger.entries k := by
  obtain h | ⟨cs, f, h⟩ := fixResult_eq_or s seq status detail
  · rw [h]
  · rw [h, tget?_modLedger_ne _ _ hne]

/-! ## create_partition and query_partition (R424, R491) -/

section
variable {s : State} {seq : Nat} {bs : List Byte} {p : Partition}

theorem exec_createPartition_of_new (hbegins : Begins s seq 0x10 bs) (hnone : getPart s (cmdPart bs) = none) :
    exec (.createPartition seq) s =
      .next (fixResult (setPart s (cmdPart bs) (Partition.empty (BitVec.ofNat 32 (numAt bs 16 4)))) seq 0x00 []) := by
  change execCreatePartition seq s = _
  simp only [execCreatePartition, runCmd_anyCmd_of_begins hbegins, hnone, Option.isSome_none, Bool.false_eq_true, if_false, stOk]

theorem exec_createPartition_of_taken (hbegins : Begins s seq 0x10 bs) (hpart : getPart s (cmdPart bs) = some p) :
    exec (.createPartition seq) s = .next (refuseState s seq 2) := by
  change execCreatePartition seq s = _
  simp only [execCreatePartition, runCmd_anyCmd_of_begins hbegins, hpart, Option.isSome_some, if_true]

theorem exec_queryPartition_of_some (hbegins : Begins s seq 0x15 bs) (hpart : getPart s (cmdPart bs) = some p) :
    exec (.queryPartition seq) s = .next (fixResult (hostWrite s (numAt bs 16 8)
      (leBytes 8 p.owner.toNat ++ (partRecords s p).flatMap (leBytes 8))) seq 0x00 []) := by
  change execQueryPartition seq s = _
  simp only [execQueryPartition, runCmd_anyCmd_of_begins hbegins, hpart, stOk]

/-! ## destroy_partition (R427) -/

/-- A release or move of the partition is in progress (R438). -/
abbrev partDrains (s : State) (part : Nat) : Bool :=
  s.cmds.any fun e => e.2.draining && (cmdPart e.2.bytes == part || recvOf e.2.bytes == some part)

section
variable (hbegins : Begins s seq 0x11 bs)
include hbegins

theorem exec_destroyPartition_of_none (hnone : getPart s (cmdPart bs) = none) :
    exec (.destroyPartition seq) s = .next (refuseState s seq 2) := by
  change execDestroyPartition seq s = _
  simp only [execDestroyPartition, runCmd_anyCmd_of_begins hbegins, hnone]

section
variable (hpart : getPart s (cmdPart bs) = some p)
include hpart

/-- The command waits. -/
theorem exec_destroyPartition_of_draining (hdrains : partDrains s (cmdPart bs) = true) :
    exec (.destroyPartition seq) s = .next s := by
  change execDestroyPartition seq s = _
  simp only [execDestroyPartition, runCmd_anyCmd_of_begins hbegins, hpart, hdrains, if_true]

theorem exec_destroyPartition_of_empty (hidle : partDrains s (cmdPart bs) = false) (hempty : holdsNothing p = true) :
    exec (.destroyPartition seq) s = .next (fixResult { s with partitions := tdel s.partitions (cmdPart bs) } seq 0x00 []) := by
  change execDestroyPartition seq s = _
  simp only [execDestroyPartition, runCmd_anyCmd_of_begins hbegins, hpart, hidle, hempty, Bool.false_eq_true, if_false, if_true, stOk]

theorem exec_destroyPartition_of_holding (hidle : partDrains s (cmdPart bs) = false) (hholds : holdsNothing p = false) :
    exec (.destroyPartition seq) s = .next (refuseState s seq 2) := by
  change execDestroyPartition seq s = _
  simp only [execDestroyPartition, runCmd_anyCmd_of_begins hbegins, hpart, hidle, hholds, Bool.false_eq_true, if_false]

/-- The partition goes, and of the ledger only the command's own entry changes. -/
theorem getPart_of_exec_destroyPartition_of_empty {t : State} (hidle : partDrains s (cmdPart bs) = false) (hempty : holdsNothing p = true)
    (hexec : exec (.destroyPartition seq) s = .next t) :
    getPart t (cmdPart bs) = none ∧ ∀ k, k ≠ seq → tget? t.ledger.entries k = tget? s.ledger.entries k := by
  obtain rfl := Host.Outcome.next.inj ((exec_destroyPartition_of_empty hbegins hpart hidle hempty).symm.trans hexec)
  exact ⟨(getPart_fixResult _ _ _ _ _).trans (tget?_tdel_same _ _), fun k hne => tget?_fixResult_ne _ _ _ hne⟩

/-- A partition that holds a resource stays, whether the command waits or is refused. -/
theorem getPart_of_exec_destroyPartition_of_holding {t : State} (hholds : holdsNothing p = false)
    (hexec : exec (.destroyPartition seq) s = .next t) : getPart t (cmdPart bs) = some p := by
  cases hdrains : partDrains s (cmdPart bs) with
  | true =>
    obtain rfl := Host.Outcome.next.inj ((exec_destroyPartition_of_draining hbegins hpart hdrains).symm.trans hexec)
    exact hpart
  | false =>
    obtain rfl := Host.Outcome.next.inj ((exec_destroyPartition_of_holding hbegins hpart hdrains hholds).symm.trans hexec)
    rw [getPart_refuseState, hpart]

end

end

end

/-- Settles O36: one lemma for each case of the three commands; fixing the result neither moves a partition nor another command's
ledger entry. -/
theorem partitionsComeAndGo : Obligations.PartitionsComeAndGo := by
  unfold Obligations.PartitionsComeAndGo
  exact fun s seq bs p => ⟨exec_createPartition_of_new, exec_createPartition_of_taken,
    fun hbegins hpart hidle => ⟨exec_destroyPartition_of_empty hbegins hpart hidle,
      fun _ => getPart_of_exec_destroyPartition_of_empty hbegins hpart hidle, exec_destroyPartition_of_holding hbegins hpart hidle⟩,
    fun _ hbegins hpart => getPart_of_exec_destroyPartition_of_holding hbegins hpart, exec_destroyPartition_of_none,
    exec_queryPartition_of_some⟩

/-! ## bind_resources (R430, R460) -/

section
variable {s t : State} {seq : Nat} {bs : List Byte} (hbegins : Begins s seq 0x12 bs) (hpart : (getPart s (cmdPart bs)).isSome = true)
  (hfree : anyLocked s (locksOf s true (cmdPart bs) none (readRecords s bs)) = false) (hqueue : pagesQueued s (readRecords s bs) = false)
include hbegins hpart hfree hqueue

theorem exec_bindResources_of_marked (hmarked : markedPages s (readRecords s bs) ≠ []) :
    exec (.bindResources seq) s = .next (queuePages s (markedPages s (readRecords s bs))) := by
  have hsome : (markedPages s (readRecords s bs)).isEmpty = false := List.isEmpty_eq_false_iff.mpr hmarked
  change execBindResources seq s = _
  simp only [execBindResources, runCmd_anyCmd_of_begins hbegins, Option.isNone_eq_false_iff.mpr hpart, hfree, hqueue, hsome, Bool.or_self,
    Bool.not_false, Bool.false_eq_true, if_false, if_true]

section
variable (hclean : markedPages s (readRecords s bs) = [])
include hclean

theorem exec_bindResources_of_done
    (hdone : applyRecords (recMalformed true) (bindRecord (cmdPart bs) (readRecords s bs)) 0 (readRecords s bs) s = .done t) :
    exec (.bindResources seq) s = .next (fixResult t seq 0x00 []) := by
  change execBindResources seq s = _
  simp only [execBindResources, runCmd_anyCmd_of_begins hbegins, Option.isNone_eq_false_iff.mpr hpart, hfree, hqueue, hclean, hdone,
    Bool.or_self, List.isEmpty_nil, Bool.not_true, Bool.false_eq_true, if_false, stOk]

theorem exec_bindResources_of_refused {field : Bool} {i : Nat} (hrefused : applyRecords (recMalformed true)
      (bindRecord (cmdPart bs) (readRecords s bs)) 0 (readRecords s bs) s = .refused field i) :
    exec (.bindResources seq) s = .next (refuseList s seq field i) := by
  change execBindResources seq s = _
  simp only [execBindResources, runCmd_anyCmd_of_begins hbegins, Option.isNone_eq_false_iff.mpr hpart, hfree, hqueue, hclean, hrefused,
    Bool.or_self, List.isEmpty_nil, Bool.not_true, Bool.false_eq_true, if_false]

end

end

/-! ## release_resources and move_resources (R431, R432) -/

section
variable {s t : State} {seq : Nat} {bs : List Byte} {c : Cmd}

/-- The state in which a release or move, whose command is `c`, begins to drain. -/
abbrev releaseBegun (s : State) (seq part : Nat) (recs : List Nat) (c : Cmd) : State :=
  { beginRelease s part recs with
    cmds := tput (beginRelease s part recs).cmds seq { c with begun := true, draining := true, records := recs } }

/-- The host lets running works be stopped, or the named cores run none (R431). -/
abbrev mayStop (s : State) (bs : List Byte) : Prop :=
  numAt bs 28 1 = 1 ∨ (namedCores s (cmdPart bs) (readRecords s bs)).any (fun x => runsList s x.2) = false

/-- A release and a move begin alike; a move has a receiver, another partition. -/
theorem runRelease_of_done (hpart : (getPart s (cmdPart bs)).isSome = true)
    (hrecv : ∀ q, recvOf bs = some q → (getPart s q).isSome = true ∧ q ≠ cmdPart bs)
    (hfree : anyLocked s (locksOf s false (cmdPart bs) (recvOf bs) (readRecords s bs)) = false)
    (hdone : applyRecords (recMalformed false) (takeRecord1 (cmdPart bs) (recvOf bs) (readRecords s bs)) 0 (readRecords s bs) s = .done t)
    (hstop : mayStop s bs) (hcmd : tget? (beginRelease s (cmdPart bs) (readRecords s bs)).cmds seq = some c) :
    runRelease s seq bs = releaseBegun s seq (cmdPart bs) (readRecords s bs) c := by
  have hreceives : ((recvOf bs).any fun q => (getPart s q).isNone || q == cmdPart bs) = false := by
    cases hr : recvOf bs with
    | none => rfl
    | some q =>
      obtain ⟨hsome, hne⟩ := hrecv q hr
      simp only [Option.any_some, Option.isNone_eq_false_iff.mpr hsome, beq_eq_false_iff_ne.mpr hne, Bool.or_self]
  have hruns : (numAt bs 28 1 = 0 && (namedCores s (cmdPart bs) (readRecords s bs)).any (fun x => runsList s x.2) : Bool) = false := by
    rcases hstop with h | h <;> simp only [h, Nat.one_ne_zero, decide_false, Bool.false_and, Bool.and_false]
  simp only [runRelease, Option.isNone_eq_false_iff.mpr hpart, hreceives, hfree, hdone, hruns, hcmd, Bool.false_eq_true, if_false]

theorem recvOf_of_release (hop : cmdOpcode bs = 0x13) : recvOf bs = none := by
  rw [recvOf, hop]
  rfl

theorem recvOf_of_move (hop : cmdOpcode bs = 0x14) : recvOf bs = some (numAt bs 29 1) := if_pos hop

theorem exec_releaseResources_of_done (hbegins : Begins s seq 0x13 bs) (hpart : (getPart s (cmdPart bs)).isSome = true)
    (hop : cmdOpcode bs = 0x13) (hfree : anyLocked s (locksOf s false (cmdPart bs) none (readRecords s bs)) = false)
    (hdone : applyRecords (recMalformed false) (takeRecord1 (cmdPart bs) none (readRecords s bs)) 0 (readRecords s bs) s = .done t)
    (hstop : mayStop s bs) (hcmd : tget? (beginRelease s (cmdPart bs) (readRecords s bs)).cmds seq = some c) :
    exec (.releaseResources seq) s = .next (releaseBegun s seq (cmdPart bs) (readRecords s bs) c) := by
  have hrecv := recvOf_of_release hop
  change execReleaseResources seq s = _
  rw [execReleaseResources, runCmd_anyCmd_of_begins hbegins]
  exact congrArg _ (runRelease_of_done hpart (fun _ hx => nomatch hrecv.symm.trans hx) (hrecv ▸ hfree) (hrecv ▸ hdone) hstop hcmd)

theorem exec_moveResources_of_done {q : Nat} (hbegins : Begins s seq 0x14 bs) (hop : cmdOpcode bs = 0x14) (hq : q = numAt bs 29 1)
    (hpart : (getPart s (cmdPart bs)).isSome = true) (hreceiver : (getPart s q).isSome = true) (hne : q ≠ cmdPart bs)
    (hfree : anyLocked s (locksOf s false (cmdPart bs) (some q) (readRecords s bs)) = false)
    (hdone : applyRecords (recMalformed false) (takeRecord1 (cmdPart bs) (some q) (readRecords s bs)) 0 (readRecords s bs) s = .done t)
    (hstop : mayStop s bs) (hcmd : tget? (beginRelease s (cmdPart bs) (readRecords s bs)).cmds seq = some c) :
    exec (.moveResources seq) s = .next (releaseBegun s seq (cmdPart bs) (readRecords s bs) c) := by
  have hrecv : recvOf bs = some q := hq ▸ recvOf_of_move hop
  have hother : ∀ x, recvOf bs = some x → (getPart s x).isSome = true ∧ x ≠ cmdPart bs := by
    intro x hx
    obtain rfl : q = x := Option.some.inj (hrecv.symm.trans hx)
    exact ⟨hreceiver, hne⟩
  change execMoveResources seq s = _
  rw [execMoveResources, runCmd_anyCmd_of_begins hbegins]
  exact congrArg _ (runRelease_of_done hpart hother (hrecv ▸ hfree) (hrecv ▸ hdone) hstop hcmd)

theorem exec_releaseDrainEnd_of_drained (hcmd : tget? s.cmds seq = some c) (hdraining : c.draining = true) (hresult : c.result = none)
    (hdrained : drained s (cmdPart c.bytes) c.records = true) :
    exec (.releaseDrainEnd seq) s = .next (endRelease s seq c.bytes c.records) := by
  change execReleaseDrainEnd seq s = _
  simp only [execReleaseDrainEnd, hcmd, hdraining, hresult, hdrained, Option.isNone_none, Bool.and_self, if_true]

end

/-! ## Taking one record (R432, R492) -/

section
variable {s : State} {part q r g : Nat} {recs : List Nat} {p u : Partition} (hpart : getPart s part = some p)
include hpart

theorem takeRecord1_core_of_release (hkind : recKind r = 0) (hplace : tget? p.places (recPlace r) = some g) :
    takeRecord1 part none recs s r = some (setPart s part { p with
      places := tdel p.places (recPlace r), retain := tdel p.retain (recPlace r) }) := by
  simp only [takeRecord1, hpart, hkind, hplace, Option.bind_none, Option.isNone_none, if_true]

theorem takeRecord1_core_of_move (hreceiver : getPart s q = some u) (hkind : recKind r = 0)
    (hplace : tget? p.places (recPlace r) = some g) (hvacant : tget? u.places (recPlace r) = none) :
    takeRecord1 part (some q) recs s r = some (modPart (setPart s part { p with
      places := tdel p.places (recPlace r), retain := tdel p.retain (recPlace r) }) q fun x =>
        { x with places := tput x.places (recPlace r) g }) := by
  simp only [takeRecord1, hpart, hkind, hplace, hreceiver, hvacant, Option.bind_some, Option.isNone_none, if_true]

theorem takeRecord1_page_of_move (hreceiver : getPart s q = some u) (hkind : recKind r = 1)
    (hpage : tget? p.pages (recPage r) = some g) (hvacant : tget? u.pages (recPage r) = none) :
    takeRecord1 part (some q) recs s r = some (modPart (setPart s part { p with
      pages := tdel p.pages (recPage r) }) q fun x => { x with pages := tput x.pages (recPage r) g }) := by
  simp only [takeRecord1, hpart, hkind, hpage, hreceiver, hvacant, Option.bind_some, Option.isNone_none, if_true]

theorem takeRecord1_power_of_le (hkind : recKind r = 5) (hwatts : recWatts r ≤ p.power) :
    takeRecord1 part (some q) recs s r = some (modPart (setPart s part { p with
      power := p.power - recWatts r }) q fun x => { x with power := x.power + recWatts r }) := by
  simp only [takeRecord1, hpart, hkind, if_pos hwatts]

theorem takeRecord1_power_of_lt {recv : Option Nat} (hkind : recKind r = 5) (hwatts : p.power < recWatts r) :
    takeRecord1 part recv recs s r = none := by
  simp only [takeRecord1, hpart, hkind, if_neg (Nat.not_le_of_lt hwatts)]

end

/-- Settles O37: the bind in its three cases, the release and the move through what they have in common, the end of the drain, and the
taking of a record, one lemma for each kind named. -/
theorem resourcesMoveTogether : Obligations.ResourcesMoveTogether := by
  unfold Obligations.ResourcesMoveTogether
  rintro s t seq i field bs recs c rfl
  exact ⟨fun hbegins hpart hfree hqueue => ⟨exec_bindResources_of_marked hbegins hpart hfree hqueue,
      exec_bindResources_of_done hbegins hpart hfree hqueue,
      fun hclean => exec_bindResources_of_refused hbegins hpart hfree hqueue hclean⟩,
    exec_releaseResources_of_done, fun _ => exec_moveResources_of_done, exec_releaseDrainEnd_of_drained,
    fun _ _ _ _ _ _ hpart hreceiver _ =>
      ⟨fun hkind hplace hvacant => ⟨takeRecord1_core_of_release hpart hkind hplace,
          takeRecord1_core_of_move hpart hreceiver hkind hplace hvacant⟩,
        takeRecord1_page_of_move hpart hreceiver, takeRecord1_power_of_le hpart, takeRecord1_power_of_lt hpart⟩⟩

/-! ## Power and gating (R442, R443) -/

/-- The state with the measured power of every partition. -/
abbrev powerMeasured (s : State) (watts : List Nat) : State :=
  { s with partitions := s.partitions.map fun e => (e.1, { e.2 with watts := nth watts (e.1 - 1) 0 }) }

/-- The gating of a partition's cores so far, as its first core has it. -/
abbrev gateBefore (s : State) (p : Partition) : Nat :=
  match partCores p with
  | g :: _ => (getCore s g).gate
  | [] => 16

theorem exec_partitionPowerSample (s : State) (watts : List Nat) : exec (.partitionPowerSample watts) s = .next
    (if sumParts (powerMeasured s watts) (·.watts) ≤ pwrPart (powerMeasured s watts)
     then (powerMeasured s watts).partitions.foldl (fun x e => gatePart x e.2 16) (powerMeasured s watts)
     else powerMeasured s watts) := by
  change execPartitionPowerSample watts s = _
  exact (apply_ite Host.Outcome.next _ _ _).symm

theorem exec_powerGating_of_excess {s : State} (hexcess : pwrPart s < sumParts s (·.watts)) :
    exec .powerGating s = .next (s.partitions.foldl (fun x e =>
      if e.2.power < e.2.watts then gatePart x e.2 (gateOf s (gateBefore s e.2) e.2) else gatePart x e.2 16) s) := by
  change execPowerGating s = _
  exact if_neg (Nat.not_le_of_lt hexcess)

/-- Settles O38: a sample by whether its total fits, and the gating while it does not. -/
theorem partitionsAreGated : Obligations.PartitionsAreGated := by
  unfold Obligations.PartitionsAreGated
  intro s t watts
  refine ⟨?_, exec_powerGating_of_excess⟩
  rintro rfl
  exact exec_partitionPowerSample s watts

end Sys2Proof.Machine
end

section
/-!
The invariants of the machine: the rule of the stamp (R466, R471, R472) under every step, and what reset leaves (R514).
-/

namespace Sys2Proof.Machine

theorem stampOk_ctlClosed : CtlClosed fun s => StampOk s.stamp := ⟨fun hs _ hstamp _ => hstamp hs⟩

/-- Settles O7: every command keeps the rule of the stamp, and taking a command from the queue leaves the stamp as it is. -/
theorem everyStepKeepsTheStamp : Obligations.EveryStepKeepsTheStamp := by
  unfold Obligations.EveryStepKeepsTheStamp
  exact fun s t hs hstep => Out.of_next hstep (step_keeps stampOk_ctlClosed (fun _ => hs) hs)

/-- The nominal point of each bin has its voltage. -/
theorem diePowerReset_voltageOk (bin : Nat) : VoltageOk (DiePower.reset bin) := by
  by_cases hbin : bin = 1 <;> simp only [VoltageOk, DiePower.reset, hbin, if_true, if_false, pointMv, le_refl]

theorem getDie_reset (d : Nat) : getDie State.reset d = Die.reset State.reset.fuses.bin := rfl

/-- Settles O4: no cell is listed, no processor holds the stamp, and every die is at the nominal point of its bin. -/
theorem resetMeetsTheInvariants : Obligations.ResetMeetsTheInvariants := by
  unfold Obligations.ResetMeetsTheInvariants
  refine ⟨rfl, stampOk_none rfl, fun d => ?_⟩
  rw [getDie_reset]
  exact diePowerReset_voltageOk _

end Sys2Proof.Machine
end

section
/-!
The stamp (R466 to R472): its two processors, a grant, the cycle of Assay firmware, and the commands that claim, release and restart a
processor; then the hub control writes that a stale epoch drops (R469) and the requests to Assay firmware (R465).
-/

namespace Sys2Proof.Machine

/-! ## The two processors -/

@[simp] theorem otherMp_otherMp (m : Mp) : otherMp (otherMp m) = m := by cases m <;> rfl

section
variable (t : Stamp) (m : Mp) (p : Processor)

@[simp] theorem mpOf_setMp_same : mpOf (setMp t m p) m = p := by cases m <;> rfl

@[simp] theorem mpOf_setMp_otherMp : mpOf (setMp t m p) (otherMp m) = mpOf t (otherMp m) := by cases m <;> rfl

@[simp] theorem setMp_epoch : (setMp t m p).epoch = t.epoch := by cases m <;> rfl

@[simp] theorem setMp_holder : (setMp t m p).holder = t.holder := by cases m <;> rfl

@[simp] theorem setMp_staleCount : (setMp t m p).staleCount = t.staleCount := by cases m <;> rfl

@[simp] theorem setMp_wrRefused : (setMp t m p).wrRefused = t.wrRefused := by cases m <;> rfl

@[simp] theorem setMp_grantCount : (setMp t m p).grantCount = t.grantCount := by cases m <;> rfl

end

/-- An epoch below the largest lets the stamp be granted (R466). -/
theorem epochMax_of_ne {t : Stamp} (hepoch : t.epoch ≠ 0xFFFFFFFF) : epochMax t = false := beq_eq_false_iff_ne.mpr hepoch

/-! ## A grant (R466, R472) -/

@[simp] theorem setAlarm_stamp (s : State) (bit : Nat) : (setAlarm s bit).stamp = s.stamp := rfl

@[simp] theorem refreshWake_stamp (s : State) : (refreshWake s).stamp = s.stamp := rfl

@[simp] theorem refreshAlert_stamp (old : Nat) (s : State) : (refreshAlert old s).stamp = s.stamp := by
  unfold refreshAlert
  split <;> rfl

@[simp] theorem signalVector_stamp (s : State) (v : Nat) : (signalVector s v).stamp = s.stamp := by
  unfold signalVector
  split
  · rfl
  · split <;> rfl

@[simp] theorem raiseAlarm_stamp (s : State) (bit : Nat) : (raiseAlarm s bit).stamp = s.stamp := by
  unfold raiseAlarm
  dsimp only
  split <;> simp only [signalVector_stamp, refreshWake_stamp, refreshAlert_stamp, setAlarm_stamp]

/-- The stamp once it is granted to a processor. -/
abbrev grantedStamp (t : Stamp) (m : Mp) : Stamp :=
  setMp { t with epoch := t.epoch + 1, holder := mpCode m, grantCount := satInc 32 t.grantCount } m
    { mpOf t m with held := false, current := true, claim := none, lastEpoch := t.epoch + 1 }

/-- Whether the grant raises the alarm or not, it leaves the same stamp. -/
theorem grantStamp_stamp (s : State) (m : Mp) (prev : Option Mp) : (grantStamp s m prev).stamp = grantedStamp s.stamp m := by
  unfold grantStamp
  dsimp only
  split
  · exact raiseAlarm_stamp _ _
  · rfl

theorem grantStamp_effect (s : State) (m : Mp) (prev : Option Mp) :
    (grantStamp s m prev).stamp.epoch = s.stamp.epoch + 1 ∧ (grantStamp s m prev).stamp.holder = mpCode m ∧
    (mpOf (grantStamp s m prev).stamp m).held = false ∧ (mpOf (grantStamp s m prev).stamp m).claim = none ∧
    (grantStamp s m prev).stamp.grantCount = satInc 32 s.stamp.grantCount ∧
    mpOf (grantStamp s m prev).stamp (otherMp m) = mpOf s.stamp (otherMp m) ∧
    (grantStamp s m prev).stamp.staleCount = s.stamp.staleCount ∧ (grantStamp s m prev).stamp.wrRefused = s.stamp.wrRefused := by
  simp only [grantStamp_stamp, setMp_epoch, setMp_holder, mpOf_setMp_same, setMp_grantCount, mpOf_setMp_otherMp, setMp_staleCount,
    setMp_wrRefused, true_and, and_true]
  cases m <;> rfl

/-! ## Heartbeats and claims (R467, R468, R471) -/

theorem exec_heartbeatLapse (s : State) (m : Mp) : exec (.heartbeatLapse m) s =
    .next { s with stamp := setMp s.stamp m { mpOf s.stamp m with current := false, claim := none } } := rfl

section
variable {s : State} {m : Mp} {epoch : Word} (hreleased : mpsReleased s = true)
include hreleased

theorem exec_heartbeat_of_running (hrunning : (mpOf s.stamp m).held = false) :
    exec (.heartbeat m) s = .next { s with stamp := setMp s.stamp m { mpOf s.stamp m with current := true } } := by
  change execHeartbeat m s = _
  simp only [execHeartbeat, hreleased, hrunning, Bool.not_false, Bool.and_self, if_true]

theorem exec_stampClaim_of_other (hrunning : (mpOf s.stamp m).held = false) (hother : holderMp s.stamp ≠ some m) :
    exec (.stampClaim m epoch) s = .next { s with stamp := setMp s.stamp m { mpOf s.stamp m with claim := some epoch } } := by
  change execStampClaim m epoch s = _
  simp only [execStampClaim, hreleased, hrunning, hother, Bool.not_true, Bool.or_self, decide_false, Bool.false_eq_true, if_false]

/-! ## The cycle of Assay firmware (R467) -/

theorem exec_assayCycle_of_free (hfree : holderMp s.stamp = none) (hepoch : s.stamp.epoch ≠ 0xFFFFFFFF) :
    exec .assayCycle s = .next (dropClaims (settleClaims s none)) := by
  change execAssayCycle s = _
  simp only [execAssayCycle, hreleased, hfree, epochMax_of_ne hepoch, Bool.not_true, Bool.false_eq_true, if_false]

section
variable (hholder : holderMp s.stamp = some m)
include hholder

theorem exec_assayCycle_of_lapsed (hlapsed : (mpOf s.stamp m).current = false) :
    exec .assayCycle s = .next (dropClaims (afterLapse s m)) := by
  change execAssayCycle s = _
  simp only [execAssayCycle, hreleased, hholder, hlapsed, Bool.not_true, Bool.not_false, Bool.false_eq_true, if_false, if_true]

/-- The claim against a holder that is current is settled by the epochs. -/
theorem exec_assayCycle_of_claimed (hcurrent : (mpOf s.stamp m).current = true)
    (hclaim : (mpOf s.stamp (otherMp m)).claim = some epoch) (hepoch : s.stamp.epoch ≠ 0xFFFFFFFF) :
    exec .assayCycle s = .next (dropClaims (if winner m s.stamp.epoch epoch = m then holdOne s (otherMp m)
      else holdOne (grantStamp s (otherMp m) (some m)) m)) := by
  change execAssayCycle s = _
  simp only [execAssayCycle, hreleased, hholder, hcurrent, hclaim, epochMax_of_ne hepoch, Bool.not_true, Bool.false_eq_true, if_false,
    Bool.or_false, decide_eq_true_eq]
  exact (apply_ite (fun x => Host.Outcome.next (dropClaims x)) _ _ _).symm

end

/-! ## The standby (R468) -/

theorem exec_standbyRelease_of_held (hheld : (mpOf s.stamp m).held = true) (hleft : spentReleases s (mpOf s.stamp m) = false) :
    exec (.standbyRelease m) s = .next { s with stamp := setMp s.stamp m { mpOf s.stamp m with
      held := false, current := false, releases := (mpOf s.stamp m).releases ++ [s.rind.time.toNat] } } := by
  change execStandbyRelease m s = _
  simp only [execStandbyRelease, hreleased, hheld, hleft, Bool.not_false, Bool.and_self, if_true]

end

theorem exec_restartStandby_of_spent {s : State} {m : Mp} {seq : Nat} {bs : List Byte} (hbegins : Begins s seq 0x71 bs)
    (hholder : holderMp s.stamp = some (otherMp m)) (hheld : (mpOf s.stamp m).held = true)
    (hspent : spentReleases s (mpOf s.stamp m) = true) :
    exec (.restartStandby seq) s = .next (fixResult { s with
      stamp := setMp s.stamp m { mpOf s.stamp m with held := false, current := false, releases := [] } } seq 0x00 []) := by
  change execRestartStandby seq s = _
  simp only [execRestartStandby, runCmd_anyCmd_of_begins hbegins, hholder, Option.map_some, otherMp_otherMp, hheld, hspent,
    Bool.and_self, if_true, stOk]

/-- Settles O42: the commands of the stamp, one lemma for each case, and the stamp that a grant leaves. -/
theorem processorsClaimTheStamp : Obligations.ProcessorsClaimTheStamp := by
  unfold Obligations.ProcessorsClaimTheStamp
  exact ⟨fun s m epoch seq bs => ⟨exec_heartbeat_of_running, exec_heartbeatLapse s m, exec_stampClaim_of_other,
    exec_assayCycle_of_lapsed, exec_assayCycle_of_free, exec_assayCycle_of_claimed, exec_standbyRelease_of_held,
    exec_restartStandby_of_spent⟩, grantStamp_effect⟩

/-! ## Hub control writes (R469) -/

theorem onDomain_of_wf {d : Domain} (hd : d.wf = true) (o : Out) : onDomain d o = o := by
  cases d with
  | core c => exact onCore_of_lt (of_decide_eq_true hd) o
  | die k => exact onDie_of_lt (of_decide_eq_true hd) o
  | photonic k => exact onPd_of_lt (of_decide_eq_true hd) o
  | module => rfl

theorem onHubWrite_of_wf {w : HubWrite} (hw : w.wf = true) (o : Out) : onHubWrite w o = o := by
  cases w with
  | route _ _ => rfl
  | retain c _ => exact onCore_of_lt (of_decide_eq_true hw) o
  | vote d _ => exact onDomain_of_wf hw o

section
variable {s : State} {epoch : Word} {w : HubWrite} (hreleased : mpsReleased s = true) (hw : (Instr.hubControlWrite epoch w).wf = true)
include hreleased hw

theorem exec_hubControlWrite_of_eq (hepoch : epoch = s.stamp.epoch) :
    exec (.hubControlWrite epoch w) s = .next (applyHubWrite s w) := by
  change execHubControlWrite epoch w s = _
  simp only [execHubControlWrite, onHubWrite_of_wf hw, hreleased, hepoch, bne_self_eq_false, Bool.not_true, Bool.false_eq_true, if_false]

theorem exec_hubControlWrite_of_ne (hepoch : epoch ≠ s.stamp.epoch) : exec (.hubControlWrite epoch w) s =
    .next { s with stamp := { s.stamp with staleCount := satInc 32 s.stamp.staleCount } } := by
  change execHubControlWrite epoch w s = _
  simp only [execHubControlWrite, onHubWrite_of_wf hw, hreleased, bne_iff_ne.mpr hepoch, Bool.not_true, Bool.false_eq_true, if_false,
    if_true]

end

/-- Settles O43: a write of a part that exists is made or dropped by its epoch alone. -/
theorem staleHubWritesAreDropped : Obligations.StaleHubWritesAreDropped := by
  unfold Obligations.StaleHubWritesAreDropped
  exact fun s epoch w hreleased hw => ⟨exec_hubControlWrite_of_eq hreleased hw, exec_hubControlWrite_of_ne hreleased hw⟩

/-! ## Requests to Assay firmware (R465) -/

section
variable {s : State} {n : Nat}

theorem assayApply_sustained_of_range (hlow : 1600 ≤ n) (hhigh : n ≤ 2800) :
    assayApply s (.sustained n) = some { s with assay := { s.assay with sustained := n } } := by
  simp only [assayApply, hlow, hhigh, decide_true, Bool.and_self, if_true]

theorem assayApply_sustained_of_outside (hout : n < 1600 ∨ 2800 < n) : assayApply s (.sustained n) = none := by
  have hrange : ¬((1600 ≤ n && n ≤ 2800 : Bool) = true) := by
    simp only [Bool.and_eq_true, decide_eq_true_eq]
    omega
  exact if_neg hrange

theorem assayApply_throttlePoint_of_range (hlow : 85 ≤ n) (hhigh : n ≤ s.assay.throttlePoint) :
    assayApply s (.throttlePoint n) = some { s with assay := { s.assay with throttlePoint := n } } := by
  simp only [assayApply, hlow, hhigh, decide_true, Bool.and_self, if_true]

theorem assayApply_throttlePoint_of_outside (hout : n < 85 ∨ s.assay.throttlePoint < n) :
    assayApply s (.throttlePoint n) = none := by
  have hrange : ¬((85 ≤ n && n ≤ s.assay.throttlePoint : Bool) = true) := by
    simp only [Bool.and_eq_true, decide_eq_true_eq]
    omega
  exact if_neg hrange

end

section
variable {s t : State} {r : AssayReq}

theorem askAssay_of_some (happly : assayApply s r = some t) :
    askAssay s r = ({ t with assay := { t.assay with answer := some true } }, true) := by
  simp only [askAssay, happly]

theorem askAssay_of_none (happly : assayApply s r = none) :
    askAssay s r = ({ s with assay := { s.assay with answer := some false } }, false) := by
  simp only [askAssay, happly]

section
variable (hreleased : mpsReleased s = true)
include hreleased

theorem exec_assayRequest_of_some (happly : assayApply s r = some t) :
    exec (.assayRequest r) s = .next { t with assay := { t.assay with answer := some true } } := by
  change execAssayRequest r s = _
  rw [execAssayRequest, if_pos hreleased, askAssay_of_some happly]

theorem exec_assayRequest_of_none (happly : assayApply s r = none) :
    exec (.assayRequest r) s = .next { s with assay := { s.assay with answer := some false } } := by
  change execAssayRequest r s = _
  rw [execAssayRequest, if_pos hreleased, askAssay_of_none happly]

end

theorem requestLimit_of_some (seq : Nat) (happly : assayApply s r = some t) :
    requestLimit seq s r = fixResult { t with assay := { t.assay with answer := some true } } seq 0x00 [] := by
  simp only [requestLimit, askAssay_of_some happly, stOk]

end

section
variable {s : State} {seq : Nat} {bs : List Byte} (hbegins : Begins s seq 0x52 bs)
include hbegins

theorem exec_requestPowerLimit_of_range (hkind : numAt bs 16 1 = 0) (hlow : 1600 ≤ numAt bs 20 4) (hhigh : numAt bs 20 4 ≤ 2800) :
    exec (.requestPowerLimit seq) s = .next (fixResult { s with
      assay := { s.assay with sustained := numAt bs 20 4, answer := some true } } seq 0x00 []) := by
  have hsel : limitKind 0 bs = true := beq_iff_eq.mpr hkind
  change execRequestPowerLimit seq s = _
  rw [execRequestPowerLimit, runCmd_of_begins hbegins hsel, requestLimit_of_some seq (assayApply_sustained_of_range hlow hhigh)]

theorem exec_requestThrottlePoint_of_range (hkind : numAt bs 16 1 = 1) (hlow : 85 ≤ numAt bs 20 4)
    (hhigh : numAt bs 20 4 ≤ s.assay.throttlePoint) :
    exec (.requestThrottlePoint seq) s = .next (fixResult { s with
      assay := { s.assay with throttlePoint := numAt bs 20 4, answer := some true } } seq 0x00 []) := by
  have hsel : limitKind 1 bs = true := beq_iff_eq.mpr hkind
  change execRequestThrottlePoint seq s = _
  rw [execRequestThrottlePoint, runCmd_of_begins hbegins hsel, requestLimit_of_some seq (assayApply_throttlePoint_of_range hlow hhigh)]

end

/-- Settles O44: what is applied and what is refused, for each limit, is answered alike; a command's limit is answered in its result. -/
theorem assayAnswersRequests : Obligations.AssayAnswersRequests := by
  unfold Obligations.AssayAnswersRequests
  exact fun s n seq bs hreleased =>
    ⟨fun hlow hhigh => exec_assayRequest_of_some hreleased (assayApply_sustained_of_range hlow hhigh),
      fun hout => exec_assayRequest_of_none hreleased (assayApply_sustained_of_outside hout),
      fun hlow hhigh => exec_assayRequest_of_some hreleased (assayApply_throttlePoint_of_range hlow hhigh),
      fun hout => exec_assayRequest_of_none hreleased (assayApply_throttlePoint_of_outside hout),
      exec_assayRequest_of_none hreleased rfl, exec_assayRequest_of_none hreleased rfl,
      exec_requestPowerLimit_of_range, exec_requestThrottlePoint_of_range⟩

end Sys2Proof.Machine
end

section
/-!
Built-in self tests (R462 to R464): of a core, with its result; and of a link or a stack, which stops the works that use the part or is
refused because of them.
-/

namespace Sys2Proof.Machine

/-! ## Cores (R462, R463) -/

section
variable {s : State} {core seq : Nat} {bs : List Byte}

theorem exec_coreSelfTestDone_of_testing (pass : Bool) (hcore : core < Config.nCores) (htesting : (getCore s core).testing = true) :
    exec (.coreSelfTestDone core pass) s = .next (testResult (afterTest s core pass) 0 core pass) := by
  change execCoreSelfTestDone core pass s = _
  rw [execCoreSelfTestDone, onCore_of_lt hcore, if_pos htesting]

theorem exec_darkSpareDailyTest_of_dark (hcore : core < Config.nCores) (hdark : (getCore s core).service = .dark)
    (hunused : s.recoveries.any (fun r => r.spare == some core) = false) :
    exec (.darkSpareDailyTest core) s = .next (setCore s core { getCore s core with testing := true, isolated := true }) := by
  change execDarkSpareDailyTest core s = _
  simp only [execDarkSpareDailyTest, onCore_of_lt hcore, hdark, hunused, decide_true, Bool.not_false, Bool.and_self, if_true]

theorem exec_runTestCore_of_idle (hbegins : Begins s seq 0x70 bs) (hkind : numAt bs 16 1 = 0)
    (hidle : (getCore s (numAt bs 18 2)).service ≠ .inService)
    (hunused : s.recoveries.any (fun r => r.spare == some (numAt bs 18 2)) = false) :
    exec (.runTestCore seq) s =
      .next (modCore (beginCmd s seq) (numAt bs 18 2) fun co => { co with testing := true, isolated := true }) := by
  have hsel : testKind 0 bs = true := beq_iff_eq.mpr hkind
  change execRunTestCore seq s = _
  simp only [execRunTestCore, runCmd_of_begins hbegins hsel, hidle, hunused, decide_false, Bool.or_self, Bool.false_eq_true, if_false]

end

/-! ## Links and stacks (R464) -/

/-- The works that a test of a part that they use has to stop. -/
abbrev worksUsing (s : State) (uses : Work → Bool) : List (Nat × Work) :=
  s.works.filter fun e => (e.2.st == .running || e.2.st == .recovering) && uses e.2

/-- The work has a list on either die of the link. -/
abbrev usesLink (link : Nat) (w : Work) : Bool :=
  (workCores w).any fun c => dieOf c == (linkEnds link).1 || dieOf c == (linkEnds link).2

/-- The work has a page in the stack. -/
abbrev usesStack (s : State) (stack : Nat) (w : Work) : Bool :=
  match getPart s w.part with
  | some p => p.pages.any fun x => x.2 / 32768 % 8 == stack
  | none => false

/-- The result of a test of a link or stack that runs: what it finds is a free value. -/
abbrev testFound (s : State) (seq index : Nat) : State :=
  if Config.freeNat s.freeCtr % 2 = 0 then fixResult { s with freeCtr := s.freeCtr + 1 } seq 0x0C (leBytes 4 index)
  else fixResult { s with freeCtr := s.freeCtr + 1 } seq 0x00 []

section
variable {s : State} {bs : List Byte} {uses : Work → Bool} (seq : Nat)

/-- With no work to stop, or leave to stop them, the test runs. -/
theorem runTest_of_free (hfree : worksUsing s uses = [] ∨ numAt bs 17 1 ≠ 0) :
    runTest seq s bs uses =
      testFound ((worksUsing s uses).foldl (fun y e => preemptOrEnd y e.1 e.2) s) seq (numAt bs 18 2) := by
  have hruns : ¬((!(worksUsing s uses).isEmpty && numAt bs 17 1 = 0 : Bool) = true) := by
    rcases hfree with h | h <;> simp [h]
  exact if_neg hruns

theorem runTest_of_no_works (hworks : s.works = []) : runTest seq s bs uses = testFound s seq (numAt bs 18 2) := by
  have hnone : worksUsing s uses = [] := by rw [worksUsing, hworks, List.filter_nil]
  rw [runTest_of_free seq (.inl hnone), hnone, List.foldl_nil]

theorem runTest_of_running {w : Nat × Work} (hmem : w ∈ s.works) (hoption : numAt bs 17 1 = 0) (hst : w.2.st = .running)
    (huses : uses w.2 = true) : runTest seq s bs uses = refuseState s seq 16 := by
  have hstops : w ∈ worksUsing s uses :=
    List.mem_filter.mpr ⟨hmem, by simp only [hst, huses, beq_self_eq_true, Bool.true_or, Bool.and_self]⟩
  have hsome : (worksUsing s uses).isEmpty = false := List.isEmpty_eq_false_iff.mpr (List.ne_nil_of_mem hstops)
  have hrefuses : (!(worksUsing s uses).isEmpty && numAt bs 17 1 = 0 : Bool) = true := by
    simp only [hsome, hoption, Bool.not_false, decide_true, Bool.and_self]
  exact if_pos hrefuses

end

section
variable {s : State} {seq : Nat} {bs : List Byte} (hbegins : Begins s seq 0x70 bs)
include hbegins

theorem exec_runTestLink_of_begins (hkind : numAt bs 16 1 = 1) :
    exec (.runTestLink seq) s = .next (runTest seq s bs (usesLink (numAt bs 18 2))) := by
  have hsel : testKind 1 bs = true := beq_iff_eq.mpr hkind
  change execRunTestLink seq s = _
  exact runCmd_of_begins hbegins hsel

theorem exec_runTestStack_of_begins (hkind : numAt bs 16 1 = 2) :
    exec (.runTestStack seq) s = .next (runTest seq s bs (usesStack s (numAt bs 18 2))) := by
  have hsel : testKind 2 bs = true := beq_iff_eq.mpr hkind
  change execRunTestStack seq s = _
  exact runCmd_of_begins hbegins hsel

theorem exec_runTest_of_no_works (hworks : s.works = []) : ∀ x ∈ [(1, Instr.runTestLink seq), (2, .runTestStack seq)],
    numAt bs 16 1 = x.1 → exec x.2 s = .next (testFound s seq (numAt bs 18 2)) := by
  simp only [List.forall_mem_cons, List.not_mem_nil, false_imp_iff, implies_true, and_true]
  exact ⟨fun hkind => by rw [exec_runTestLink_of_begins hbegins hkind, runTest_of_no_works seq hworks],
    fun hkind => by rw [exec_runTestStack_of_begins hbegins hkind, runTest_of_no_works seq hworks]⟩

end

/-- Settles O41: the tests of cores, one lemma each; the tests of a link and of a stack are one test, of the works that use the part. -/
theorem selfTestsRun : Obligations.SelfTestsRun := by
  unfold Obligations.SelfTestsRun
  intro s core seq pass bs
  refine ⟨exec_coreSelfTestDone_of_testing pass, exec_darkSpareDailyTest_of_dark, exec_runTestCore_of_idle,
    fun x hx hbegins hkind hworks => exec_runTest_of_no_works hbegins hworks x hx hkind, ?_, ?_⟩
  · rintro ws t hbegins hoption rfl
    constructor
    · rintro hkind rfl
      exact (exec_runTestLink_of_begins hbegins hkind).trans (congrArg _ (runTest_of_free seq (.inr hoption)))
    · rintro hkind rfl
      exact (exec_runTestStack_of_begins hbegins hkind).trans (congrArg _ (runTest_of_free seq (.inr hoption)))
  · rintro w hmem hbegins hkind hoption hst ⟨c, hc, hdie⟩
    have huses : usesLink (numAt bs 18 2) w.2 = true :=
      List.any_eq_true.mpr ⟨c, hc, by simpa only [Bool.or_eq_true, beq_iff_eq] using hdie⟩
    rw [exec_runTestLink_of_begins hbegins hkind, runTest_of_running seq hmem hoption hst huses]

end Sys2Proof.Machine
end

section
/-!
Every command answers a next state, unless it names a part that the module does not have (R26): what the shared operations and the
checks of parts do with an outcome, and then the commands. A step runs the command at the front of the queue (R488).
-/

namespace Sys2Proof.Machine

/-- Where `p` holds a next state follows; else the step may stop for a missing part. Nothing is refused. -/
inductive GoesOnIf (p : Prop) : Out → Prop
  | next (s : State) : GoesOnIf p (.next s)
  | noSuchPart (habsent : ¬p) : GoesOnIf p (.fault .noSuchPart)

section
variable {p : Prop} {o : Out} {s : State} {c : Instr}

theorem GoesOnIf.safe_or (ho : GoesOnIf p o) : Safe o ∨ (o = .fault .noSuchPart ∧ ¬p) := by
  cases ho with
  | next s => exact .inl ⟨s, rfl⟩
  | noSuchPart habsent => exact .inr ⟨rfl, habsent⟩

/-! ## The shared operations -/

/-- What is done at part `k`, of which the module has `n`. -/
theorem part_goesOnIf {k n : Nat} (hpart : p → k < n) (ho : GoesOnIf p o) :
    GoesOnIf p (if k < n then o else .fault .noSuchPart) := by
  split
  · exact ho
  · next habsent => exact .noSuchPart fun hp => habsent (hpart hp)

theorem onDomain_goesOnIf {d : Domain} (hdom : p → d.wf = true) (ho : GoesOnIf p o) : GoesOnIf p (onDomain d o) := by
  cases d with
  | core c => exact part_goesOnIf (fun hp => of_decide_eq_true (hdom hp)) ho
  | die d => exact part_goesOnIf (fun hp => of_decide_eq_true (hdom hp)) ho
  | photonic k => exact part_goesOnIf (fun hp => of_decide_eq_true (hdom hp)) ho
  | module => exact ho

theorem onHubWrite_goesOnIf {w : HubWrite} (hwrite : p → w.wf = true) (ho : GoesOnIf p o) : GoesOnIf p (onHubWrite w o) := by
  cases w with
  | route id e => exact ho
  | retain c on => exact part_goesOnIf (fun hp => of_decide_eq_true (hwrite hp)) ho
  | vote d st => exact onDomain_goesOnIf hwrite ho

theorem onPad_goesOnIf {d : Pad} (hpad : p → d.wf = true) (ho : GoesOnIf p o) : GoesOnIf p (onPad d o) := by
  cases d with
  | hbmPhy d => exact part_goesOnIf (fun hp => of_decide_eq_true (hpad hp)) ho
  | ucie a b =>
    have hdies (hp : p) : a < Config.nDies ∧ b < Config.nDies := by
      simpa only [Pad.wf, Bool.and_eq_true, decide_eq_true_eq] using hpad hp
    exact part_goesOnIf (fun hp => (hdies hp).1) (part_goesOnIf (fun hp => (hdies hp).2) ho)
  | xspi => exact ho
  | elsfp => exact ho
  | tdo => exact ho

theorem issueAt_goesOnIf {core kind : Nat} {sel : Nat → Bool} {room : Core → Nat → Bool} {act : Nat → Nat → State}
    (hcore : p → core < Config.nCores) : GoesOnIf p (issueAt core kind s sel room act) := by
  refine part_goesOnIf hcore ?_
  repeat' split
  all_goals exact .next _

theorem moveIssue_goesOnIf {core fn : Nat} (hcore : p → core < Config.nCores) : GoesOnIf p (moveIssue core fn s) :=
  issueAt_goesOnIf hcore

theorem vecIssue_goesOnIf {core vop : Nat} (hcore : p → core < Config.nCores) : GoesOnIf p (vecIssue core vop s) :=
  issueAt_goesOnIf hcore

theorem onResponse_goesOnIf {port op : Nat} {act : State → Nat → CoreUnit → Nat → Packet → State}
    (hport : p → port < Config.nPorts) : GoesOnIf p (onResponse port op s act) := by
  refine part_goesOnIf hport ?_
  repeat' split
  all_goals exact .next _

theorem runCmd_goesOnIf {seq op : Nat} {sel : List Byte → Bool} {act : List Byte → State} :
    GoesOnIf p (runCmd s seq op sel act) := by
  unfold runCmd
  repeat' split
  all_goals exact .next _

theorem smbTalk_goesOnIf {f : State → State} : GoesOnIf p (smbTalk s f) := by
  unfold smbTalk
  repeat' split
  all_goals exact .next _

theorem spdmTake_goesOnIf {request : List Byte} {code len : Nat} {ready : Spdm → Bool} {f : State → State} :
    GoesOnIf p (spdmTake s request code len ready f) := smbTalk_goesOnIf

/-! ## Commands whose part depends on the command's kind -/

/-- A list that is ending is looked at again; else the entry issues. -/
theorem execEndList_goesOnIf {core : Nat} (hcore : p → core < Config.nCores) : GoesOnIf p (execEndList core s) := by
  unfold execEndList
  split
  · refine part_goesOnIf hcore ?_
    split
    all_goals exact .next _
  · exact issueAt_goesOnIf hcore

theorem execFaultClassify_goesOnIf {source : FaultSource} (hsource : p → source.wf = true) :
    GoesOnIf p (execFaultClassify source s) := by
  cases source with
  | record c | checkError c | spareExhausted c | dieFailed c | stackFailed c =>
    refine part_goesOnIf (fun hp => of_decide_eq_true (hsource hp)) ?_
    repeat' split
    all_goals exact .next _
  | hubFailed => exact .next _

theorem execAccessWake_goesOnIf {dom : Domain} {src : WakeSource} (hdom : p → dom.wf = true) :
    GoesOnIf p (execAccessWake dom src s) := by
  cases dom with
  | core c | die c | photonic c => exact part_goesOnIf (fun hp => of_decide_eq_true (hdom hp)) (.next _)
  | module => exact .next _

theorem execLinkRetire_goesOnIf {link : Nat} (hlink : p → link < 24) : GoesOnIf p (execLinkRetire link s) := by
  unfold execLinkRetire
  split
  · next habsent => exact .noSuchPart fun hp => Nat.not_lt_of_ge habsent (hlink hp)
  · split
    all_goals exact .next _

theorem execSmbusAlertResponse_goesOnIf : GoesOnIf p (execSmbusAlertResponse s) := by
  unfold execSmbusAlertResponse
  split
  · exact .next _
  · exact smbTalk_goesOnIf

/-! ## The commands -/

/-- Commands that share an operation, and so its lemma, stand together; the others act on one core or die. A branch may bind
values between two choices, which `dsimp only` puts in their places. -/
theorem exec_unitCommand_goesOnIf (hunit : unitCommand c = true) : GoesOnIf (c.wf = true) (exec c s) := by
  cases c with
  | runLayer _ | fill _ | markEmpty _ | markFull _ | copy _ | waitCount _ | waitTag _ | signal _ | openHoop _ | closeHoop _
  | histogramArm _ | histogramStop _ | histogramDump _ | histogramDumpAndClear _ | turn _ | branchOnCount _
  | branchDecrement _ | loopLoad _ | fsuJob _ =>
    simp only [exec, Instr.wf, decide_eq_true_eq]
    exact issueAt_goesOnIf id
  | moveCopy _ | moveCompress _ | moveZeroRunStore _ | moveMaskTranspose _ | moveScatterAdd _ | moveReduceContribution _
  | moveSelectiveFetch _ =>
    simp only [exec, Instr.wf, decide_eq_true_eq]
    exact moveIssue_goesOnIf id
  | quantise _ | scaleGradient _ | optimiserUpdate _ | topK _ | rowOperation _ =>
    simp only [exec, Instr.wf, decide_eq_true_eq]
    exact vecIssue_goesOnIf id
  | listStart _ | skimDownUnconfirmed _ | skimBackUnconfirmed _ | dieDmaMoveStart _ | moveComplete _ _ | rowEngineComplete _
  | waitCountMet _ | waitTagMet _ | signalSend _ | hoopOpened _ | closeHoopComplete _ | turnCommitWrite _ | vectorOpComplete _
  | fsuJobComplete _ | accessGrantAfterWait _ _ | watchdogExpiry _ _ | remoteWriteArrival _ _ | reduceAddArrival _ _
  | signalArrival _ _ | remoteRead _ _ | remoteReadRetry _ _ | conflictQueueRetire _ | ctuTranslationFill _ _
  | reducerContribution _ _ =>
    simp only [exec, Instr.wf, decide_eq_true_eq]
    refine part_goesOnIf id ?_
    with_reducible repeat' first | exact .next _ | split | dsimp only
  | listFetchReturn _ _ =>
    simp only [exec, Instr.wf, Bool.and_eq_true, decide_eq_true_eq]
    refine part_goesOnIf And.left ?_
    with_reducible repeat' first | exact .next _ | split
  | hbmWriteAck _ _ =>
    simp only [exec, Instr.wf, Bool.and_eq_true, decide_eq_true_eq]
    exact part_goesOnIf And.left (part_goesOnIf And.right (.next _))
  | _ => contradiction

/-- Commands that share an operation, and so its lemma, stand together: those of the mailbox, of SMBus and of SPDM, those that
act on one part, those whose operand names the part, and at the end those that name no part. -/
theorem exec_otherCommand_goesOnIf (hother : unitCommand c = false) : GoesOnIf (c.wf = true) (exec c s) := by
  cases c with
  | identify _ | queryLedger _ | queryCores _ | readFault _ | createPartition _ | destroyPartition _ | bindResources _
  | releaseResources _ | moveResources _ | queryPartition _ | startWork _ | preemptWork _ | resumeWork _ | discardWork _
  | openWindow _ | closeWindow _ | readRows _ | writeRows _ | setModuleId _ | setRoutes _ | portDisable _ | portEnable _
  | forwardingOff _ | forwardingOn _ | preferLeader _ | preferFollower _ | encryptionOff _ | encryptionOn _ | installKey _
  | laserRelease _ | laserRestore _ | setReproducible _ | voteCoreState _ | voteDieState _ | votePhotonicState _
  | voteModuleState _ | voteOperatingPoint _ | voteWithdraw _ | requestPowerLimit _ | requestThrottlePoint _ | readStatus _
  | clearStatus _ | runTestCore _ | runTestLink _ | runTestStack _ | restartStandby _ =>
    simp only [exec]
    exact runCmd_goesOnIf
  | smbIdentRead | smbStateRead | smbLatchRead | smbLatchWrite _ _ | smbTempRead | smbPowerRead | smbAlarmRead
  | smbAlertEnRead | smbAlertEnWrite _ _ | smbNonceRead =>
    simp only [exec]
    exact smbTalk_goesOnIf
  | spdmGetVersion _ | spdmGetCapabilities _ | spdmNegotiateAlgorithms _ | spdmGetDigests _ | spdmGetCertificate _
  | spdmChallenge _ | spdmGetMeasurements _ =>
    simp only [exec]
    exact spdmTake_goesOnIf
  | layerDrainEnd _ | turnDone _ | scrubVisit _ _ | routeEntryFill _ _ | hbmPatrolScrub _ _ | flitTransmit _
  | recordCloseEarly _ | replayTimeout _ | packetRoute _ _ | managementMessage _ | trainingComplete _ _ | trainingFail _
  | frameLockLost _ | frameLockReturn _ | holdTimeout _ | downRetrain _ | laneMove _ | roleRequest _ | handover _
  | roleChangeover _ | fenceRequest _ | fenceTimeout _ | pageZeroiseDone _ | spareSelfTestDone _ _ | coreSelfTestDone _ _
  | darkSpareDailyTest _ | channelEnable _ _ | channelDisable _ | sqDoorbell _ _ _ | cqDoorbell _ _ | commandAccept _
  | completionRecordWrite _ | pllLock _ | voltageReached _ | throttleRepeat _ | throttleRise _ | phaseFailOpen _
  | phaseSenseMismatch _ | phaseStepRepeat _ | skimRailSettled _ | currentExceedsPhaseCapacity _ =>
    simp only [exec, Instr.wf, decide_eq_true_eq]
    refine part_goesOnIf id ?_
    with_reducible repeat' first | exact .next _ | split | dsimp only
  | packetArrival _ _ | forwardTimeout _ _ | lightDetected _ _ | laneDegrade _ _ | laneTest _ _ _ | fenceMarker _ _
  | laserInputLoss _ _ | thermTrip _ _ =>
    simp only [exec, Instr.wf, Bool.and_eq_true, decide_eq_true_eq]
    refine part_goesOnIf And.left ?_
    with_reducible repeat' first | exact .next _ | split | dsimp only
  | spareCopy _ _ _ | frameReceive _ _ | skimRailSet _ _ =>
    simp only [exec, Instr.wf, Bool.and_eq_true, decide_eq_true_eq]
    refine part_goesOnIf (fun h => h.1.1) ?_
    with_reducible repeat' first | exact .next _ | split | dsimp only
  | appliedResponse _ | refusedResponse _ | unreachableResponse _ | readDataResponse _ | notReadyResponse _ =>
    simp only [exec, Instr.wf, decide_eq_true_eq]
    exact onResponse_goesOnIf id
  | domainEntryBegin _ | entryComplete _ | wakeComplete _ =>
    simp only [exec, Instr.wf]
    refine onDomain_goesOnIf id ?_
    with_reducible repeat' first | exact .next _ | split
  | hubControlWrite _ _ =>
    simp only [exec, Instr.wf]
    refine onHubWrite_goesOnIf id ?_
    with_reducible repeat' first | exact .next _ | split
  | padRelease _ =>
    simp only [exec, Instr.wf]
    refine onPad_goesOnIf id ?_
    with_reducible repeat' first | exact .next _ | split
  | endList _ =>
    simp only [exec, Instr.wf, decide_eq_true_eq]
    exact execEndList_goesOnIf id
  | faultClassify _ =>
    simp only [exec, Instr.wf]
    exact execFaultClassify_goesOnIf id
  | accessWake _ _ =>
    simp only [exec, Instr.wf, Bool.and_eq_true]
    exact execAccessWake_goesOnIf And.left
  | linkRetire _ =>
    simp only [exec, Instr.wf, decide_eq_true_eq]
    exact execLinkRetire_goesOnIf id
  | smbusAlertResponse =>
    simp only [exec]
    exact execSmbusAlertResponse_goesOnIf
  | hbmSoftRepair _ | appliedResponseSend _ | partitionPowerSample _ | powerGating | releaseDrainEnd _ | heartbeat _
  | heartbeatLapse _ | stampClaim _ _ | assayCycle | standbyRelease _ | assayRequest _ | ledgerAttach _ | evqEnable _
  | evqDisable | evqDoorbell _ | eventRecordWrite | alarmEnableWrite _ | assayStatusWrite _ _ | registerWrite _ _
  | bar2Read _ _ | bar2Write _ _ | perstAssert | perstDeassert _ | hostLinkLoss | inputPowerSample _ _ _ _
  | powerTransientStep | powerSustainedStep | powerCeilingRise | sensorRead _ | coolantFault | coolantClear | supplyFault _
  | vaonLoss | rindAlarm | smbusAddressMatch _ | aonRst _ | sysRst | bootBegin _ _ _ _ | assayImageRead _
  | managementImageRead _ | firmwareReady _ | bootTimeout | debugUnlock _ | smbusTimeout | vaonRise _ | linkReachesL0 =>
    simp only [exec, execHbmSoftRepair, execAppliedResponseSend, execPartitionPowerSample, execPowerGating,
      execReleaseDrainEnd, execHeartbeat, execHeartbeatLapse, execStampClaim, execAssayCycle, execStandbyRelease,
      execAssayRequest, execLedgerAttach, execEvqEnable, execEvqDisable, execEvqDoorbell, execEventRecordWrite,
      execAlarmEnableWrite, execAssayStatusWrite, execRegisterWrite, execBar2Read, execBar2Write, execPerstAssert,
      execPerstDeassert, execHostLinkLoss, execInputPowerSample, execPowerTransientStep, execPowerSustainedStep,
      execPowerCeilingRise, execSensorRead, execCoolantFault, execCoolantClear, execSupplyFault, execVaonLoss, execRindAlarm,
      execSmbusAddressMatch, execAonRst, execSysRst, execBootBegin, execAssayImageRead, execManagementImageRead,
      execFirmwareReady, execBootTimeout, execDebugUnlock, execSmbusTimeout, execVaonRise, execLinkReachesL0]
    with_reducible repeat' first | exact .next _ | split
  | _ => contradiction

end

theorem exec_goesOnIf (c : Instr) (s : State) : GoesOnIf (c.wf = true) (exec c s) := by
  cases hunit : unitCommand c with
  | true => exact exec_unitCommand_goesOnIf hunit
  | false => exact exec_otherCommand_goesOnIf hunit

theorem pending_eq_ctlClosed (s₀ : State) : CtlClosed fun t => t.pending = s₀.pending :=
  ⟨fun hs hpending _ _ => hpending.trans hs⟩

/-- Settles O5: every branch of a command ends in a next state, behind the check of the part that the command names; the queue is
kept as the laws of the commands keep whatever the control of the module leaves alone. -/
theorem everyCommandAnswers : Obligations.EveryCommandAnswers := by
  unfold Obligations.EveryCommandAnswers
  constructor
  · intro c s
    rw [← Bool.not_eq_true]
    exact (exec_goesOnIf c s).safe_or
  · exact fun c s t hexec => Out.of_next hexec (exec_keeps (pending_eq_ctlClosed s) rfl)

/-- Settles O1: a queue that is not empty gives its first command. -/
theorem stepRunsTheFrontCommand : Obligations.StepRunsTheFrontCommand := by
  unfold Obligations.StepRunsTheFrontCommand
  intro c rest s hpending
  simp only [step, hpending]

end Sys2Proof.Machine
end

section
/-!
The work ledger and the results of commands (R500, R501): an entry is read back from its bytes, and a result is fixed once.
-/

namespace Sys2Proof.Machine

/-! ## Byte strings of several numbers -/

theorem numAt_append_right {as : List Byte} {o : Nat} (h : as.length ≤ o) (bs : List Byte) (w : Nat) :
    numAt (as ++ bs) o w = numAt bs (o - as.length) w := by
  rw [numAt, numAt, List.drop_append, List.drop_of_length_le h, List.nil_append]

theorem numAt_leBytes_append (k n : Nat) (bs : List Byte) : numAt (leBytes k n ++ bs) 0 k = n % 256 ^ k := by
  rw [numAt, List.drop_zero, List.take_left' (length_leBytes k n), leNat_leBytes]

/-! ## The 32 bytes of a ledger entry (R500) -/

section
variable (e : LedgerEntry)

/-- The fields of an entry, which its check covers. -/
def ledgerBody : List Byte :=
  leBytes 8 e.seq.toNat ++ (leBytes 4 e.tag.toNat ++ (leBytes 1 e.opcode ++ (leBytes 1 e.st ++ (leBytes 1 e.status ++
    (leBytes 1 e.part ++ (leBytes 4 e.turn.toNat ++ (leBytes 4 e.epoch.toNat ++ zeros 4)))))))

theorem ledgerBytes_eq_append : ledgerBytes e = ledgerBody e ++ leBytes 4 (crc32c (ledgerBody e)) := by
  simp only [ledgerBytes, ledgerBody, List.append_assoc]

theorem length_ledgerBody : (ledgerBody e).length = 28 := by
  simp only [ledgerBody, List.length_append, length_leBytes, zeros, List.length_replicate]

theorem length_ledgerBytes : (ledgerBytes e).length = 32 := by
  rw [ledgerBytes_eq_append, List.length_append, length_ledgerBody, length_leBytes]

theorem numAt_ledgerBytes {o w : Nat} (h : o + w ≤ 28) : numAt (ledgerBytes e) o w = numAt (ledgerBody e) o w := by
  rw [ledgerBytes_eq_append, numAt_append_left (by rwa [length_ledgerBody])]

/-- The last four bytes are the check of the others. -/
theorem numAt_ledgerBytes_check : numAt (ledgerBytes e) 28 4 = crc32c ((ledgerBytes e).take 28) := by
  have hcheck := numAt_append_length _ (leBytes 4 (crc32c (ledgerBody e))) (length_ledgerBody e)
  rw [length_leBytes, leNat_leBytes, pow_256_eq_two_pow, Nat.mod_eq_of_lt (crc32c_lt _)] at hcheck
  rw [ledgerBytes_eq_append, List.take_left' (length_ledgerBody e), hcheck]

end

/-- Settles O13: each field stands in its bytes of the entry, where its width admits the value, and the check
is that of the fields. -/
theorem ledgerEntryReadsBack : Obligations.LedgerEntryReadsBack := by
  unfold Obligations.LedgerEntryReadsBack
  intro e hopcode hst hstatus hpart
  refine ⟨length_ledgerBytes e, ?_⟩
  have hcheck : ¬((numAt (ledgerBytes e) 28 4 != crc32c ((ledgerBytes e).take 28)) = true) := by
    simp only [numAt_ledgerBytes_check, bne_self_eq_false, Bool.false_eq_true, not_false_eq_true]
  rw [ledgerRead, if_neg hcheck]
  have hword (v : Word) : v.toNat < 4294967296 := v.isLt
  have hdword (v : Dword) : v.toNat < 18446744073709551616 := v.isLt
  simp [numAt_ledgerBytes, ledgerBody, numAt_append_right, numAt_leBytes_append, Nat.mod_eq_of_lt, *]

/-! ## The result of a command (R501) -/

theorem putLedger_cmds (s : State) (seq : Nat) (e : LedgerEntry) : (putLedger s seq e).cmds = s.cmds := by
  unfold putLedger
  split
  · rfl
  · dsimp only
    split <;> rfl

theorem modLedger_cmds (s : State) (seq : Nat) (f : LedgerEntry → LedgerEntry) : (modLedger s seq f).cmds = s.cmds := by
  unfold modLedger
  split
  · exact putLedger_cmds _ _ _
  · rfl

section
variable {s : State} {seq : Nat}

/-- An entry takes the epoch at which it is written. -/
theorem tget?_putLedger_same (hledger : s.legacy = false) (e : LedgerEntry) :
    tget? (putLedger s seq e).ledger.entries seq = some { e with epoch := s.stamp.epoch } := by
  rw [putLedger, hledger, if_neg Bool.false_ne_true]
  dsimp only
  split <;> exact tget?_tput_same _ _ _

theorem tget?_modLedger_same {e : LedgerEntry} (hledger : s.legacy = false) (hentry : tget? s.ledger.entries seq = some e)
    (f : LedgerEntry → LedgerEntry) :
    tget? (modLedger s seq f).ledger.entries seq = some { f e with epoch := s.stamp.epoch } := by
  simp only [modLedger, hentry, tget?_putLedger_same hledger]

section
variable {c : Cmd} (hcmd : tget? s.cmds seq = some c)
include hcmd

theorem fixResult_of_result (hresult : c.result.isSome = true) (status : Nat) (detail : List Byte) :
    fixResult s seq status detail = s := by
  simp only [fixResult, hcmd, hresult, if_true]

section
variable (hresult : c.result = none) (status : Nat) (detail : List Byte)
include hresult

theorem fixResult_of_none : fixResult s seq status detail =
    modLedger { s with cmds := tput s.cmds seq { c with
      begun := true, draining := false, result := some { status := status, detail := padTo 16 detail } } } seq
      fun e => { e with st := 5, status := status } := by
  simp only [fixResult, hcmd, hresult, Option.isSome_none, Bool.false_eq_true, if_false]

theorem fixResult_cmds_of_none : (fixResult s seq status detail).cmds = tput s.cmds seq { c with
    begun := true, draining := false, result := some { status := status, detail := padTo 16 detail } } := by
  rw [fixResult_of_none hcmd hresult, modLedger_cmds]

theorem tget?_fixResult_same {e : LedgerEntry} (hledger : s.legacy = false) (hentry : tget? s.ledger.entries seq = some e) :
    tget? (fixResult s seq status detail).ledger.entries seq =
      some { e with st := 5, status := status, epoch := s.stamp.epoch } := by
  rw [fixResult_of_none hcmd hresult, tget?_modLedger_same]
  exacts [hledger, hentry]

end

end

end

/-- Settles O15: a command without a result gets one, in its record and in its entry; with one, it keeps it. -/
theorem resultIsFixedOnce : Obligations.ResultIsFixedOnce := by
  unfold Obligations.ResultIsFixedOnce
  intro s seq status detail c hcmd hresult
  have hcmds := fixResult_cmds_of_none hcmd hresult status detail
  have hfixed := (congrArg (tget? · seq) hcmds).trans (tget?_tput_same _ _ _)
  refine ⟨hfixed, fun k hne => ?_, fun e => tget?_fixResult_same hcmd hresult status detail, fixResult_of_result hfixed rfl⟩
  rw [hcmds, tget?_tput_ne _ _ hne]

end Sys2Proof.Machine
end

section
/-!
What the host sees of its rings: commands accepted and completed on a channel, and the records of the event queue.
-/

namespace Sys2Proof.Machine

@[simp] theorem onCh_of_lt {k : Nat} (h : k < Config.nChannels) (o : Out) : onCh k o = o := if_pos h

@[simp] theorem hostWrite_cmds (s : State) (a : Nat) (bs : List Byte) : (hostWrite s a bs).cmds = s.cmds := rfl

/-! ## The rings of a channel (R481, R482, R486, R487, R489) -/

section
variable {s : State} {ch : Nat} (hch : ch < Config.nChannels) (hruns : firmwareRuns s = true) (hactive : (getCh s ch).active = true)
include hch hruns hactive

section
variable (hmore : (getCh s ch).sqHead ≠ (getCh s ch).sqTail)
  (hroom : openCmds s ch + (getCh s ch).cqUsed < 2 ^ (getCh s ch).cqLog2)
include hmore hroom

theorem exec_commandAccept_of_room : exec (.commandAccept ch) s = .next
    (if s.legacy || cmdSeq (headEntry s (getCh s ch)) = seqOf ch ((getCh s ch).lastCount + 1)
      then acceptCmd s ch (seqOf ch ((getCh s ch).lastCount + 1)) (headEntry s (getCh s ch))
      else setCh s ch (seeSeqErr (bumpSq (getCh s ch)))) := by
  change execCommandAccept ch s = _
  simp only [execCommandAccept, onCh_of_lt hch, hruns, hactive, hmore, Nat.not_le_of_lt hroom, Bool.not_true, decide_false,
    Bool.or_self, Bool.false_eq_true, if_false, apply_ite Host.Outcome.next]

theorem exec_commandAccept_of_next (hseq : cmdSeq (headEntry s (getCh s ch)) = seqOf ch ((getCh s ch).lastCount + 1)) :
    exec (.commandAccept ch) s =
      .next (acceptCmd s ch (seqOf ch ((getCh s ch).lastCount + 1)) (headEntry s (getCh s ch))) := by
  rw [exec_commandAccept_of_room hch hruns hactive hmore hroom, if_pos]
  simp only [hseq, decide_true, Bool.or_true]

theorem exec_commandAccept_of_out_of_sequence (hledger : s.legacy = false)
    (hseq : cmdSeq (headEntry s (getCh s ch)) ≠ seqOf ch ((getCh s ch).lastCount + 1)) :
    exec (.commandAccept ch) s = .next (setCh s ch (seeSeqErr (bumpSq (getCh s ch)))) := by
  rw [exec_commandAccept_of_room hch hruns hactive hmore hroom, if_neg]
  simp only [hledger, hseq, decide_false, Bool.or_self, Bool.false_eq_true, not_false_eq_true]

end

theorem exec_completionRecordWrite_of_result {seq : Nat} {cmd : Cmd} {r : Result} (hledger : s.legacy = false)
    (hfirst : (s.cmds.find? fun e => e.2.ch == ch) = some (seq, cmd)) (hresult : cmd.result = some r) :
    exec (.completionRecordWrite ch) s =
      .next (signalVector (modLedger (modCh { hostWrite s ((getCh s ch).cqBase.toNat + 32 * (getCh s ch).cqTail)
        (recordBytes false seq cmd.bytes r (getCh s ch).cqPhase) with cmds := tdel s.cmds seq } ch bumpCq) seq
          fun e => if e.st = 5 then { e with st := 6 } else e) ch) := by
  change execCompletionRecordWrite ch s = _
  simp only [execCompletionRecordWrite, onCh_of_lt hch, hruns, hactive, hledger, hfirst, hresult, Bool.not_true, Bool.or_self,
    Bool.false_eq_true, if_false, hostWrite_cmds]

end

/-- A full completion ring holds acceptance back (R482). -/
theorem exec_commandAccept_of_full {s : State} {ch : Nat} (hch : ch < Config.nChannels)
    (hfull : 2 ^ (getCh s ch).cqLog2 ≤ openCmds s ch + (getCh s ch).cqUsed) : exec (.commandAccept ch) s = .next s := by
  change execCommandAccept ch s = _
  simp only [execCommandAccept, onCh_of_lt hch, hfull, decide_true, Bool.or_true, if_true]

/-- Settles O46: acceptance by the room of the completion ring and by the sequence number, and one completion. -/
theorem commandsAreAcceptedAndCompleted : Obligations.CommandsAreAcceptedAndCompleted := by
  unfold Obligations.CommandsAreAcceptedAndCompleted
  rintro s t ch seq c cmd r hch hruns hledger rfl hactive
  refine ⟨fun hmore hroom => ⟨?_, ?_⟩, exec_commandAccept_of_full hch, ?_⟩
  · exact exec_commandAccept_of_next hch hruns hactive hmore hroom
  · exact exec_commandAccept_of_out_of_sequence hch hruns hactive hmore hroom hledger
  · rintro hfirst hresult rfl
    exact exec_completionRecordWrite_of_result hch hruns hactive hledger hfirst hresult

/-! ## The event queue (R498, R592) -/

section
variable {s : State} {v : Word}

section
variable (hup : busUp s = true)
include hup

theorem exec_evqEnable_of_inactive (henable : v.getLsbD 0 = true) (hinactive : s.evq.active = false) (hlow : 4 ≤ fld v.toNat 8 5)
    (hhigh : fld v.toNat 8 5 ≤ 16) : exec (.evqEnable v) s = .next { s with evq := { s.evq with
      log2 := fld v.toNat 8 5, active := true, head := 0, tail := 0, phase := true, used := 0 } } := by
  change execEvqEnable v s = _
  simp only [execEvqEnable, hup, writeEvqCtrl, henable, hinactive, Nat.not_lt_of_le hlow, Nat.not_lt_of_le hhigh, Bool.not_true,
    decide_false, Bool.or_self, Bool.and_self, Bool.false_eq_true, if_false, if_true]

theorem exec_evqDisable_of_busUp : exec .evqDisable s = .next { s with evq := { s.evq with active := false } } := if_pos hup

theorem exec_evqDoorbell_of_range (hactive : s.evq.active = true) (hhead : v.toNat < 2 ^ s.evq.log2) :
    exec (.evqDoorbell v) s = .next { s with evq := { s.evq with
      head := v.toNat, used := s.evq.used - freedSlots (2 ^ s.evq.log2) s.evq.head v.toNat s.evq.used } } := by
  change execEvqDoorbell v s = _
  simp only [execEvqDoorbell, hup, writeEvqHead, hactive, Nat.not_le_of_lt hhead, Bool.not_true, decide_false, Bool.or_self,
    Bool.false_eq_true, if_false, if_true]

end

section
variable {r : FaultRec} {place part : Nat} {rest : List (FaultRec × Nat × Nat)}
  (hwaiting : s.evq.waiting = (r, place, part) :: rest)
include hwaiting

theorem takeRecord_of_waiting : takeRecord s = some ((r, place, part), { s with evq := { s.evq with waiting := rest } }) := by
  simp only [takeRecord, hwaiting]

variable (hruns : firmwareRuns s = true)
include hruns

theorem exec_eventRecordWrite_of_lost (hlost : s.evq.active = false ∨ 2 ^ s.evq.log2 ≤ s.evq.used) :
    exec .eventRecordWrite s = .next (raiseAlarm { s with
      evq := { s.evq with waiting := rest, ovfCount := satInc 32 s.evq.ovfCount } } 8) := by
  have hstop : (!s.evq.active || decide (s.evq.used ≥ 2 ^ s.evq.log2)) = true := by
    rcases hlost with hinactive | hfull
    · simp only [hinactive, Bool.not_false, Bool.true_or]
    · simp only [hfull, decide_true, Bool.or_true]
  change execEventRecordWrite s = _
  simp only [execEventRecordWrite, hruns, takeRecord_of_waiting hwaiting, hstop, if_true, alEvqOverflow]

theorem exec_eventRecordWrite_of_room (hactive : s.evq.active = true) (hroom : s.evq.used < 2 ^ s.evq.log2) :
    exec .eventRecordWrite s = .next (signalVector { hostWrite s (s.evq.base.toNat + 32 * s.evq.tail)
        (eventBytes r place part s.evq.phase) with evq := { s.evq with
      waiting := rest, tail := (s.evq.tail + 1) % 2 ^ s.evq.log2,
      phase := if (s.evq.tail + 1) % 2 ^ s.evq.log2 = 0 then !s.evq.phase else s.evq.phase, used := s.evq.used + 1 } } 16) := by
  change execEventRecordWrite s = _
  simp only [execEventRecordWrite, hruns, takeRecord_of_waiting hwaiting, hactive, Nat.not_le_of_lt hroom, Bool.not_true,
    decide_false, Bool.or_self, Bool.false_eq_true, if_false, if_true, hostWrite, wrBytes]

end

end

/-- Settles O47: the three registers of the queue, and a record by whether the queue takes it. -/
theorem eventsReachTheHost : Obligations.EventsReachTheHost := by
  unfold Obligations.EventsReachTheHost
  rintro s v r place part rest q rfl
  refine ⟨exec_evqEnable_of_inactive, exec_evqDisable_of_busUp, exec_evqDoorbell_of_range, fun hruns hwaiting => ⟨?_, ?_⟩⟩
  · exact exec_eventRecordWrite_of_lost hwaiting hruns
  · exact exec_eventRecordWrite_of_room hwaiting hruns

end Sys2Proof.Machine
end

section
/-!
Commands on works, and the commands that report.
-/

namespace Sys2Proof.Machine

/-! ## Works (R493, R494) -/

section
variable {s : State} {seq : Nat} {bs : List Byte}

section
variable (hbegins : Begins s seq 0x20 bs) (hpart : (getPart s (cmdPart bs)).isSome = true)
  (hfree : (tableCores s bs).any (coreLocked s) = false)
include hbegins hpart hfree

theorem exec_startWork_of_ok {ls : List WList} (hlists : readLists s bs (numAt bs 24 2) 0 [] = .ok ls) :
    exec (.startWork seq) s = .next (ledgerState (putWork
      (ls.foldl (fun s l => giveStart s l.core (freshStart l.base seq)) (beginCmd s seq)) seq
      { part := cmdPart bs, lists := ls, st := .running, turn := none, window := none, peers := [], status := 0,
        replaced := [] }) seq 2) := by
  obtain ⟨p, hp⟩ := Option.isSome_iff_exists.mp hpart
  change execStartWork seq s = _
  simp only [execStartWork, runCmd_anyCmd_of_begins hbegins, hp, Option.isNone_some, hfree, hlists, Bool.false_eq_true, if_false]

theorem exec_startWork_of_refused {field : Bool} {i : Nat} (hlists : readLists s bs (numAt bs 24 2) 0 [] = .refused field i) :
    exec (.startWork seq) s = .next (if field then refuseField s seq 16 i else refuseState s seq 16) := by
  obtain ⟨p, hp⟩ := Option.isSome_iff_exists.mp hpart
  change execStartWork seq s = _
  simp only [execStartWork, runCmd_anyCmd_of_begins hbegins, hp, Option.isNone_some, hfree, hlists, Bool.false_eq_true, if_false]
  cases field <;> rfl

end

section
variable {k : Nat} {w : Work} (hnamed : namedWork s bs = some (k, w))
include hnamed

theorem exec_preemptWork_of_running (hbegins : Begins s seq 0x21 bs) (hst : w.st = .running) :
    exec (.preemptWork seq) s = .next (fixResult (preemptWork s k w) seq 0x00 []) := by
  change execPreemptWork seq s = _
  simp only [execPreemptWork, runCmd_anyCmd_of_begins hbegins, hnamed, hst, if_true, stOk]

theorem exec_resumeWork_of_preempted {ls : List WList} (hbegins : Begins s seq 0x22 bs) (hst : w.st = .preempted)
    (hplaces : placeLists s w (numAt bs 24 8) = some ls) (hfree : (workCores { w with lists := ls }).any (coreLocked s) = false) :
    exec (.resumeWork seq) s = .next (fixResult (restartWork s k { w with lists := ls } false) seq 0x00 []) := by
  simp only [hst] at hfree
  change execResumeWork seq s = _
  simp only [execResumeWork, runCmd_anyCmd_of_begins hbegins, hnamed, hst, hplaces, hfree, bne_self_eq_false, Bool.false_and,
    Bool.false_eq_true, if_false, if_true, stOk]

theorem exec_discardWork_of_preempted (hbegins : Begins s seq 0x23 bs) (hst : w.st = .preempted) :
    exec (.discardWork seq) s = .next (fixResult
      (finishWork s k w 0x0A (w.turn.getD 0xFFFFFFFF) (leBytes 4 (w.turn.getD 0xFFFFFFFF))) seq 0x00 []) := by
  change execDiscardWork seq s = _
  simp only [execDiscardWork, runCmd_anyCmd_of_begins hbegins, hnamed, hst, if_true, stOk, stDiscarded, turnUnknown]

end

theorem exec_workCommand_of_none (hnone : namedWork s bs = none) :
    ∀ x ∈ [(0x21, Instr.preemptWork seq), (0x22, .resumeWork seq), (0x23, .discardWork seq)], Begins s seq x.1 bs →
      exec x.2 s = .next (refuseState s seq 16) := by
  simp only [List.forall_mem_cons, List.not_mem_nil, false_imp_iff, implies_true, and_true]
  refine ⟨fun hbegins => ?_, fun hbegins => ?_, fun hbegins => ?_⟩
  · change execPreemptWork seq s = _
    simp only [execPreemptWork, runCmd_anyCmd_of_begins hbegins, hnone]
  · change execResumeWork seq s = _
    simp only [execResumeWork, runCmd_anyCmd_of_begins hbegins, hnone]
  · change execDiscardWork seq s = _
    simp only [execDiscardWork, runCmd_anyCmd_of_begins hbegins, hnone]

end

/-- Settles O49: one lemma for each case of the four commands; the three that name a work refuse one that is not there alike. -/
theorem worksStartStopAndResume : Obligations.WorksStartStopAndResume := by
  unfold Obligations.WorksStartStopAndResume
  exact fun s seq k bs ls w field i => ⟨fun hbegins hpart hfree => ⟨exec_startWork_of_ok hbegins hpart hfree,
      exec_startWork_of_refused hbegins hpart hfree⟩,
    fun hbegins hnamed => exec_preemptWork_of_running hnamed hbegins,
    fun hbegins hnamed => exec_resumeWork_of_preempted hnamed hbegins,
    fun hbegins hnamed => exec_discardWork_of_preempted hnamed hbegins,
    fun x hx hbegins hnone => exec_workCommand_of_none hnone x hx hbegins⟩

/-! ## Reports (R491, R603) and the reproducible mode (R145, R146) -/

section
variable {s : State} {seq : Nat} {bs : List Byte}

theorem exec_identify_of_begins (hbegins : Begins s seq 0x01 bs) :
    exec (.identify seq) s = .next (fixResult s seq 0x00 (identDetail s)) := by
  change execIdentify seq s = _
  exact runCmd_anyCmd_of_begins hbegins

theorem exec_queryLedger_of_begins (hbegins : Begins s seq 0x02 bs) :
    exec (.queryLedger seq) s = .next (fixResult (hostWrite s (numAt bs 32 8)
      ((List.range (numAt bs 24 2)).flatMap fun i => ledgerSlot s (numAt bs 16 8 + i))) seq 0x00 []) := by
  change execQueryLedger seq s = _
  exact runCmd_anyCmd_of_begins hbegins

theorem exec_queryCores_of_begins (hbegins : Begins s seq 0x03 bs) : exec (.queryCores seq) s =
    .next (fixResult (hostWrite s (numAt bs 16 8) ((List.range 16).flatMap (coreRecord s))) seq 0x00 []) := by
  change execQueryCores seq s = _
  exact runCmd_anyCmd_of_begins hbegins

theorem exec_readFault_of_records {k : Nat} {w : Work} (hbegins : Begins s seq 0x04 bs) (hnamed : namedWork s bs = some (k, w))
    (hrecords : faultRecords w ≠ []) :
    exec (.readFault seq) s = .next (fixResult (hostWrite s (numAt bs 24 8) (faultRecords w).flatten) seq 0x00 []) := by
  change execReadFault seq s = _
  simp only [execReadFault, runCmd_anyCmd_of_begins hbegins, hnamed, List.isEmpty_iff, hrecords, if_false, stOk]

theorem exec_readStatus_of_begins (hbegins : Begins s seq 0x60 bs) : exec (.readStatus seq) s =
    .next (fixResult (hostWrite s (numAt bs 24 8) (statusBytes s (numAt bs 16 1) (numAt bs 18 2))) seq 0x00 []) := by
  change execReadStatus seq s = _
  exact runCmd_anyCmd_of_begins hbegins

theorem exec_clearStatus_of_begins (hbegins : Begins s seq 0x61 bs) : exec (.clearStatus seq) s =
    .next (fixResult (clearStatus s (numAt bs 16 1) (numAt bs 18 2) (numAt bs 20 4) (numAt bs 24 4)) seq 0x00 []) := by
  change execClearStatus seq s = _
  exact runCmd_anyCmd_of_begins hbegins

section
variable (hbegins : Begins s seq 0x50 bs)
include hbegins

theorem exec_setReproducible_of_idle (hidle : runningLayers s = []) : exec (.setReproducible seq) s =
    .next (fixResult { s with reproducible := numAt bs 16 1 == 1 } seq 0x00 []) := by
  have hmode : runningLayers { s with reproducible := numAt bs 16 1 == 1 } = [] := hidle
  change execSetReproducible seq s = _
  simp only [execSetReproducible, runCmd_anyCmd_of_begins hbegins, hmode, stOk]

/-- The command has its result only once the layers that run when it begins have ended. -/
theorem exec_setReproducible_of_running (hrunning : runningLayers s ≠ []) : exec (.setReproducible seq) s =
    .next { beginCmd { s with reproducible := numAt bs 16 1 == 1 } seq with
      reproWait := s.reproWait ++ [(seq, runningLayers s)] } := by
  obtain ⟨l, ls, hlayers⟩ := List.exists_cons_of_ne_nil hrunning
  have hmode : runningLayers { s with reproducible := numAt bs 16 1 == 1 } = l :: ls := hlayers
  change execSetReproducible seq s = _
  simp only [execSetReproducible, runCmd_anyCmd_of_begins hbegins, hmode, hlayers]

end

end

/-- Settles O51: one lemma for each command that reports, and two for the mode, by whether a layer runs. -/
theorem reportsAnswer : Obligations.ReportsAnswer := by
  unfold Obligations.ReportsAnswer
  exact fun s seq k bs w => ⟨exec_identify_of_begins, exec_queryLedger_of_begins, exec_queryCores_of_begins,
    exec_readFault_of_records, exec_readStatus_of_begins, exec_clearStatus_of_begins, exec_setReproducible_of_idle,
    exec_setReproducible_of_running⟩

end Sys2Proof.Machine
end

section
/-!
The operating points of the compute dies and the power that they draw (R511 to R514, R539): the voltage of a die carries its clock
through every change, and each command of the regulators and of the power loop is stated by the case of its condition.
-/

namespace Sys2Proof.Machine

/-! ## The voltage carries the clock (R514) -/

/-- The voltage of a point, by its rank of speed (R511). -/
def rankMv : Nat → Nat
  | 0 => 850
  | 1 => 850
  | 2 => 780
  | 3 => 700
  | 4 => 620
  | _ => 550

theorem pointMv_eq_rankMv : ∀ p : Nat, pointMv p = rankMv (speedRank p)
  | 0 | 1 | 2 | 3 | 4 => rfl
  | _ + 5 => by
    rw [speedRank, if_pos (Nat.le_add_left ..)]
    rfl

theorem rankMv_antitone : Antitone rankMv :=
  antitone_nat_of_succ_le fun
    | 0 | 1 | 2 | 3 | 4 => by decide
    | _ + 5 => le_refl 550

/-- A slower point needs no more voltage (R511). -/
theorem pointMv_le_of_speedRank_lt {p q : Nat} (hslower : speedRank p < speedRank q) : pointMv q ≤ pointMv p := by
  rw [pointMv_eq_rankMv p, pointMv_eq_rankMv q]
  exact rankMv_antitone hslower.le

section
variable {p : DiePower}

/-- A switch keeps the rule where the voltage of its point is there. -/
theorem switchTo_voltageOk {t : Nat} (hmv : pointMv t ≤ p.mv) : VoltageOk (switchTo p t) := hmv

theorem lockPll_voltageOk (hp : VoltageOk p) : VoltageOk (lockPll p) := by
  unfold lockPll
  dsimp only
  split
  · next hswitch =>
    simp only [Bool.and_eq_true, decide_eq_true_eq] at hswitch
    obtain ⟨-, hmv⟩ := hswitch
    exact switchTo_voltageOk hmv
  · exact hp

/-- A new target switches at once only to a slower point. -/
theorem aimAt_voltageOk (t : Nat) (hp : VoltageOk p) : VoltageOk (aimAt p t) := by
  unfold aimAt
  split
  · exact hp
  split
  · next hswitch =>
    simp only [Bool.and_eq_true, decide_eq_true_eq] at hswitch
    obtain ⟨-, hslower⟩ := hswitch
    exact switchTo_voltageOk ((pointMv_le_of_speedRank_lt hslower).trans hp)
  · exact hp

theorem wakePoint_voltageOk (f : Fuses) : VoltageOk (wakePoint f p) := le_refl (pointMv _)

/-- The regulators lower the voltage only to that of the present point. -/
theorem point_le_target_of_voltageMoves (hmoves : voltageMoves p = true) (hp : VoltageOk p) : pointMv p.point ≤ pointMv p.target := by
  simp only [voltageMoves, Bool.and_eq_true, Bool.or_eq_true, decide_eq_true_eq] at hmoves
  rcases hmoves.2 with hupward | hthere
  · exact hp.trans hupward.le
  · rw [hthere]

theorem reachVoltage_voltageOk (hmoves : voltageMoves p = true) (hp : VoltageOk p) : VoltageOk (reachVoltage p) := by
  have hpoint : pointMv p.point ≤ pointMv p.target := point_le_target_of_voltageMoves hmoves hp
  unfold reachVoltage
  dsimp only
  split
  · exact switchTo_voltageOk (le_refl (pointMv p.target))
  · exact hpoint

end

/-! ## The commands of the regulators (R513, R514) -/

section
variable {s : State} {die : Nat} (hdie : die < Config.nDies)
include hdie

section
variable (hup : dieUp s die = true)
include hup

theorem exec_pllLock_of_locking (hlocking : (getDie s die).power.locking = true) : exec (.pllLock die) s =
    .next (setDie s die { getDie s die with power := lockPll (getDie s die).power }) := by
  change execPllLock die s = _
  simp only [execPllLock, onDie_of_lt hdie, hup, hlocking, Bool.and_self, if_true, modDie]

theorem exec_voltageReached_of_moves (hmoves : voltageMoves (getDie s die).power = true) : exec (.voltageReached die) s =
    .next (setDie s die { getDie s die with power := reachVoltage (getDie s die).power }) := by
  change execVoltageReached die s = _
  simp only [execVoltageReached, onDie_of_lt hdie, hup, hmoves, Bool.and_self, if_true, modDie]

end

end

/-! ## The power loop (R539) -/

section
variable {s : State}

theorem exec_inputPowerSample_of_hubOn (w a b c : Nat) (hhub : hubOn s = true) : exec (.inputPowerSample w a b c) s =
    .next { s with meter := { watts := w, avg100 := a, avg1ms := b, avg10ms := c } } :=
  if_pos hhub

theorem exec_powerTransientStep_of_above (habove : s.assay.transient < s.meter.avg100) :
    exec .powerTransientStep s = .next (capStep s) :=
  if_pos habove

theorem exec_powerTransientStep_of_within (hwithin : s.meter.avg100 ≤ s.assay.transient) :
    exec .powerTransientStep s = .next s :=
  if_neg (Nat.not_lt_of_le hwithin)

theorem exec_powerSustainedStep_of_above (habove : s.assay.sustained < s.meter.avg10ms) :
    exec .powerSustainedStep s = .next (capStep s) := by
  change execPowerSustainedStep s = _
  simp only [execPowerSustainedStep, gt_iff_lt, habove, decide_true, Bool.true_or, if_true]

/-- After a step the 1 ms average decides. -/
theorem exec_powerSustainedStep_of_capped (hcapped : (getDie s 0).power.powerCeil ≠ none)
    (hstill : s.assay.sustained ≤ s.meter.avg1ms) : exec .powerSustainedStep s = .next (capStep s) := by
  change execPowerSustainedStep s = _
  simp only [execPowerSustainedStep, Option.isSome_iff_ne_none.mpr hcapped, ge_iff_le, hstill, decide_true, Bool.and_self,
    Bool.or_true, if_true]

theorem exec_powerCeilingRise_of_below (hbelow : 100 * s.meter.avg10ms ≤ 95 * s.assay.sustained) :
    exec .powerCeilingRise s = .next ((List.range 16).foldl (fun x d =>
      retarget (modDie x d fun y => { y with power := { y.power with powerCeil := riseCeil x.fuses y.power.powerCeil } }) d) s) :=
  if_pos hbelow

end

/-- Settles O56: the four changes of a die's voltage and clock, then one lemma for each command and the case of its condition. -/
theorem pointsFollowThePower : Obligations.PointsFollowThePower := by
  unfold Obligations.PointsFollowThePower
  exact ⟨fun p f t hp => ⟨lockPll_voltageOk hp, aimAt_voltageOk t hp, wakePoint_voltageOk f, fun hmoves =>
      reachVoltage_voltageOk hmoves hp⟩,
    fun s die w a b c => ⟨exec_pllLock_of_locking, exec_voltageReached_of_moves, exec_inputPowerSample_of_hubOn w a b c,
      exec_powerTransientStep_of_above, exec_powerSustainedStep_of_above, exec_powerSustainedStep_of_capped,
      exec_powerTransientStep_of_within, exec_powerCeilingRise_of_below⟩⟩

end Sys2Proof.Machine
end

section
/-!
An idle step (R307, R509, R510; logs 2 and 91): what a tick leaves on the counters, and whom a die DMA engine serves.
-/

namespace Sys2Proof.Machine

section
variable {s : State}

theorem step_of_no_command (hempty : s.pending = []) : step s = .next (idleTick s) := by
  simp only [step, hempty]

theorem idleTick_of_m3 (hm3 : s.m3 = true) : idleTick s = s := if_pos hm3

theorem idleTick_of_not_m3 (hm3 : s.m3 = false) : idleTick s = serveDies (timeTick s) := by
  rw [idleTick, hm3, if_neg Bool.false_ne_true]

/-! ## The counters -/

theorem rindPhase_of_lt {acc : Nat} (hwithin : acc + 32768 < 25000000) : rindPhase acc = (acc + 32768, 0) := by
  simp only [rindPhase, ge_iff_le, Nat.not_le_of_lt hwithin, if_false]

theorem rindPhase_of_le {acc : Nat} (hperiod : 25000000 ≤ acc + 32768) : rindPhase acc = (acc + 32768 - 25000000, 1) := by
  simp only [rindPhase, ge_iff_le, hperiod, if_true]

/-- The Rind's counter takes the carry of its phase. -/
theorem timeTick_of_phase {acc carry : Nat} (hphase : rindPhase s.acc40 = (acc, carry)) : timeTick s =
    { s with refCount := if hubOn s then s.refCount + 1 else s.refCount, acc40 := acc,
             rind := { s.rind with time := s.rind.time + BitVec.ofNat 48 carry } } := by
  unfold timeTick
  split
  next hsplit =>
    obtain ⟨rfl, rfl⟩ := Prod.mk.inj (hphase.symm.trans hsplit)
    rfl

theorem timeTick_of_lt (hwithin : s.acc40 + 32768 < 25000000) : timeTick s =
    { s with refCount := if hubOn s then s.refCount + 1 else s.refCount, acc40 := s.acc40 + 32768 } := by
  have hcount : s.rind.time + BitVec.ofNat 48 0 = s.rind.time := BitVec.add_zero _
  rw [timeTick_of_phase (rindPhase_of_lt hwithin), hcount]

theorem timeTick_of_le (hperiod : 25000000 ≤ s.acc40 + 32768) : timeTick s =
    { s with refCount := if hubOn s then s.refCount + 1 else s.refCount, acc40 := s.acc40 + 32768 - 25000000,
             rind := { s.rind with time := s.rind.time + 1 } } :=
  timeTick_of_phase (rindPhase_of_le hperiod)

/-! ## The die DMA engines (R307) -/

theorem serveDies_of_no_turn (hnone : s.cores.any (fun e => (turnJob e.2).isSome) = false) : serveDies s = s := by
  rw [serveDies, hnone, if_neg Bool.false_ne_true]

/-- The first core in the order of service is served, where it has a row that moves. -/
theorem serveDie_of_first {t : State} {d c : Nat} {cs : List Nat} (horder : serviceOrder (getDie s d).dmaLast d = c :: cs)
    (hserved : serveCore s c = some t) : serveDie s d = modDie t d fun e => { e with dmaLast := some c } := by
  simp only [serveDie, horder, serveFirst, hserved]

end

/-- Settles O2: the tick by the state of the Rind and by the phase of its clock, and the service of the die DMA engines. -/
theorem idleStepPassesOneTick : Obligations.IdleStepPassesOneTick := by
  unfold Obligations.IdleStepPassesOneTick
  refine ⟨fun s hempty => ?_, fun s => serveDies_of_no_turn, fun s t d c cs => serveDie_of_first⟩
  rw [step_of_no_command hempty]
  refine ⟨fun hm3 => ?_, fun hm3 hwithin => ?_, fun hm3 hperiod => ?_⟩
  · rw [idleTick_of_m3 hm3]
  · rw [idleTick_of_not_m3 hm3, timeTick_of_lt hwithin]
  · rw [idleTick_of_not_m3 hm3, timeTick_of_le hperiod]

end Sys2Proof.Machine
end

section
/-!
Votes for power domains and for the points of dies (R438, R512, R521): what a vote does once its command may begin, by who gives it and
for what, and the commands.
-/

namespace Sys2Proof.Machine

/-! ## A vote that its client gives -/

section
variable {s : State} {seq : Nat} {bs : List Byte} {v : Option Nat}

theorem castVote_of_locked (hcore : voteKind bs = 0) (hlocked : coreLocked s (voteIndex bs) = true) : castVote s seq bs v = s := by
  simp only [castVote, hcore, hlocked, decide_true, Bool.and_self, if_true]

section
variable (hfree : voteKind bs = 0 → coreLocked s (voteIndex bs) = false)
include hfree

/-- A vote that no release or move holds back is given or refused (R438). -/
theorem castVote_of_free : castVote s seq bs v =
    if !(mayVote s bs) then refusePerm s seq 0 0
    else if voteKind bs = 4 then fixResult (setPointVote s (voteIndex bs % 16) (wakeId (voteClient bs)) v) seq stOk []
    else setVote (fixResult s seq stOk []) (voteDomain bs) (voteClient bs) v := by
  rw [castVote, if_neg]
  simpa using hfree

theorem castVote_of_barred (hmay : mayVote s bs = false) : castVote s seq bs v = fixResult s seq 0x04 (addrDetail 0 0) := by
  rw [castVote_of_free hfree, hmay, Bool.not_false, if_pos rfl, refusePerm, stPerm]

variable (hmay : mayVote s bs = true)
include hmay

theorem castVote_of_allowed : castVote s seq bs v =
    if voteKind bs = 4 then fixResult (setPointVote s (voteIndex bs % 16) (wakeId (voteClient bs)) v) seq 0x00 []
    else setVote (fixResult s seq 0x00 []) (voteDomain bs) (voteClient bs) v := by
  rw [castVote_of_free hfree, hmay, Bool.not_true, if_neg Bool.false_ne_true, stOk]

theorem castVote_of_domain (hkind : voteKind bs ≠ 4) :
    castVote s seq bs v = setVote (fixResult s seq 0x00 []) (voteDomain bs) (voteClient bs) v := by
  rw [castVote_of_allowed hfree hmay, if_neg hkind]

end

theorem castVote_of_point (hmay : mayVote s bs = true) (hkind : voteKind bs = 4) :
    castVote s seq bs v = fixResult (setPointVote s (voteIndex bs % 16) (wakeId (voteClient bs)) v) seq 0x00 [] := by
  rw [castVote_of_allowed (fun hcore => by omega) hmay, if_pos hkind]

end

/-! ## The commands -/

/-- The commands of set_power_vote that place a vote, by the kind of their target. -/
abbrev voteCommands (seq : Nat) : List (Nat × Instr) :=
  [(0, .voteCoreState seq), (1, .voteDieState seq), (2, .votePhotonicState seq), (3, .voteModuleState seq),
    (4, .voteOperatingPoint seq)]

section
variable {s : State} {seq : Nat} {bs : List Byte} (hbegins : Begins s seq 0x51 bs)
include hbegins

section
variable (hset : numAt bs 18 1 ≠ 0xFF)
include hset

theorem runCmd_isVote_of_begins {k : Nat} {act : List Byte → State} (hkind : voteKind bs = k) :
    runCmd s seq 0x51 (isVote k) act = .next (act bs) :=
  runCmd_of_begins hbegins (by simpa [isVote, hkind, voteState] using hset)

theorem exec_voteCoreState_of_begins (hkind : voteKind bs = 0) :
    exec (.voteCoreState seq) s = .next (castVote s seq bs (some (max 1 (numAt bs 18 1)))) := by
  change execVoteCoreState seq s = _
  exact runCmd_isVote_of_begins hbegins hset hkind

theorem exec_voteDieState_of_begins (hkind : voteKind bs = 1) :
    exec (.voteDieState seq) s = .next (castVote s seq bs (some (numAt bs 18 1))) := by
  change execVoteDieState seq s = _
  exact runCmd_isVote_of_begins hbegins hset hkind

theorem exec_votePhotonicState_of_begins (hkind : voteKind bs = 2) :
    exec (.votePhotonicState seq) s = .next (castVote s seq bs (some (numAt bs 18 1))) := by
  change execVotePhotonicState seq s = _
  exact runCmd_isVote_of_begins hbegins hset hkind

theorem exec_voteModuleState_of_begins (hkind : voteKind bs = 3) :
    exec (.voteModuleState seq) s = .next (castVote s seq bs (some (numAt bs 18 1))) := by
  change execVoteModuleState seq s = _
  exact runCmd_isVote_of_begins hbegins hset hkind

theorem exec_voteOperatingPoint_of_begins (hkind : voteKind bs = 4) :
    exec (.voteOperatingPoint seq) s = .next (castVote s seq bs (some (numAt bs 18 1))) := by
  change execVoteOperatingPoint seq s = _
  exact runCmd_isVote_of_begins hbegins hset hkind

/-- Each of them casts a vote. -/
theorem exec_voteCommand_of_begins : ∀ x ∈ voteCommands seq, voteKind bs = x.1 →
    ∃ v, exec x.2 s = .next (castVote s seq bs (some v)) := by
  simp only [voteCommands, List.forall_mem_cons, List.not_mem_nil, false_imp_iff, implies_true, and_true]
  exact ⟨fun hkind => ⟨_, exec_voteCoreState_of_begins hbegins hset hkind⟩,
    fun hkind => ⟨_, exec_voteDieState_of_begins hbegins hset hkind⟩,
    fun hkind => ⟨_, exec_votePhotonicState_of_begins hbegins hset hkind⟩,
    fun hkind => ⟨_, exec_voteModuleState_of_begins hbegins hset hkind⟩,
    fun hkind => ⟨_, exec_voteOperatingPoint_of_begins hbegins hset hkind⟩⟩

theorem exec_voteCommand_of_barred (hmay : mayVote s bs = false) : ∀ x ∈ voteCommands seq, voteKind bs = x.1 →
    (x.1 = 0 → coreLocked s (voteIndex bs) = false) → exec x.2 s = .next (fixResult s seq 0x04 (addrDetail 0 0)) := by
  intro x hx hkind hfree
  obtain ⟨v, hexec⟩ := exec_voteCommand_of_begins hbegins hset x hx hkind
  rw [hexec, castVote_of_barred (fun hcore => hfree (hkind.symm.trans hcore)) hmay]

end

theorem exec_voteWithdraw_of_begins (hwithdrawn : numAt bs 18 1 = 0xFF) :
    exec (.voteWithdraw seq) s = .next (castVote s seq bs none) := by
  have hsel : isWithdraw bs = true := beq_iff_eq.mpr hwithdrawn
  change execVoteWithdraw seq s = _
  exact runCmd_of_begins hbegins hsel

end

/-- Settles O53: each command casts or withdraws its vote, and a vote is held back, refused, or taken for its domain or point. -/
theorem votesAreCast : Obligations.VotesAreCast := by
  unfold Obligations.VotesAreCast
  refine ⟨fun s seq bs hmay hset => ⟨?_, ?_, ?_, ?_, ?_⟩, fun s seq bs hbegins => ⟨?_, ?_, ?_⟩⟩
  · intro hbegins (hkind : voteKind bs = 0) hfree
    rw [exec_voteCoreState_of_begins hbegins hset hkind, castVote_of_domain (fun _ => hfree) hmay (by omega)]
    simp only [voteDomain, hkind, voteIndex]
  · intro hbegins (hkind : voteKind bs = 1)
    rw [exec_voteDieState_of_begins hbegins hset hkind, castVote_of_domain (by omega) hmay (by omega)]
    simp only [voteDomain, hkind, voteIndex]
  · intro hbegins (hkind : voteKind bs = 2)
    rw [exec_votePhotonicState_of_begins hbegins hset hkind, castVote_of_domain (by omega) hmay (by omega)]
    simp only [voteDomain, hkind, voteIndex]
  · intro hbegins (hkind : voteKind bs = 3)
    rw [exec_voteModuleState_of_begins hbegins hset hkind, castVote_of_domain (by omega) hmay (by omega)]
    simp only [voteDomain, hkind]
  · intro hbegins (hkind : voteKind bs = 4)
    rw [exec_voteOperatingPoint_of_begins hbegins hset hkind, castVote_of_point hmay hkind, voteIndex]
  · intro (hkind : voteKind bs = 0) hlocked
    constructor
    · intro hset
      rw [exec_voteCoreState_of_begins hbegins hset hkind, castVote_of_locked hkind hlocked]
    · intro hwithdrawn
      rw [exec_voteWithdraw_of_begins hbegins hwithdrawn, castVote_of_locked hkind hlocked]
  · intro hwithdrawn hmay hfree
    rw [exec_voteWithdraw_of_begins hbegins hwithdrawn, castVote_of_allowed hfree hmay]
    rfl
  · intro x hx hset hmay hkind hfree
    exact exec_voteCommand_of_barred hbegins hset hmay x hx hkind hfree

end Sys2Proof.Machine
end

section
/-!
Power domains entering a deeper state, waking and releasing their pads (R525, R528, R530, R531): each command by the case of the domain's
record, for a domain, die or pad that the module has.
-/

namespace Sys2Proof.Machine

/-! ## Entries (R525) -/

section
variable {s : State} {d : Domain} {e : Entry} (hd : d.wf = true)
include hd

theorem exec_domainEntryBegin_of_permitted (hruns : firmwareRuns s = true) (hnone : (getPower s d).entry = none)
    (hawake : (getPower s d).waking = false) (hdeeper : (getPower s d).st < permitted s d)
    (hsleeps : sleepState d ≤ permitted s d) (hcan : canEnter s d = true) : exec (.domainEntryBegin d) s =
      .next (setPower s d { getPower s d with entry := some { target := permitted s d, committed := false } }) := by
  change execDomainEntryBegin d s = _
  simp only [execDomainEntryBegin, onDomain_of_wf hd, hruns, hnone, hawake, hdeeper, hsleeps, hcan, Option.isNone_none,
    Bool.not_false, decide_true, Bool.and_self, if_true]

section
variable (hentry : (getPower s d).entry = some e)
include hentry

theorem exec_entryComplete_of_uncommitted (hfirst : e.committed = false) : exec (.entryComplete d) s =
    .next (passPoint (setPower s d { getPower s d with entry := some { e with committed := true } }) d) := by
  change execEntryComplete d s = _
  simp only [execEntryComplete, onDomain_of_wf hd, hentry, hfirst, Bool.false_eq_true, if_false]

theorem exec_entryComplete_of_committed (hpassed : e.committed = true) :
    exec (.entryComplete d) s = .next (finishEntry s d e) := by
  change execEntryComplete d s = _
  simp only [execEntryComplete, onDomain_of_wf hd, hentry, hpassed, if_true]

end

end

/-! ## Wakes (R528) -/

/-- The state with the dies on the way from the hub to a die woken. -/
abbrev routeWoken (s : State) (d : Nat) (src : WakeSource) : State :=
  (wakeRoute s d).foldl (fun x k => wakeEvent x (.die k) src) s

section
variable {s : State} (src : WakeSource)

theorem exec_accessWake_core {c : Nat} (hc : (Domain.core c).wf = true) : exec (.accessWake (.core c) src) s =
    .next (wakeEvent (routeWoken s (dieOf c) src) (.core c) src) :=
  onCore_of_lt (of_decide_eq_true hc) _

theorem exec_accessWake_die {k : Nat} (hk : (Domain.die k).wf = true) :
    exec (.accessWake (.die k) src) s = .next (routeWoken s k src) :=
  onDie_of_lt (of_decide_eq_true hk) _

theorem exec_accessWake_photonic {k : Nat} (hk : (Domain.photonic k).wf = true) :
    exec (.accessWake (.photonic k) src) s = .next (wakeEvent s (.photonic k) src) :=
  onPd_of_lt (of_decide_eq_true hk) _

end

/-- The state once the wake of a domain is complete. -/
def domainWoken (s : State) : Domain → State
  | .core c => coreUp s c
  | .die k => dieWake s k
  | .photonic k => photonicUp s k
  | .module => leaveM2 s

/-- A wake ends at its domain; a core's waits for the core's die. -/
theorem exec_wakeComplete_of_waking {s : State} {d : Domain} (hd : d.wf = true) (hwaking : (getPower s d).waking = true)
    (hdie : ∀ c, d = .core c → dieUp s (dieOf c) = true) : exec (.wakeComplete d) s = .next (domainWoken s d) := by
  change execWakeComplete d s = _
  unfold execWakeComplete
  rw [onDomain_of_wf hd, hwaking, Bool.not_true, if_neg Bool.false_ne_true]
  cases d with
  | core c => exact if_pos (hdie c rfl)
  | die k => rfl
  | photonic k => rfl
  | module => rfl

/-! ## Pads (R530, R531) -/

section
variable {s : State}

theorem onPad_of_wf {d : Pad} (hd : d.wf = true) (o : Out) : onPad d o = o := by
  cases d with
  | hbmPhy k => exact onDie_of_lt (of_decide_eq_true hd) o
  | ucie k a =>
    obtain ⟨hk, ha⟩ : k < Config.nDies ∧ a < Config.nDies := by
      simpa only [Pad.wf, Bool.and_eq_true, decide_eq_true_eq] using hd
    rw [onPad, onDie_of_lt hk, onDie_of_lt ha]
  | xspi => rfl
  | elsfp => rfl
  | tdo => rfl

/-- The pads once one of them is released. -/
def releasedPad (p : Pads) : Pad → Pads
  | .hbmPhy k => { p with hbm := delNat p.hbm k }
  | .ucie k a => { p with ucie := p.ucie.filter fun x => !(x == (k, a) || x == (a, k)) }
  | .xspi => { p with xspi := false }
  | .elsfp => { p with elsfp := false }
  | .tdo => { p with tdo := false }

theorem exec_padRelease_of_ready {d : Pad} (hd : d.wf = true) (hready : padReady s d = true) :
    exec (.padRelease d) s = .next { s with pads := releasedPad s.pads d } := by
  change execPadRelease d s = _
  unfold execPadRelease
  rw [onPad_of_wf hd, hready, Bool.not_true, if_neg Bool.false_ne_true]
  cases d <;> rfl

end

/-- Settles O55: one lemma for each case of an entry, of an access, of the end of a wake and of the release of a pad. -/
theorem domainsEnterAndWake : Obligations.DomainsEnterAndWake := by
  unfold Obligations.DomainsEnterAndWake
  refine fun s d src e c k a hd => ⟨exec_domainEntryBegin_of_permitted hd, exec_entryComplete_of_uncommitted hd,
    exec_entryComplete_of_committed hd, ?_, ?_, ?_, fun hwaking => ⟨?_, ?_, ?_, ?_⟩, fun hk hup => ?_, fun hk ha hup hup' => ?_,
    exec_padRelease_of_ready rfl, exec_padRelease_of_ready rfl, exec_padRelease_of_ready rfl⟩
  · rintro rfl
    exact exec_accessWake_core src hd
  · rintro rfl
    exact exec_accessWake_die src hd
  · rintro (rfl | rfl)
    · exact exec_accessWake_photonic src hd
    · rfl
  · rintro rfl hup
    exact exec_wakeComplete_of_waking hd hwaking (by rintro _ ⟨⟩; exact hup)
  · rintro rfl
    exact exec_wakeComplete_of_waking hd hwaking nofun
  · rintro rfl
    exact exec_wakeComplete_of_waking hd hwaking nofun
  · rintro rfl
    exact exec_wakeComplete_of_waking hd hwaking nofun
  · exact exec_padRelease_of_ready (decide_eq_true hk) hup
  · have hd : (Pad.ucie k a).wf = true := by simp only [Pad.wf, hk, ha, decide_true, Bool.and_self]
    exact exec_padRelease_of_ready hd (by rw [padReady, hup, hup', Bool.and_self])

end Sys2Proof.Machine
end

section
/-!
Temperature, coolant and regulator phases (R536 to R538, R540 to R542, R581): each command by the case of its condition, and what a step
for too few phases leaves.
-/

namespace Sys2Proof.Machine

/-! ## Temperature (R540, R541) -/

section
variable {s : State}

theorem hubOn_m3 (hhub : hubOn s = true) : s.m3 = false := by
  simp only [hubOn, Bool.and_eq_true, Bool.not_eq_true'] at hhub
  exact hhub.1

/-- The state once every die and the hub have their readings. -/
abbrev sensorsRead (s : State) (temps : List (List Nat)) : State :=
  readHub ((List.range 4).foldl (fun x k => readPd x k (nth temps (16 + k) []))
    ((List.range 16).foldl (fun x d => readDie x d (nth temps d [])) s)) (nth temps 20 [])

theorem exec_sensorRead_of_hubOn (temps : List (List Nat)) (hhub : hubOn s = true) :
    exec (.sensorRead temps) s = .next (comparators (sensorsRead s temps) temps) := by
  change execSensorRead temps s = _
  rw [execSensorRead, hubOn_m3 hhub, hhub, if_neg Bool.false_ne_true, Bool.not_true, if_neg Bool.false_ne_true]
  rfl

section
variable {die : Nat} {h : Nat × Nat} (hdie : die < Config.nDies)
include hdie

theorem exec_throttleRepeat_of_hot
    (hhot : hotSensor s.assay.throttlePoint (getDie s die).power.temps = some h) :
    exec (.throttleRepeat die) s = .next (throttleStep s die h) := by
  change execThrottleRepeat die s = _
  rw [execThrottleRepeat, onDie_of_lt hdie, hhot]

theorem exec_throttleRise_of_cool (hcool : ∀ x ∈ (getDie s die).power.temps, x + 5 ≤ s.assay.throttlePoint) :
    exec (.throttleRise die) s = .next (retarget (modDie s die fun x => { x with power :=
      { x.power with thermalCeil := riseCeil s.fuses x.power.thermalCeil } }) die) := by
  have hall : (getDie s die).power.temps.all (fun x => x + 5 ≤ s.assay.throttlePoint) = true := by
    simpa only [List.all_eq_true, decide_eq_true_eq] using hcool
  change execThrottleRise die s = _
  rw [execThrottleRise, onDie_of_lt hdie, if_pos hall]

end

/-! ## Coolant (R542, R581) -/

theorem exec_coolantFault_of_running (hup : s.modulePd.st < 2) (hruns : firmwareRuns s = true) :
    exec .coolantFault s = .next (coolantStep { s with rind := { s.rind with coolantLow := true } }) :=
  (if_neg (Nat.not_le_of_lt hup)).trans (if_pos hruns)

/-- In M2 the Rind latches it (R581). -/
theorem exec_coolantFault_of_down (hdown : 2 ≤ s.modulePd.st) : exec .coolantFault s = .next (refreshAlert (alertConds s)
    { s with rind := { s.rind with coolantLow := true, coolantHeld := true } }) :=
  if_pos hdown

theorem exec_coolantClear (s : State) : exec .coolantClear s = .next ((List.range 16).foldl (fun x d =>
    retarget (modDie x d fun y => { y with power := { y.power with coolantCeil := none } }) d)
    { s with rind := { s.rind with coolantLow := false } }) := rfl

end

/-! ## A phase is retired (R536, R538) -/

/-- The commands that report a failed phase of a die. -/
abbrev phaseReports (die : Nat) : List Instr := [.phaseFailOpen die, .phaseSenseMismatch die]

section
variable {s : State} {die : Nat}

theorem exec_phaseReport_of_lt (hdie : die < 21) : ∀ x ∈ phaseReports die, exec x s = .next (retirePhase s die) := by
  simp only [phaseReports, List.forall_mem_cons, List.not_mem_nil, false_imp_iff, implies_true, and_true]
  exact ⟨show execPhaseFailOpen die s = _ from if_pos hdie, show execPhaseSenseMismatch die s = _ from if_pos hdie⟩

theorem retirePhase_of_compute (hcompute : die < 16) : retirePhase s die = retireDiePhase s die := if_pos hcompute

theorem retirePhase_of_photonic (hlow : 16 ≤ die) (hhigh : die < 20) : retirePhase s die = retirePdPhase s (die - 16) := by
  rw [retirePhase, if_neg (Nat.not_lt_of_le hlow), if_pos hhigh]

theorem retirePhase_hub : retirePhase s 20 = retireHubPhase s := rfl

/-! ## Steps for too few phases (R537) -/

section
variable (hdie : die < Config.nDies) (hslowest : (getDie s die).power.point ≠ 4)
include hdie hslowest

theorem exec_phaseStepRepeat_of_capped (hcapped : (getDie s die).power.phaseCeil ≠ none) :
    exec (.phaseStepRepeat die) s = .next (phaseStep s die) := by
  change execPhaseStepRepeat die s = _
  simp only [execPhaseStepRepeat, onDie_of_lt hdie, Option.isSome_iff_ne_none.mpr hcapped, bne_iff_ne.mpr hslowest, Bool.and_self,
    if_true]

theorem exec_currentExceedsPhaseCapacity_of_faster :
    exec (.currentExceedsPhaseCapacity die) s = .next (phaseStep s die) := by
  change execCurrentExceedsPhaseCapacity die s = _
  rw [execCurrentExceedsPhaseCapacity, onDie_of_lt hdie, if_neg hslowest]

end

end

/-! ## What an alarm and a target leave -/

/-- What a die reads of the state, and the alarms: the rest of an alarm's effects is in the Rind, the SMBus and the host's memory. -/
abbrev diesAndAlarms (s : State) : Tbl Die × Fuses × Alarms := (s.dies, s.fuses, s.alarms)

section
variable (s : State)

theorem refreshAlert_diesAndAlarms (old : Nat) : diesAndAlarms (refreshAlert old s) = diesAndAlarms s := by
  unfold refreshAlert
  split <;> rfl

theorem signalVector_diesAndAlarms (v : Nat) : diesAndAlarms (signalVector s v) = diesAndAlarms s := by
  unfold signalVector
  split
  · rfl
  · split <;> rfl

theorem raiseAlarm_diesAndAlarms (bit : Nat) : diesAndAlarms (raiseAlarm s bit) = diesAndAlarms (setAlarm s bit) := by
  have hpins : diesAndAlarms (refreshWake (refreshAlert (alertConds s) (setAlarm s bit))) = diesAndAlarms (setAlarm s bit) :=
    refreshAlert_diesAndAlarms (setAlarm s bit) _
  unfold raiseAlarm
  dsimp only
  split
  · exact (signalVector_diesAndAlarms _ _).trans hpins
  · exact hpins

theorem powerAlarm_diesAndAlarms (bit code detail : Nat) :
    diesAndAlarms (powerAlarm s bit code detail) = diesAndAlarms (setAlarm s bit) :=
  raiseAlarm_diesAndAlarms s bit

@[simp] theorem getDie_powerAlarm (bit code detail d : Nat) : getDie (powerAlarm s bit code detail) d = getDie s d :=
  congrArg (fun x : Tbl Die × Fuses × Alarms => tget x.1 d (Die.reset x.2.1.bin)) (powerAlarm_diesAndAlarms s bit code detail)

theorem powerAlarm_alarms (bit code detail : Nat) : (powerAlarm s bit code detail).alarms = (setAlarm s bit).alarms :=
  congrArg (fun x : Tbl Die × Fuses × Alarms => x.2.2) (powerAlarm_diesAndAlarms s bit code detail)

/-- The flag of R589 is set. -/
theorem powerAlarm_flag (code detail : Nat) {bit : Nat} (hbit : bit < 32) :
    (powerAlarm s bit code detail).alarms.status.getLsbD bit = true := by
  have hset : ((1 <<< bit : Nat) : Word).getLsbD bit = true := by
    rw [BitVec.natCast_eq_ofNat, BitVec.getLsbD_ofNat, Nat.one_shiftLeft, Nat.testBit_two_pow_self, decide_eq_true hbit,
      Bool.and_self]
  rw [powerAlarm_alarms, setAlarm, BitVec.getLsbD_or, hset, Bool.or_true]

end

@[simp] theorem aimAt_phaseLost (p : DiePower) (t : Nat) : (aimAt p t).phaseLost = p.phaseLost := by
  unfold aimAt
  split
  · rfl
  · split <;> rfl

@[simp] theorem aimAt_phaseLostCount (p : DiePower) (t : Nat) : (aimAt p t).phaseLostCount = p.phaseLostCount := by
  unfold aimAt
  split
  · rfl
  · split <;> rfl

section
variable (s : State) (die : Nat)

theorem phaseStep_power : (getDie (phaseStep s die) die).power = stepForPhases (getDie s die).power := by
  rw [phaseStep, getDie_powerAlarm, getDie_modDie]

theorem phaseStep_phaseLost : (getDie (phaseStep s die) die).power.phaseLost = true := by
  rw [phaseStep_power, stepForPhases, aimAt_phaseLost]

theorem phaseStep_phaseLostCount :
    (getDie (phaseStep s die) die).power.phaseLostCount = satInc 32 (getDie s die).power.phaseLostCount := by
  rw [phaseStep_power, stepForPhases, aimAt_phaseLostCount]

theorem phaseStep_alarm : (phaseStep s die).alarms.status.getLsbD 2 = true :=
  powerAlarm_flag _ _ _ (by decide)

end

/-- Settles O57: one lemma for each command and the case of its condition, and the flag, count and alarm of a step for phases. -/
theorem heatCoolantAndPhases : Obligations.HeatCoolantAndPhases := by
  unfold Obligations.HeatCoolantAndPhases
  refine ⟨fun s t die temps h => ⟨?_, exec_throttleRepeat_of_hot, exec_throttleRise_of_cool, exec_coolantFault_of_running,
    exec_coolantFault_of_down, exec_coolantClear s⟩, fun s t die => ⟨fun x hx => ⟨fun hcompute => ?_, fun hlow hhigh => ?_, ?_⟩,
    fun hdie hcapped hslowest => exec_phaseStepRepeat_of_capped hdie hslowest hcapped,
    exec_currentExceedsPhaseCapacity_of_faster, ?_⟩⟩
  · rintro hhub rfl
    exact exec_sensorRead_of_hubOn temps hhub
  · rw [exec_phaseReport_of_lt (by omega) x hx, retirePhase_of_compute hcompute]
  · rw [exec_phaseReport_of_lt (by omega) x hx, retirePhase_of_photonic hlow hhigh]
  · rintro rfl
    rw [exec_phaseReport_of_lt (by omega) x hx, retirePhase_hub]
  · rintro rfl
    exact ⟨phaseStep_phaseLost s die, phaseStep_phaseLostCount s die, phaseStep_alarm s die⟩

end Sys2Proof.Machine
end

section
/-!
Boot (R550, R553 to R556): each command by the stage of boot, the processors once their image is measured, and what the reports of a
restart leave of the boot.
-/

namespace Sys2Proof.Machine

/-! ## The start of boot (R550, R555) -/

/-- The state once `BOOT_SRC` is sampled. -/
abbrev bootSampled (s : State) (src : Bool) : State :=
  { s with boot := { s.boot with begun := true, bootSrc := src, slot := src, tried := [] } }

section
variable {s : State} (hmay : bootMayBegin s = true) (src : Bool)
include hmay

/-- What boot begins with, by what the boot ROM finds. -/
theorem exec_bootBegin_of_may (selfTest fuseCheck flash : Bool) : exec (.bootBegin src selfTest fuseCheck flash) s =
    if !selfTest then .next (bootFails (bootSampled s src) 9)
    else if !fuseCheck then .next (bootFails (bootSampled s src) 12)
    else if !flash then .next (bootFails { bootSampled s src with pads := { s.pads with xspi := false } } 10)
    else .next { bootSampled s src with
      pads := { s.pads with xspi := false }, boot := { (bootSampled s src).boot with stage := 1 } } := by
  change execBootBegin src selfTest fuseCheck flash s = _
  rw [execBootBegin, hmay, Bool.not_true, if_neg Bool.false_ne_true]

end

/-! ## Images (R553 to R555) -/

section
variable {s : State} (img : List Byte)

/-- The state with the header of the image of Assay firmware measured into CDI_A. -/
abbrev assayStarted (s : State) (img : List Byte) : State :=
  { s with boot := { s.boot with
      stage := 2, assayHeader := img.take 224,
      cdiA := Config.hmac384 s.fuses.uds (leBytes 48 (Config.sha384 (img.take 224)).toNat ++ [configByte s]),
      agreement := Config.deriveAgreement
        (Config.hmac384 s.fuses.uds (leBytes 48 (Config.sha384 (img.take 224)).toNat ++ [configByte s])) } }

theorem exec_assayImageRead_of_stage (hstage : s.boot.stage = 1) : exec (.assayImageRead img) s =
    .next (if imageValid s.fuses 1 img then assayStarted s img else giveUpSlot s) := by
  change execAssayImageRead img s = _
  rw [execAssayImageRead, hstage, bne_self_eq_false, if_neg Bool.false_ne_true]
  cases imageValid s.fuses 1 img <;> rfl

/-- The boot record with the header of the management image, before its measurement. -/
abbrev mgmtLoaded (b : Boot) (img : List Byte) : Boot :=
  { b with stage := 3, mgmtHeader := img.take 224, fwVersion := BitVec.ofNat 32 (leNat ((img.drop 16).take 4).reverse) }

/-- The state with the management image measured into CDI_M, its processors still held. -/
abbrev mgmtMeasured (s : State) (img : List Byte) : State :=
  { s with boot := { mgmtLoaded s.boot img with cdiM := deriveCdiM (mgmtLoaded s.boot img) s.boot.modeByte } }

theorem exec_managementImageRead_of_stage (hstage : s.boot.stage = 2) : exec (.managementImageRead img) s =
    .next (if imageValid s.fuses 2 img then startProcessors (mgmtMeasured s img) else giveUpSlot s) := by
  change execManagementImageRead img s = _
  rw [execManagementImageRead, hstage, bne_self_eq_false, if_neg Bool.false_ne_true]
  cases imageValid s.fuses 2 img <;> rfl

end

/-! ## The processors start (R466, R555) -/

/-- The state with both processors out of reset. -/
abbrev processorsReleased (s : State) : State :=
  { s with stamp := { s.stamp with
      mpA := { s.stamp.mpA with held := false, current := true, claim := none },
      mpB := { s.stamp.mpB with held := false, current := true, claim := none } } }

section
variable {s : State}

theorem startProcessors_of_max (hepoch : s.stamp.epoch = 0xFFFFFFFF) : startProcessors s = processorsReleased s :=
  if_pos (beq_iff_eq.mpr hepoch)

theorem startProcessors_of_below (hepoch : s.stamp.epoch ≠ 0xFFFFFFFF) :
    startProcessors s = grantStamp (processorsReleased s) .a none :=
  if_neg (mt beq_iff_eq.mp hepoch)

/-- Boot stands and neither processor is held, whether or not the stamp can be granted. -/
theorem startProcessors_running (s : State) : (startProcessors s).boot = s.boot ∧
    (startProcessors s).stamp.mpA.held = false ∧ (startProcessors s).stamp.mpB.held = false := by
  by_cases hepoch : s.stamp.epoch = 0xFFFFFFFF
  · rw [startProcessors_of_max hepoch]
    exact ⟨rfl, rfl, rfl⟩
  · rw [startProcessors_of_below hepoch]
    exact ⟨rfl, rfl, rfl⟩

/-- Below the largest epoch MP-A is granted the stamp. -/
theorem startProcessors_grant (hepoch : s.stamp.epoch ≠ 0xFFFFFFFF) :
    (startProcessors s).stamp.holder = 1 ∧ (startProcessors s).stamp.epoch = s.stamp.epoch + 1 := by
  rw [startProcessors_of_below hepoch]
  exact ⟨grantStamp_holder _ .a none, rfl⟩

end

/-! ## What the reports of a restart leave (R543, R555) -/

/-- What of the state says how far boot is, which pads are held, and whether the coolant input is low. -/
abbrev bootParts (s : State) : Boot × Pads × Bool := (s.boot, s.pads, s.rind.coolantLow)

theorem bootParts_eq_iff {s t : State} : bootParts t = bootParts s ↔
    t.boot = s.boot ∧ t.pads = s.pads ∧ t.rind.coolantLow = s.rind.coolantLow := by
  simp only [bootParts, Prod.mk.injEq]

theorem foldl_bootParts {α : Type} {f : State → α → State} (hf : ∀ t x, bootParts (f t x) = bootParts t) (l : List α)
    (s : State) : bootParts (l.foldl f s) = bootParts s :=
  foldl_has (P := fun t => bootParts t = bootParts s) (fun t x h => (hf t x).trans h) rfl

section
variable (s : State)

theorem refreshAlert_bootParts (old : Nat) : bootParts (refreshAlert old s) = bootParts s := by
  unfold refreshAlert
  split <;> rfl

theorem signalVector_bootParts (v : Nat) : bootParts (signalVector s v) = bootParts s := by
  unfold signalVector
  split
  · rfl
  · split <;> rfl

theorem raiseAlarm_bootParts (bit : Nat) : bootParts (raiseAlarm s bit) = bootParts s := by
  have hpins : bootParts (refreshWake (refreshAlert (alertConds s) (setAlarm s bit))) = bootParts s :=
    refreshAlert_bootParts (setAlarm s bit) _
  unfold raiseAlarm
  dsimp only
  split
  · exact (signalVector_bootParts _ _).trans hpins
  · exact hpins

theorem reportRestart_bootParts : bootParts (reportRestart s) = bootParts s := by
  unfold reportRestart
  split
  · rfl
  · exact (foldl_bootParts (fun _ _ => by rfl) _ _).trans (raiseAlarm_bootParts { s with restarted := [] } _)

theorem hardRepair_bootParts : bootParts (hardRepair s) = bootParts s := by
  unfold hardRepair
  exact foldl_bootParts (fun _ _ => by rfl) _ _

theorem retarget_bootParts (d : Nat) : bootParts (retarget s d) = bootParts s := by
  unfold retarget
  split <;> rfl

theorem eachDie_bootParts {f : State → Nat → State} (hf : ∀ t d, bootParts (f t d) = bootParts t) :
    bootParts (eachDie s f) = bootParts s :=
  foldl_bootParts hf _ _

theorem setPhases_bootParts (phases : List Nat) : bootParts (setPhases s phases) = bootParts s := by
  unfold setPhases
  extract_lets dies photonics
  have hdies : bootParts dies = bootParts s := eachDie_bootParts s fun t d => by
    dsimp only
    split <;> rfl
  have hphotonics : bootParts photonics = bootParts dies := foldl_bootParts (fun _ _ => by rfl) _ _
  clear_value photonics
  calc
    _ = bootParts photonics := eachDie_bootParts { photonics with hubPhases := min 4 (nth phases 20 4) } retarget_bootParts
    _ = bootParts s := hphotonics.trans hdies

end

/-! ## The mailbox is served, or boot stops (R555, R556) -/

/-- The state at the start of the mailbox, before repairs, phases and reports. -/
abbrev mailboxServed (s : State) : State :=
  { s with boot := { s.boot with stage := 4 }, pads := { s.pads with elsfp := false },
           hbmStacks := s.hbmStacks.map fun (e : Nat × Stack) => (e.1, { e.2 with selfRefresh := false }) }

/-- The state with the mailbox served, and the stacks repaired, the phases set and the restart reported. -/
abbrev firmwareUp (s : State) (phases : List Nat) : State := reportRestart (setPhases (hardRepair (mailboxServed s)) phases)

section
variable {s : State} (hstage : s.boot.stage = 3)
include hstage

theorem exec_firmwareReady_of_cool (phases : List Nat) (hcool : s.rind.coolantLow = false) :
    exec (.firmwareReady phases) s = .next (firmwareUp s phases) ∧
      (firmwareUp s phases).boot.stage = 4 ∧ (firmwareUp s phases).pads.elsfp = false := by
  have hparts : bootParts (firmwareUp s phases) = bootParts (mailboxServed s) := by
    rw [firmwareUp, reportRestart_bootParts, setPhases_bootParts, hardRepair_bootParts]
  obtain ⟨hboot, hpads, hlow⟩ := bootParts_eq_iff.mp hparts
  rw [hcool] at hlow
  refine ⟨?_, congrArg Boot.stage hboot, congrArg Pads.elsfp hpads⟩
  change execFirmwareReady phases s = _
  rw [execFirmwareReady, hstage, bne_self_eq_false, if_neg Bool.false_ne_true]
  dsimp only
  rw [hlow, if_neg Bool.false_ne_true]

theorem exec_bootTimeout_of_stage : exec .bootTimeout s = .next (bootFails s 11) := if_pos hstage

end

/-- Settles O59: one lemma for each command at the stage it belongs to, the start of the processors, and what firmware finds. -/
theorem bootFollowsItsChain : Obligations.BootFollowsItsChain := by
  unfold Obligations.BootFollowsItsChain
  intro s t src img phases
  refine ⟨?_, exec_assayImageRead_of_stage img, fun hstage => ?_,
    fun hstage hcool => ⟨_, exec_firmwareReady_of_cool hstage phases hcool⟩, exec_bootTimeout_of_stage, rfl, rfl, rfl, rfl⟩
  · rintro hmay rfl
    exact ⟨exec_bootBegin_of_may hmay src true true true, exec_bootBegin_of_may hmay src false,
      exec_bootBegin_of_may hmay src true false, exec_bootBegin_of_may hmay src true true false⟩
  · obtain ⟨hboot, hmpA, hmpB⟩ := startProcessors_running (mgmtMeasured s img)
    exact ⟨startProcessors (mgmtMeasured s img), exec_managementImageRead_of_stage img hstage, congrArg Boot.stage hboot,
      congrArg Boot.mgmtHeader hboot, hmpA, hmpB, congrArg Boot.cdiM hboot, startProcessors_grant (s := mgmtMeasured s img)⟩

end Sys2Proof.Machine
end

section
/-!
The debug port (R562, R563), the seven requests of attestation (R559, R564) and the SMBus port (R532, R577, R596 to R598): a transaction
is answered while the hub has power, a request of attestation while it comes in its order, and each by the rule of its own.
-/

namespace Sys2Proof.Machine

/-! ## The debug port (R562, R563) -/

/-- The keys that a port shows are zeroised. -/
abbrev Zeroised (p : Port) : Prop := p.keyCur = LinkKey.reset ∧ p.keyNext = none

/-- Ports whose keys are erased one after another all end without keys, and a port without keys keeps none. -/
theorem foldl_eraseKeys_zeroised {ks : List Nat} {s : State} {p : Nat} (h : p ∈ ks ∨ Zeroised (getPort s p)) :
    Zeroised (getPort (ks.foldl (fun x k => modPort x k eraseKeys) s) p) := by
  induction ks generalizing s with
  | nil => exact h.resolve_left List.not_mem_nil
  | cons k ks ih =>
    refine ih ?_
    by_cases hk : p = k
    · subst hk
      rw [getPort_modPort]
      exact .inr ⟨rfl, rfl⟩
    · rw [getPort_modPort_ne _ _ hk]
      exact h.imp_left fun hmem => (List.mem_cons.mp hmem).resolve_left hk

theorem openDebug_zeroised (s : State) {p : Nat} (hp : p < Config.nPorts) : Zeroised (getPort (openDebug s) p) := by
  unfold openDebug
  extract_lets ports left erased
  have herased : Zeroised (getPort erased p) := foldl_eraseKeys_zeroised (.inl (List.mem_range.mpr hp))
  clear_value erased
  exact herased

theorem exec_debugUnlock_of_closed {s : State} (token : List Byte) (hruns : assayRuns s = true) (hclosed : s.rind.debugOpen = false)
    (hfree : s.assay.unlockBarred = false) : exec (.debugUnlock token) s = .next
      (if tokenValid s token then openDebug s
       else { s with assay := { s.assay with debugRefused := satInc 32 s.assay.debugRefused,
                                             unlockBarred := decide (satInc 32 s.assay.debugRefused ≥ 8) } }) := by
  change execDebugUnlock token s = _
  rw [execDebugUnlock, hruns, hclosed, hfree, Bool.not_true, Bool.or_self, Bool.or_self, if_neg Bool.false_ne_true]
  cases tokenValid s token <;> rfl

/-! ## Transactions and their answers -/

/-- The part of the certificate chain that a request asks for. -/
abbrev certPart (s : State) (q : List Byte) : List Byte := ((certs s).drop (numAt q 4 2)).take (numAt q 6 2)

/-- The answer to a challenge, before its signature. -/
def challengeBody (s : State) (q : List Byte) : List Byte :=
  spdmHead 0x03 0 1 ++ digestBytes (Config.sha384 (certs s)) ++ leBytes 32 (Config.freeNat s.freeCtr) ++
    (if numAt q 3 1 = 0 then [] else digestBytes (Config.sha384 (measurements s).flatten)) ++ zeros 2

/-- The state after the alert response: the answer is the module's own address. -/
abbrev alertAnswered (s : State) : State :=
  { s with smbus := { s.smbus with
      reply := [BitVec.ofNat 8 (2 * (smbAddress s).toNat)], acked := true, alertReleased := true } }

section
variable {s : State} (hanswers : Answers s)
include hanswers

theorem smbTalk_of_answers (f : State → State) : smbTalk s f = .next (f s) := by
  obtain ⟨hup, hm3, hentry⟩ := hanswers
  rw [smbTalk, hm3, hup, hentry, if_neg Bool.false_ne_true, if_pos rfl, Option.isSome_none, if_neg Bool.false_ne_true]

/-! ## Attestation (R559, R564) -/

section
variable {q : List Byte} (hruns : assayRuns s = true)
include hruns

/-- A request of the right code and length is carried out when those before it are done. -/
theorem spdmTake_of_ready {code len : Nat} {ready : Spdm → Bool} {f : State → State} (hcode : numAt q 1 1 = code)
    (hlen : len ≤ q.length) (hready : ready s.spdm = true) : spdmTake s q code len ready f = .next (f s) := by
  have hform : (numAt q 1 1 != code || decide (q.length < len)) = false := by
    rw [hcode, bne_self_eq_false, Bool.false_or, decide_eq_false (Nat.not_lt_of_le hlen)]
  rw [spdmTake, smbTalk_of_answers hanswers, hruns, hready, hform, Bool.not_true, if_neg Bool.false_ne_true,
    if_neg Bool.false_ne_true, if_neg Bool.false_ne_true]

theorem exec_spdmGetVersion_of_ready (hcode : numAt q 1 1 = 0x84) (hlen : 4 ≤ q.length) : exec (.spdmGetVersion q) s =
    .next (spdmSend { s with spdm := { version := true, capabilities := false, algorithms := false, transcript := [] } } q
      [0x10, 0x04, 0, 0, 0, 1, 0x00, 0x12]) := by
  change execSpdmGetVersion q s = _
  exact spdmTake_of_ready hanswers hruns hcode hlen rfl

theorem exec_spdmGetCapabilities_of_ready (hcode : numAt q 1 1 = 0xE1) (hlen : 4 ≤ q.length) (hready : s.spdm.version = true) :
    exec (.spdmGetCapabilities q) s = .next (spdmSend { s with
      freeCtr := s.freeCtr + 1, spdm := { s.spdm with capabilities := true } } q (spdmHead 0x61 0 0 ++ zeros 1 ++
        leBytes 1 (Config.freeNat s.freeCtr) ++ zeros 2 ++ leBytes 4 0x16 ++ leBytes 8 (Config.freeNat s.freeCtr / 256))) := by
  change execSpdmGetCapabilities q s = _
  exact spdmTake_of_ready hanswers hruns hcode hlen hready

theorem exec_spdmNegotiateAlgorithms_of_ready (hcode : numAt q 1 1 = 0xE3) (hlen : 4 ≤ q.length)
    (hready : s.spdm.capabilities = true) : exec (.spdmNegotiateAlgorithms q) s =
      .next (spdmSend { s with spdm := { s.spdm with algorithms := true } } q (spdmHead 0x63 0 0 ++ leBytes 2 36 ++ leBytes 1 1 ++
        zeros 1 ++ leBytes 4 0x4 ++ leBytes 4 0x80 ++ leBytes 4 0x2 ++ zeros 16)) := by
  change execSpdmNegotiateAlgorithms q s = _
  exact spdmTake_of_ready hanswers hruns hcode hlen hready

section
variable (hready : s.spdm.algorithms = true)
include hready

theorem exec_spdmGetDigests_of_ready (hcode : numAt q 1 1 = 0x81) (hlen : 4 ≤ q.length) : exec (.spdmGetDigests q) s =
    .next (spdmSend s q (spdmHead 0x01 0 1 ++ digestBytes (Config.sha384 (certs s)))) := by
  change execSpdmGetDigests q s = _
  exact spdmTake_of_ready hanswers hruns hcode hlen hready

theorem exec_spdmGetCertificate_of_ready (hcode : numAt q 1 1 = 0x82) (hlen : 8 ≤ q.length) (hslot : numAt q 2 1 % 16 = 0) :
    exec (.spdmGetCertificate q) s = .next
      (if numAt q 4 2 < (certs s).length then spdmSend s q (spdmHead 0x02 0 0 ++ leBytes 2 (certPart s q).length ++
         leBytes 2 ((certs s).length - numAt q 4 2 - (certPart s q).length) ++ certPart s q)
       else spdmFail s 0x01) := by
  change execSpdmGetCertificate q s = _
  rw [execSpdmGetCertificate, spdmTake_of_ready hanswers hruns hcode hlen hready]
  by_cases hoff : numAt q 4 2 < (certs s).length
  · simp [hslot, hoff, Nat.not_le_of_lt hoff]
  · simp [hslot, hoff, Nat.le_of_not_lt hoff]

section
variable (hcode : numAt q 1 1 = 0x83) (hlen : 36 ≤ q.length)
include hcode hlen

theorem exec_spdmChallenge_of_open (hopen : s.rind.debugOpen = true) : exec (.spdmChallenge q) s = .next (spdmFail s 0x05) := by
  change execSpdmChallenge q s = _
  rw [execSpdmChallenge, spdmTake_of_ready hanswers hruns hcode hlen hready, if_pos hopen]

theorem exec_spdmChallenge_of_closed (hclosed : s.rind.debugOpen = false) : exec (.spdmChallenge q) s =
    .next (spdmSend { s with freeCtr := s.freeCtr + 1 } q
      (spdmSign { s with freeCtr := s.freeCtr + 1 } q (challengeBody s q))) := by
  change execSpdmChallenge q s = _
  rw [execSpdmChallenge, spdmTake_of_ready hanswers hruns hcode hlen hready, hclosed, if_neg Bool.false_ne_true]
  rfl

end

/-- The number of the measurements, unsigned. -/
theorem exec_spdmGetMeasurements_of_count (hcode : numAt q 1 1 = 0xE0) (hlen : 4 ≤ q.length) (hunsigned : numAt q 2 1 % 2 = 0)
    (hcount : numAt q 3 1 = 0) : exec (.spdmGetMeasurements q) s =
      .next (spdmSend { s with freeCtr := s.freeCtr + 1 } q (spdmHead 0x60 4 0 ++ leBytes 1 0 ++
        leBytes 3 0 ++ leBytes 32 (Config.freeNat s.freeCtr) ++ zeros 2)) := by
  change execSpdmGetMeasurements q s = _
  rw [execSpdmGetMeasurements, spdmTake_of_ready hanswers hruns hcode hlen hready, hunsigned, hcount]
  rfl

end

end

/-! ## The registers and the alert response (R562, R596 to R598) -/

theorem exec_smbNonceRead_of_runs (hruns : assayRuns s = true) : exec .smbNonceRead s = .next (smbReply { s with
    freeCtr := s.freeCtr + 1,
    assay := { s.assay with nonce := some (leBytes 32 (Config.freeNat s.freeCtr)) } } (leBytes 32 (Config.freeNat s.freeCtr))) := by
  change execSmbNonceRead s = _
  rw [execSmbNonceRead, smbTalk_of_answers hanswers, if_pos hruns]
  rfl

theorem exec_smbNonceRead_of_stopped (hstopped : assayRuns s = false) : exec .smbNonceRead s = .next (smbNack s) := by
  change execSmbNonceRead s = _
  rw [execSmbNonceRead, smbTalk_of_answers hanswers, hstopped, if_neg Bool.false_ne_true]

theorem exec_smbusAlertResponse_of_asserted (halert : alertN s = false) :
    exec .smbusAlertResponse s = .next (alertAnswered s) := by
  change execSmbusAlertResponse s = _
  rw [execSmbusAlertResponse, halert, if_neg Bool.false_ne_true, smbTalk_of_answers hanswers]
  rfl

end

/-! ## An address match in M2 (R532) -/

section
variable {s : State} {adr : BitVec 7} (hm3 : s.m3 = false) (hdown : 2 ≤ s.modulePd.st)
include hm3 hdown

/-- In M2 the hub hears the address, whether or not it is its own. -/
theorem exec_smbusAddressMatch_of_down : exec (.smbusAddressMatch adr) s = .next
    (if adr = smbAddress s then wakeEvent { s with smbus := { s.smbus with acked := true, sclHeld := true } } .module .smbus
     else { s with smbus := { s.smbus with acked := false } }) := by
  have hheard : (s.m3 || decide (s.modulePd.st < 2) && s.modulePd.entry.isNone) = false := by
    rw [hm3, decide_eq_false (Nat.not_lt_of_le hdown), Bool.false_and, Bool.or_self]
  change execSmbusAddressMatch adr s = _
  rw [execSmbusAddressMatch, hheard, if_neg Bool.false_ne_true]
  by_cases hadr : adr = smbAddress s
  · rw [hadr, bne_self_eq_false, if_neg Bool.false_ne_true, if_pos rfl]
    simp only [ge_iff_le, hdown, decide_true, Bool.true_or]
  · rw [if_pos (bne_iff_ne.mpr hadr), if_neg hadr]

end

/-- Settles O60: one lemma for a transaction and one for a request of attestation, then each command by its own. -/
theorem assayServesTheSmbusAndDebugPorts : Obligations.AssayServesTheSmbusAndDebugPorts := by
  unfold Obligations.AssayServesTheSmbusAndDebugPorts
  refine ⟨fun s token hruns hclosed hfree => ⟨exec_debugUnlock_of_closed token hruns hclosed hfree, rfl, rfl,
      fun p => openDebug_zeroised s⟩,
    fun s q hanswers hruns => ⟨exec_spdmGetVersion_of_ready hanswers hruns, exec_spdmGetCapabilities_of_ready hanswers hruns,
      exec_spdmNegotiateAlgorithms_of_ready hanswers hruns,
      fun hcode hlen hready => exec_spdmGetDigests_of_ready hanswers hruns hready hcode hlen, ?_, ?_,
      fun hcode hlen hready => exec_spdmGetMeasurements_of_count hanswers hruns hready hcode hlen⟩,
    fun s v e adr => ⟨fun hanswers => ?_, fun q ans => ⟨rfl, rfl⟩, rfl, ?_, ?_⟩⟩
  · rintro c rfl hcode hlen hready hslot
    exact exec_spdmGetCertificate_of_ready hanswers hruns hready hcode hlen hslot
  · intro hcode hlen hready
    exact ⟨exec_spdmChallenge_of_open hanswers hruns hready hcode hlen,
      fun hclosed => ⟨_, exec_spdmChallenge_of_closed hanswers hruns hready hcode hlen hclosed⟩⟩
  · have htalk := smbTalk_of_answers hanswers
    exact ⟨show execSmbIdentRead s = _ from htalk _, show execSmbStateRead s = _ from htalk _,
      show execSmbLatchRead s = _ from htalk _, show execSmbLatchWrite false v s = _ from htalk _,
      show execSmbLatchWrite true v s = _ from htalk _, show execSmbTempRead s = _ from htalk _,
      show execSmbPowerRead s = _ from htalk _, show execSmbAlarmRead s = _ from htalk _,
      show execSmbAlertEnRead s = _ from htalk _, show execSmbAlertEnWrite true e s = _ from htalk _,
      show execSmbAlertEnWrite false e s = _ from htalk _,
      exec_smbNonceRead_of_runs hanswers, exec_smbNonceRead_of_stopped hanswers,
      fun halert => ⟨_, exec_smbusAlertResponse_of_asserted hanswers halert, rfl, rfl, rfl, rfl, rfl⟩⟩
  · intro hm3 hdown hadr
    rw [exec_smbusAddressMatch_of_down hm3 hdown, if_pos hadr]
  · intro hm3 hdown hadr
    rw [exec_smbusAddressMatch_of_down hm3 hdown, if_neg hadr]

end Sys2Proof.Machine
end
